-- ==== Sys2Proof/Word.lean ====
section
/-! DEFINITION. The word types of the FV8 and their plainest arithmetic: bytes, granules' byte lists and
little-endian words (Table 0.5). -/

namespace Sys2Proof

/-- One byte. -/
abbrev Byte := BitVec 8

/-- One 64-bit register word (chapter 19). -/
abbrev Word64 := BitVec 64

/-- Little-endian value of a byte list: the first byte is the least significant (Table 0.5). -/
def leNat : List Byte → Nat
  | [] => 0
  | b :: bs => b.toNat + 256 * leNat bs

/-- The `n` little-endian bytes of `v`; higher bits are dropped. -/
def leBytes : Nat → Nat → List Byte
  | 0, _ => []
  | n + 1, v => BitVec.ofNat 8 v :: leBytes n (v / 256)

/-- Bits `[lsb + width - 1 : lsb]` of a number. -/
def bitsOf (v lsb width : Nat) : Nat := (v >>> lsb) % 2 ^ width

/-- `v` with bits `[lsb + width - 1 : lsb]` replaced by the low bits of `x`. -/
def setBitsOf (v lsb width x : Nat) : Nat :=
  v - (bitsOf v lsb width) * 2 ^ lsb + (x % 2 ^ width) * 2 ^ lsb

end Sys2Proof
end

