-- ==== Sys2Proof/Syntax.lean ====
section
/-! DEFINITION. The commands of the FV8: one constructor of `Instr` for each row of spec/opcode_table.json, with
the operands that the spec gives the row (packet fields of Tables 12.2, 12.3, 13.2, 13.4, 13.7, 15.1, register
words of chapter 19, crozier fields of Tables 5.2 to 5.7, and what a sensor, a neighbour, a partner or a verdict of
a signature or tag check brings). -/

namespace Sys2Proof

/-- Who makes a register access (R405): one of the four Lumyan cores, or the in-band path. -/
inductive RegSrc where
  | core (n : Nat)
  | inband
  deriving DecidableEq, Repr

/-- The SecTAG of a received MACsec frame (R258): its SCI, its AN, the packet number that the extended packet numbering of its
receive SA makes of it, and the verdict of its ICV. -/
structure SecTag where
  sci : BitVec 64
  an : BitVec 2
  pn : BitVec 64
  icvOk : Bool
  deriving DecidableEq, Repr

/-- What a frame that has a correct FCS brings beside its payload (R256): arrival port and sub-port, the addresses that its
answer goes to, and the destination that it names; an IPv4 address stands as ::ffff:a.b.c.d. Frames that are too long, fragmented,
with two tags or with a bad UDP checksum are FRAME_DISCARD's. -/
structure Src where
  port : Nat
  sub : Nat
  mac : BitVec 48
  ip : BitVec 128
  udp : BitVec 16
  dscp : BitVec 6
  pcp : BitVec 3
  dmac : BitVec 48
  dip : BitVec 128
  dport : BitVec 16
  vlan : Option (BitVec 12)
  sec : Option SecTag
  deriving DecidableEq, Repr

/-- The header of an arriving IPT packet (Table 12.2) beside its opcode and the fields of its body. `pn` is the packet number
of a packet with ENC, `tagOk` the verdict of its GCM tag (R269), `crc` the check value of a packet with E2E (R252). `tail` is
what its body holds behind the fields of its opcode: the whole body for an opcode that has none (R261). -/
structure Pkt where
  src : Src
  conn : BitVec 16
  seq : BitVec 32
  reqId : BitVec 48
  fence : Bool
  e2e : Bool
  enc : Bool
  pn : BitVec 64
  tagOk : Bool
  crc : BitVec 32
  ver : BitVec 4
  len : BitVec 16
  tail : List Byte
  deriving DecidableEq, Repr

/-- The 16-byte address block of a request body (Table 12.3). -/
structure Addr where
  handle : BitVec 32
  length : BitVec 32
  offset : BitVec 64
  deriving DecidableEq, Repr

/-- One argument slot of a CALL (Table 5.11). -/
structure CallSlot where
  tenant : BitVec 8
  handle : BitVec 32
  offset : BitVec 64
  rowLen : BitVec 32
  rows : BitVec 32
  stride : BitVec 64
  deriving DecidableEq, Repr

/-- The body of a CALL (Table 5.11, Table 12.3). -/
structure CallBody where
  plan : BitVec 32
  callId : BitVec 32
  nslots : BitVec 8
  nscalars : BitVec 8
  joint : Bool
  slots : List CallSlot
  scalars : List Word64
  deriving DecidableEq, Repr

/-- The fields of a SYNC request beside its operation code (Table 12.3); `a` holds words A0 to A7. -/
structure SyncArgs where
  wait : Bool
  timeout : BitVec 16
  obj : BitVec 16
  a : List Word64
  deriving DecidableEq, Repr

/-- The body of QP_CREATE (R273). -/
structure QpArgs where
  remoteQpn : BitVec 24
  remoteIp : BitVec 128
  udp : BitVec 16
  mtu : BitVec 8
  recvPsn : BitVec 24
  sendPsn : BitVec 24
  ackTimeout : BitVec 8
  retries : BitVec 8
  rnrRetries : BitVec 8
  deriving DecidableEq, Repr

/-- The key part of KEY_SET and KEY_ROTATE (Table 16.3): whether the key is generated, and for a supplied key
whether it unwraps (RFC 3394) and whether its halves are equal (R349). -/
structure KeyArg where
  generated : Bool
  unwrapOk : Bool
  halvesEqual : Bool
  deriving DecidableEq, Repr

/-- A consent record (Table 16.5) with the verdict of its signature. -/
structure Consent where
  planHash : BitVec 384
  caller : Nat
  grantor : Nat
  rights : Nat
  handle : BitVec 32
  consentId : BitVec 64
  sigOk : Bool
  deriving DecidableEq, Repr

/-- What an SPDM requester's KEY_EXCHANGE brings (R353, R355, R356): whether the exchange is mutually
authenticated and its checks hold, and the digest of the requester's leaf public key. -/
structure KeyExArg where
  mutualAuth : Bool
  ok : Bool
  digest : BitVec 384
  deriving DecidableEq, Repr

/-- An SPDM or secured message inside IPT SPDM (R348, R353), named by what its bytes make of it: the messages that have a
row of their own, and the others by their first bytes. -/
inductive SpdmMsg where
  | spdm (code : BitVec 8)          -- an SPDM message with this request code
  | tenantCommand (code : BitVec 8) -- a tenant command code, on a session that names none
  | other (first : BitVec 8)        -- any other first byte of a secured message
  | getVersion
  | getCapabilities
  | negotiateAlgorithms
  | getDigests
  | getCertificate (slot : Nat)
  | challenge (slot : Nat) (nonce : BitVec 256)
  | getMeasurements (index : Nat) (signed : Bool)
  | keyExchange (x : KeyExArg)
  | finish (session : BitVec 32) (ok : Bool)
  | heartbeat (session : BitVec 32)
  | keyUpdate (session : BitVec 32)
  | endSession (session : BitVec 32)
  | keySet (session : BitVec 32) (k : KeyArg)
  | keyRotate (session : BitVec 32) (k : KeyArg)
  | keyStatus (session : BitVec 32)
  | consentRegister (session : BitVec 32) (r : Consent)
  | consentWithdraw (session : BitVec 32) (id : BitVec 64)
  deriving DecidableEq, Repr

/-- The opcodes that travel in an IPT REQUEST (Table 12.3), with the fields of their bodies. -/
inductive ReqOp where
  | read (a : Addr)
  | write (a : Addr) (data : List Byte)
  | swap (a : Addr) (x : List Byte)
  | cas (a : Addr) (cmp swp : List Byte)
  | fetchAdd (a : Addr) (x : List Byte)
  | fetchAnd (a : Addr) (x : List Byte)
  | fetchOr (a : Addr) (x : List Byte)
  | fetchXor (a : Addr) (x : List Byte)
  | fetchSmin (a : Addr) (x : List Byte)
  | fetchSmax (a : Addr) (x : List Byte)
  | fetchUmin (a : Addr) (x : List Byte)
  | fetchUmax (a : Addr) (x : List Byte)
  | accum (a : Addr) (x : List Byte)
  | accumRc (a shadow : Addr) (x : List Byte)
  | move (src dst : Addr) (rowLen rows : BitVec 32) (srcStride dstStride : BitVec 64)
  | hint (a : Addr) (b : BitVec 8)
  | fence
  | rdS (a : Addr)
  | rdX (a : Addr)
  | upg (a : Addr)
  | rdNa (a : Addr)
  | wb (a : Addr) (data : List Byte)
  | cohJoin (credits : BitVec 16)
  | cohLeave
  | kvAlloc (handle : BitVec 32)
  | kvFree (handle block : BitVec 32)
  | publish (handle block : BitVec 32) (key : BitVec 128)
  | republish (handle block : BitVec 32) (key : BitVec 128) (version : BitVec 32)
  | unpublish (key : BitVec 128) (version : BitVec 32)
  | lookup (key : BitVec 128)
  | unpin (block : BitVec 32)
  | ringReduce (list : Addr) (elems : BitVec 32) (isMax scale emptyZero : Bool) (bagLen : BitVec 32)
      (scaleAddr dest : Addr)
  | ringRoute (ptrs table : Addr)
  | call (c : CallBody)
  | planLoad (index : BitVec 16) (off : BitVec 32) (chunk : List Byte)
  | planCommit (index alive : BitVec 16) (len crc : BitVec 32)
  | planUnload (index : BitVec 16)
  | sync (sop : BitVec 8) (x : SyncArgs)
  | invalidate (scope : BitVec 8) (kill : Bool) (value : BitVec 32)
  | faultPop (clear : Bool)
  | latencyTol (us : BitVec 32)
  | qpCreate (q : QpArgs)
  | qpDestroy (qpn : BitVec 24)
  | spdm (m : SpdmMsg)
  | sessionBind (session : BitVec 32)
  | undefined (code : BitVec 8)
  deriving DecidableEq, Repr

/-- The operation of a RoCEv2 packet (R272): the one that its command names, another of a reliable connected queue pair, or one
of a transport that the FV8 does not support. -/
inductive QpOp where
  | named | other | unsupported
  deriving DecidableEq, Repr

/-- A RoCEv2 packet addressed to a queue pair (R272), with the verdict of its ICRC. -/
structure QPkt where
  src : Src
  qpn : BitVec 24
  psn : BitVec 24
  icrcOk : Bool
  pkey : BitVec 16
  op : QpOp
  deriving DecidableEq, Repr

/-- A mover field of a crozier word (Table 5.4), less its MOP. -/
structure MoverField where
  slot : Nat
  areg : Nat
  inc : Bool
  len : Nat
  dkind : Nat
  dsel : Nat
  dbase : Nat
  doff : Nat
  tag : Nat
  rows : Nat
  deriving DecidableEq, Repr

/-- The unit half of a clump slot (Table 5.5), less its UOP. -/
structure UnitField where
  en : BitVec 8
  ubase : Nat
  uoff : Nat
  uarg : Nat
  deriving DecidableEq, Repr

/-- The vector half of a clump slot (Table 5.5), less its VOP. -/
structure VecField where
  en : BitVec 8
  vbase : Nat
  voff : Nat
  rm : Nat
  sat : Bool
  vfmt : Nat
  varg : Nat
  deriving DecidableEq, Repr

/-- What FEC reports with a cell (R278, R281, R288): whether the cell lies in an uncorrectable codeword, and, of the codewords that
have ended since the cell before, how many were corrected, how many were uncorrectable, and the symbols corrected. -/
structure CellFec where
  bad : Bool
  fixed : Nat
  lost : Nat
  symbols : Nat
  deriving DecidableEq, Repr

/-- A sequenced ring cell (Table 13.2), and what FEC reports with it where it arrives. -/
structure Cell where
  vc : Nat
  seq : Nat
  head : Bool
  tail : Bool
  retKind : Bool
  ret : Nat
  crc : BitVec 32
  payload : List Byte
  fec : CellFec
  deriving DecidableEq, Repr

/-- A LINK cell (Table 13.4): header bytes 0 to 3, its fields, the reserved bytes, its CRC, and what FEC reports with it where it
arrives. -/
structure LinkCell where
  word : BitVec 32
  ack : Nat
  nak : Bool
  freed : List Nat
  credit : List Nat
  req : Nat
  offerWidth : Nat
  offerSpeed : Nat
  station : BitVec 48
  device : Nat
  dir : Nat
  domain : Nat
  reserved : List Byte
  crc : BitVec 32
  fec : CellFec
  deriving DecidableEq, Repr

/-- The route header of a ring packet (Table 13.7). -/
structure RouteHdr where
  dst : Nat
  src : Nat
  cls : Nat
  last : Bool
  cells : Nat
  msgId : Nat
  index : Nat
  count : Nat
  bytes : Nat
  deriving DecidableEq, Repr

/-- The body of PAIR_HELLO (Table 15.1). -/
structure Hello where
  station : BitVec 48
  side : Nat
  term0 : BitVec 32
  term1 : BitVec 32
  state0 : Nat
  state1 : Nat
  deriving DecidableEq, Repr

/-- One entry of an epoch record (Table 15.3). -/
inductive EpochEntry where
  | extent (index : Nat) (state gen tenant start len prot hint : Nat) (coherent : Bool) (trights : Nat)
  | grant (index holder rights : Nat)
  | dir (line state : Nat) (coarse : Bool) (tenant gen : Nat) (ptrs groups : List Nat)
  | member (holder credits state : Nat)
  | sync (obj type : Nat) (durable faulted full : Bool) (crc : BitVec 32) (words : List Word64)
  | waiter (obj holder : Nat) (reqId : BitVec 48) (sop : Nat) (leftUs : Nat) (operand : List Word64)
  | replay (tenant holder : Nat) (reqId : BitVec 48) (status : Nat) (aux : Word64) (body : List Byte)
  | mark (holder : Nat) (mark : BitVec 48)
  | pfx (tenant : Nat) (key : BitVec 128) (block version stamp : Nat)
  | pin (holder block leftUs : Nat)
  | block (block state owner : Nat)
  deriving DecidableEq, Repr

/-- One fragment of an epoch record as it arrives (R326); the header fields of Table 15.2, its CRC among them, are those of its
record. -/
structure EpochFrag where
  set : Nat
  handover : Bool
  base : Bool
  term : BitVec 32
  epoch : Nat
  alive : Nat
  frag : Nat
  nfrag : Nat
  crc : BitVec 32
  entries : List EpochEntry
  deriving DecidableEq, Repr

/-- A tenant command inside a secured message (R348): the session that carries it, over IPT or over the management
path, and the connection that the answer goes to. -/
structure TenantCmd where
  pkt : Pkt
  session : BitVec 32
  mgmtPath : Bool
  deriving DecidableEq, Repr

/-- The transport under an SPDM message (R353): IPT on a connection, MCTP on I3C, or the management port. -/
inductive SpdmVia where
  | ipt (p : Pkt)
  | i3c
  | mgmt
  deriving DecidableEq, Repr

/-- An image with its header (R380): the verdicts of MAGIC and FORMAT, of KEY, of SIG and of BODY_HASH, and its
SVN, LOAD, ENTRY, CRC64 and body. -/
structure ImageArg where
  magicOk : Bool
  keyOk : Bool
  sigOk : Bool
  svn : Nat
  load : Nat
  entry : Nat
  crc64 : BitVec 64
  body : List Byte
  hashOk : Bool
  deriving DecidableEq, Repr

/-- What a message of a ring operator says to the device that receives it; the spec gives it no layout (entry 58). A member
is asked to combine the elements from `first` on of its own partial with those that the member before it sent, or to append
pointers to its list; the root is given finished elements. -/
inductive RingMsg where
  | other
  | combine (root opKey tenant holder pos handle off first count next : Nat) (isMax last : Bool) (acc : List Nat)
      (scales : Option (List Nat)) (bag : Nat) (emptyZero : Bool)
  | list (root opKey tenant holder pos handle off at_ countOff : Nat) (ptrs : List Nat) (last : Bool)
  | chunk (opKey first : Nat) (vals : List Nat)
  deriving DecidableEq, Repr, Inhabited

/-- The commands of the FV8. -/
inductive Instr where
  -- the sorus frame
  | frameBoundary
  | accessSlot (pc slot : Nat)
  | plannedSlot (pc slot : Nat)
  | guardSlot (pc slot : Nat)
  | refreshSlot (pc slot : Nat)
  | calSlot (pc slot lat : Nat)
  | scrubSlot (pc slot : Nat)
  | stackTempRead (stack : Nat) (sensors : List Nat)
  | calResultApply
  | plLatDown
  | ftmApplyEffect
  | dirPartitionEvict (bank : Nat)
  | commitPoint
  | strictOverrun
  -- calls and the sequencer
  | call (p : Pkt) (c : CallBody)
  | callLock (key : Nat)
  | callStart
  | callComplete
  | next
  | loop
  | endloop
  | endWord
  | slabReadDataReturn (pc : Nat)
  | rd (m : Nat) (f : MoverField)
  | wr (m : Nat) (f : MoverField)
  | gather (m : Nat) (f : MoverField)
  | scatter (m : Nat) (f : MoverField)
  | crd (m : Nat) (f : MoverField)
  | s2f (m : Nat) (f : MoverField)
  | f2s (m : Nat) (f : MoverField)
  | setareg (m : Nat) (f : MoverField)
  -- the units of a frond
  | mma (c : Nat) (u : UnitField)
  | mread (c : Nat) (u : UnitField)
  | bload (c : Nat) (u : UnitField)
  | merge (c : Nat) (u : UnitField)
  | hlookup (c : Nat) (u : UnitField)
  | hinsert (c : Nat) (u : UnitField)
  | bin (c : Nat) (u : UnitField)
  | ptr (c : Nat) (u : UnitField)
  | xchg (c : Nat) (u : UnitField)
  -- the vector unit
  | vAdd (c : Nat) (v : VecField)
  | vSub (c : Nat) (v : VecField)
  | vMul (c : Nat) (v : VecField)
  | vFma (c : Nat) (v : VecField)
  | vMin (c : Nat) (v : VecField)
  | vMax (c : Nat) (v : VecField)
  | vMinnum (c : Nat) (v : VecField)
  | vMaxnum (c : Nat) (v : VecField)
  | vCmp (c : Nat) (v : VecField)
  | vCvt (c : Nat) (v : VecField)
  | vIntAdd (c : Nat) (v : VecField)
  | vIntSub (c : Nat) (v : VecField)
  | vIntMul (c : Nat) (v : VecField)
  | vShl (c : Nat) (v : VecField)
  | vShr (c : Nat) (v : VecField)
  | vSar (c : Nat) (v : VecField)
  | vAnd (c : Nat) (v : VecField)
  | vOr (c : Nat) (v : VecField)
  | vXor (c : Nat) (v : VecField)
  | vPopcnt (c : Nat) (v : VecField)
  | vClz (c : Nat) (v : VecField)
  | vDot4 (c : Nat) (v : VecField)
  | vExp2 (c : Nat) (v : VecField)
  | vLog2 (c : Nat) (v : VecField)
  | vRcp (c : Nat) (v : VecField)
  | vRsqrt (c : Nat) (v : VecField)
  | vSumReduce (c : Nat) (v : VecField)
  | vMaxReduce (c : Nat) (v : VecField)
  | vMinReduce (c : Nat) (v : VecField)
  | vPermute (c : Nat) (v : VecField)
  | vBroadcast (c : Nat) (v : VecField)
  | vLd (c : Nat) (v : VecField)
  | vSt (c : Nat) (v : VecField)
  | vRand (c : Nat) (v : VecField)
  | vSetbase (c : Nat) (v : VecField)
  | vPset (c : Nat) (v : VecField)
  | vXrecv (c : Nat) (v : VecField)
  | frondFault (phys : Nat)
  | frondSubstitution
  | frdRetire (src : RegSrc) (w : Word64)
  -- plans
  | planLoad (p : Pkt) (index : BitVec 16) (off : BitVec 32) (chunk : List Byte)
  | planCommit (p : Pkt) (index alive : BitVec 16) (len crc : BitVec 32)
  | planCommitComplete (index : Nat)
  | planUnload (p : Pkt) (index : BitVec 16)
  -- the access plane
  | read (p : Pkt) (a : Addr)
  | write (p : Pkt) (a : Addr) (data : List Byte)
  | swap (p : Pkt) (a : Addr) (x : List Byte)
  | cas (p : Pkt) (a : Addr) (cmp swp : List Byte)
  | fetchAdd (p : Pkt) (a : Addr) (x : List Byte)
  | fetchAnd (p : Pkt) (a : Addr) (x : List Byte)
  | fetchOr (p : Pkt) (a : Addr) (x : List Byte)
  | fetchXor (p : Pkt) (a : Addr) (x : List Byte)
  | fetchSmin (p : Pkt) (a : Addr) (x : List Byte)
  | fetchSmax (p : Pkt) (a : Addr) (x : List Byte)
  | fetchUmin (p : Pkt) (a : Addr) (x : List Byte)
  | fetchUmax (p : Pkt) (a : Addr) (x : List Byte)
  | accum (p : Pkt) (a : Addr) (x : List Byte)
  | accumRc (p : Pkt) (a shadow : Addr) (x : List Byte)
  | move (p : Pkt) (src dst : Addr) (rowLen rows : BitVec 32) (srcStride dstStride : BitVec 64)
  | moveChunk (key : Nat)
  | moveComplete (key : Nat)
  | hint (p : Pkt) (a : Addr) (b : BitVec 8)
  | hintPrefetchDone (key : Nat)
  | fence (p : Pkt)
  | fenceComplete (conn : Nat)
  | replayEntryExpire (tenant holder : Nat) (reqId : BitVec 48)
  | accessDispatch (moveEngine : Bool)
  | egressDispatch (port sub : Nat)
  | rdmaReadChunk (key : Nat)
  | writeQueueAdmit (pc : Nat)
  | bankIdlePrecharge (pc bank : Nat)
  -- coherence
  | cohJoin (p : Pkt) (credits : BitVec 16)
  | cohLeave (p : Pkt)
  | rdS (p : Pkt) (a : Addr)
  | rdX (p : Pkt) (a : Addr)
  | upg (p : Pkt) (a : Addr)
  | rdNa (p : Pkt) (a : Addr)
  | wb (p : Pkt) (a : Addr) (data : List Byte)
  | ack (p : Pkt) (txn : BitVec 32)
  | rspMiss (p : Pkt) (txn : BitVec 32)
  | rspMissWb (p : Pkt) (txn : BitVec 32)
  | rspClean (p : Pkt) (txn : BitVec 32)
  | rspDirty (p : Pkt) (txn : BitVec 32) (data : List Byte)
  | grantResend (txn : Nat)
  | snoopRetry (txn agent : Nat)
  | waitLimitExpire (line : Nat)
  | sweepDone (agent : Nat)
  | dirKick (src : RegSrc) (w : Word64)
  | dirRevokedRead (src : RegSrc)
  -- KV-cache and embedding services
  | kvAlloc (p : Pkt) (handle : BitVec 32)
  | kvFree (p : Pkt) (handle block : BitVec 32)
  | publish (p : Pkt) (handle block : BitVec 32) (key : BitVec 128)
  | republish (p : Pkt) (handle block : BitVec 32) (key : BitVec 128) (version : BitVec 32)
  | unpublish (p : Pkt) (key : BitVec 128) (version : BitVec 32)
  | lookup (p : Pkt) (key : BitVec 128)
  | unpin (p : Pkt) (block : BitVec 32)
  | pinExpire (holder block : Nat)
  | pfxReclaim (src : RegSrc) (w : Word64)
  | ringReduce (p : Pkt) (list : Addr) (elems : BitVec 32) (isMax scale emptyZero : Bool) (bagLen : BitVec 32)
      (scaleAddr dest : Addr)
  | ringRoute (p : Pkt) (ptrs table : Addr)
  | ringOpComplete (key status pos : Nat) (parts : List (List Word64))
  | ringMemberTimeout (key pos : Nat)
  -- synchronisation objects
  | syncRead (p : Pkt) (x : SyncArgs)
  | waitFor (p : Pkt) (x : SyncArgs)
  | cAdd (p : Pkt) (x : SyncArgs)
  | cCas (p : Pkt) (x : SyncArgs)
  | bArrive (p : Pkt) (x : SyncArgs)
  | sAcquire (p : Pkt) (x : SyncArgs)
  | sRelease (p : Pkt) (x : SyncArgs)
  | tTake (p : Pkt) (x : SyncArgs)
  | tServe (p : Pkt) (x : SyncArgs)
  | mPut (p : Pkt) (x : SyncArgs)
  | mGet (p : Pkt) (x : SyncArgs)
  | fUpdate (p : Pkt) (x : SyncArgs)
  | init (p : Pkt) (x : SyncArgs)
  | syncWaitTimeout (obj holder : Nat) (reqId : BitVec 48)
  | syncSlotResult
  | syncTimeout
  -- stacks
  | napEntryComplete (stack : Nat)
  | napExitStart (stack : Nat)
  | napExitComplete (stack : Nat) (lats : List (Nat × Nat))
  | stackTrainingComplete (lats : List (Nat × Nat)) (failed : List Nat) (ms : Nat)
  | pcRetire (pc cause : Nat)
  | pcRetireCommandEffect
  | smcRetire (src : RegSrc) (stack : Nat) (w : Word64)
  | scrubVisit (pc : Nat)
  | rebuildStep
  | eccRemapAdd (src : RegSrc) (w : Word64)
  | eccRemapLogRead (src : RegSrc)
  | crcGo (src : RegSrc) (u : Nat) (w : Word64)
  | crcComputeDone (u : Nat)
  -- ports and transports
  | arpRequest (src : Src) (target : BitVec 32)
  | neighbourSolicitation (src : Src) (target : BitVec 128)
  | echoRequest (src : Src) (target : BitVec 128) (v6 : Bool) (data : List Byte)
  | mkaFrame (port sub : Nat) (body : List Byte)
  | pfcFrame (port sub : Nat) (enable : BitVec 8) (quanta : List Nat)
  | connect (src : Src) (seq : BitVec 32) (holder : BitVec 16)
  | close (src : Src) (conn : BitVec 16)
  | msgAck (p : Pkt) (acked : BitVec 32)
  | messageResend (conn : Nat) (seq : BitVec 32)
  | admitTokenRefill (port : Nat)
  | spdm (p : Pkt) (m : SpdmMsg)
  | sessionBind (p : Pkt) (session : BitVec 32)
  | latencyTol (p : Pkt) (us : BitVec 32)
  | qpCreate (p : Pkt) (q : QpArgs)
  | qpDestroy (p : Pkt) (qpn : BitVec 24)
  | invalidate (p : Pkt) (scope : BitVec 8) (kill : Bool) (value : BitVec 32)
  | invalidateComplete (key : Nat)
  | faultPop (p : Pkt) (clear : Bool)
  | rdmaRead (r : QPkt) (rkey : BitVec 32) (va : BitVec 64) (len : BitVec 32)
  | rdmaWrite (r : QPkt) (rkey : BitVec 32) (va : BitVec 64) (data : List Byte)
  | atomicCmpswap (r : QPkt) (rkey : BitVec 32) (va : BitVec 64) (cmp swp : Word64)
  | atomicFetchadd (r : QPkt) (rkey : BitVec 32) (va : BitVec 64) (x : Word64)
  | send (r : QPkt) (p : Pkt) (isRequest : Bool) (op : ReqOp)
  | cnpReceive (qpn : BitVec 24)
  | rateRise (qpn : BitVec 24)
  | prtHcfgWrite (src : RegSrc) (w : Word64)
  -- ring links
  | cellReceive (n : Nat) (cell : Cell)
  | linkCellReceive (n : Nat) (cell : LinkCell)
  | nakRepeat (n : Nat)
  | replayTimeout (n : Nat)
  | linkCellPeriodic (n : Nat)
  | trainingStart (n : Nat)
  | trainingComplete (n : Nat) (cell : LinkCell)
  | trainingTimeout (n : Nat)
  | fastRetrain (n : Nat)
  | fastRetrainComplete (n : Nat)
  | retrainTimeout (n : Nat)
  | pcsLinkDown (n : Nat)
  | miscabledRetry (n : Nat)
  | lnkCtrlRetrain (src : RegSrc) (n : Nat)
  | lnkCtrlReset (src : RegSrc) (n : Nat)
  | linkStateNotice (n origin seq states : Nat)
  | linkStateRefresh
  | linkUpHoldExpire (device dir : Nat)
  | packetInject (tenant : Option Nat) (dst : Nat) (data : List Byte)
  | packetForward (n vc : Nat)
  | packetArrive (n : Nat) (h : RouteHdr) (data : List Byte)
  | reasmTimeout (src msgId : Nat)
  | queueSample
  -- lichen pairs
  | pairConnectionForm (ok : Bool)
  | pairHello (h : Hello)
  | pairRange (op set : Nat) (term : BitVec 32) (index start len : Nat)
  | pairRangeAnswer (result : Nat)
  | epoch (f : EpochFrag)
  | epochAck (set status alive : Nat) (term : BitVec 32)
  | xltCmdDone
  | mirror (set kind : Nat) (term : BitVec 32) (off : Nat) (data : List Byte) (replay : Option EpochEntry)
  | mirrorAck (key status : Nat) (term : BitVec 32)
  | pairRead (set : Nat) (term : BitVec 32) (off granules : Nat)
  | pairReadAnswer (key status : Nat) (data : List Byte)
  | rpUpdate (peer off : Nat) (delta : List Byte)
  | rpUpdateAck (key : Nat)
  | rpRead (peer off : Nat) (parity : Bool)
  | peerRetransmit (key : Nat)
  | leaseFence (set : Nat)
  | takeoverStart (set : Nat)
  | takeoverComplete (set : Nat)
  | heldNotifyDiscard (holder : Nat)
  | replayHoldExpire (set : Nat)
  | handover (src : RegSrc) (w : Word64)
  | resyncCopy (set : Nat)
  | resyncTimeout (set : Nat)
  -- extents
  | create (src : RegSrc) (w : Word64)
  | grant (src : RegSrc) (w : Word64)
  | ungrant (src : RegSrc) (w : Word64)
  | setTrights (src : RegSrc) (w : Word64)
  | revoke (src : RegSrc) (w : Word64)
  | revokeComplete (index : Nat)
  | release (src : RegSrc) (w : Word64)
  | unquarantine (src : RegSrc) (w : Word64)
  | xltNop (src : RegSrc) (w : Word64)
  | xltRevokeDoneRead (src : RegSrc)
  | xltMfqPop (src : RegSrc) (w : Word64)
  | xltMfqFaultLostClear (src : RegSrc) (w : Word64)
  -- keys, consent, attestation, debug
  | keySet (c : TenantCmd) (k : KeyArg)
  | keyRotate (c : TenantCmd) (k : KeyArg)
  | keyStatus (c : TenantCmd)
  | keyRotationEffect
  | rekeySweep (tenant : Nat)
  | consentRegister (c : TenantCmd) (r : Consent)
  | consentVerifyDone (key : Nat)
  | consentWithdraw (c : TenantCmd) (consentId : BitVec 64)
  | secRotate (src : RegSrc) (tenant : Nat) (w : Word64)
  | secRetire (src : RegSrc) (tenant : Nat) (w : Word64)
  | getVersion (via : SpdmVia)
  | getCapabilities (via : SpdmVia)
  | negotiateAlgorithms (via : SpdmVia)
  | getDigests (via : SpdmVia)
  | getCertificate (via : SpdmVia) (slot : Nat)
  | challenge (via : SpdmVia) (slot : Nat) (nonce : BitVec 256)
  | getMeasurements (via : SpdmVia) (index : Nat) (signed : Bool)
  | keyExchange (via : SpdmVia) (x : KeyExArg)
  | finish (via : SpdmVia) (session : BitVec 32) (ok : Bool)
  | heartbeat (via : SpdmVia) (session : BitVec 32)
  | keyUpdate (via : SpdmVia) (session : BitVec 32)
  | endSession (via : SpdmVia) (session : BitVec 32)
  | heartbeatMiss (session : BitVec 32)
  | peerSessionRetry (pair : Bool) (peer : Nat) (ok : Bool)
  | debugUnlock (keyDigest : BitVec 384) (sigOk : Bool)
  | debugTimeout
  | relock (src : RegSrc)
  -- Lumyan
  | wdtKick (src : RegSrc) (c : Nat)
  | wdtExpire (c : Nat)
  | evcNativeDelivery (c : Nat)
  | evcClaim (src : RegSrc) (c : Nat)
  | evcEoi (src : RegSrc) (c : Nat) (w : Word64)
  | evcSwset (src : RegSrc) (w : Word64)
  | evcGateWrite (src : RegSrc) (w : Word64)
  | evcHoldoffExpire (g : Nat)
  | wfiWake (c : Nat)
  | thmSample (points : List Int) (mv : List Nat)
  | thmInputSample (v i p : Nat)
  | memUe (core addr : Nat)
  | tlsConnect (digest : BitVec 384)
  | redfishRawRegister (conn off : Nat) (value : Option Word64)
  | redfishReset (conn : Nat)
  | operatorSlotChange (conn slot : Nat) (digest : BitVec 384) (role : Nat) (enabled : Bool)
  | getSensorReading (id : Nat)
  | getSensorThresholds (id : Nat)
  | uartInput (b : Byte)
  | imageStage (x : ImageArg)
  | activate (src : RegSrc) (w : Word64)
  | confirm (src : RegSrc) (w : Word64)
  | commit (src : RegSrc) (w : Word64) (admin : Bool)
  | fwNop (src : RegSrc) (w : Word64)
  | trialTimeout
  | recoveryImage (x : ImageArg)
  | manufacturePersonalisation
  | provision (tokenOk : Bool)
  | deploy (conn : Nat)
  | hold (conn : Nat)
  | serviceHoldRelease (conn : Nat)
  | rma (tokenOk : Bool)
  | scrap (conn : Option Nat) (tokenOk : Bool)
  | bist (src : RegSrc) (w : Word64) (admin : Bool)
  | bistDone (fails : List Word64) (more : Nat)
  | bstFailRead (src : RegSrc)
  | ppr (src : RegSrc) (w : Word64) (admin : Bool)
  | pprDone (result : Nat)
  -- power, reset and start-up
  | powerUp
  | railPowerGood (rail : Nat)
  | railTimeout (rail : Nat)
  | railRetry
  | inputWarn
  | inputFault
  | inputRestore
  | sysclkLoss
  | refclkLoss (refb : Bool)
  | powerCapEval
  | deepExitStart
  | deepExitComplete
  | service (src : RegSrc)
  | wake (src : RegSrc)
  | reset (src : RegSrc) (w : Word64)
  | resetHandoverTimeout
  | fullReset (cause : Nat)
  | stacksOk (src : RegSrc) (w : Word64)
  | pairWaitTimeout
  -- registers
  | registerWrite (src : RegSrc) (off : Nat) (w : Word64)
  | apply (src : RegSrc) (page : Nat)
  | discard (src : RegSrc) (page : Nat)
  | pgEvtStatusClear (src : RegSrc) (page : Nat) (w : Word64)
  | pgEvtForce (src : RegSrc) (page : Nat) (w : Word64)
  | pgLock (src : RegSrc) (page : Nat) (w : Word64)
  | applyAll (src : RegSrc)
  | discardAll (src : RegSrc)
  | clear (src : RegSrc)
  -- rows added at the end of the table
  | linkChange (port sub : Nat) (up : Bool)
  | frameDiscard (port sub cause : Nat)
  | undefinedOpcode (p : Pkt) (code : BitVec 8)
  | rpReadAnswer (key : Nat) (words : List (List Byte))
  | rocev2Ack (qpn psn : BitVec 24) (kind : Nat)
  | localAckTimeout (qpn : BitVec 24)
  | rnrTimerExpire (qpn : BitVec 24)
  | sysclkRestore
  | sweepVisit (agent : Nat)
  | registerRead (src : RegSrc) (off : Nat)
  | wakeTimer
  deriving DecidableEq, Repr

end Sys2Proof
end

