-- ==== Sys2Proof/Decode.lean ====
section
/-! DEFINITION. The commands that words spell: the rows of the opcode table give no bits, so no word spells a command. -/

namespace Sys2Proof

/-- The command that a word spells by the table's bits: none, since no row of the table has bits. -/
def decodeTableWord (_nbits _w : Nat) : Option Instr := none

end Sys2Proof
end

