-- ==== Sys2Proof/Config.lean ====
section
/-! DEFINITION. The values that the spec leaves open, as opaque functions: nothing can be proved of a value of theirs,
so a claim holds whatever the hardware gives. Each is named in the assumption log. -/

namespace Sys2Proof.Config

/-- What the bytes of a peer message say of a ring operator (R184, R185, R299). -/
opaque ringMsg : List (BitVec 8) → RingMsg

/-- Bytes that the RoCEv2 receive buffer of a priority holds (R257). -/
opaque roceBuffer : Nat

/-- Which of the 16 access request engines, or of the 4 bulk-move engines, takes a request (R310). -/
opaque engine : Nat → Nat

/-- The set of the second-level TLB that holds a key (chapter 2). -/
opaque l2Set : Nat → Nat

/-- The hash that gives a cushion set for a line number (chapter 6). -/
opaque cushionSet : Nat → Nat

/-- The fixed hash that gives a directory set for a line number (R152). -/
opaque dirSet : Nat → Nat

/-- The atomic unit of a granule (R127). -/
opaque atomicUnit : Nat → Nat

/-- Whether the decoder corrects a word with five or more symbol errors, and the bytes it then delivers (R225). -/
opaque rsCorrects : Nat → Bool

/-- See `rsCorrects`. -/
opaque rsByte : Nat → Nat → BitVec 8

/-- The results of EXP2 and LOG2 within 2 ulp, and of RCP and RSQRT within 1 ulp, the same on every FV8 (R78). -/
opaque exp2 : BitVec 32 → BitVec 32

/-- See `exp2`. -/
opaque log2 : BitVec 32 → BitVec 32

/-- See `exp2`. -/
opaque rcp : BitVec 32 → BitVec 32

/-- See `exp2`. -/
opaque rsqrt : BitVec 32 → BitVec 32

/-- The k bits, of a 32-bit draw, that stochastic rounding takes when fewer than 32 significand bits are discarded
(R71). -/
opaque srBits : Nat → BitVec 32 → Nat

/-- The 64-bit Philox key that the entropy source gives an atomic unit at a reset: unit and name of the reset's entropy
(R134). -/
opaque atomicKey : Nat → Nat → BitVec 64

/-- The counter block of an atomic unit's first evaluation, and the word of an evaluation's four that it draws (R134). -/
opaque atomicCounter : Nat → BitVec 128

/-- See `atomicCounter`. -/
opaque atomicWord : Nat

/-- SHA-384 of a byte string (R108, R354); its values are those of FIPS 180-4, which the spec does not restate. -/
opaque sha384 : List (BitVec 8) → BitVec 384

/-- AES-256-XTS of a granule under a tenant or device key: key name, granule number, KEYGEN and plaintext to ciphertext
(R344); its values are those of the standard, which the spec does not restate. -/
opaque xtsEncrypt : Nat → Nat → Nat → List (BitVec 8) → List (BitVec 8)

/-- The inverse of `xtsEncrypt`: ciphertext to plaintext. -/
opaque xtsDecrypt : Nat → Nat → Nat → List (BitVec 8) → List (BitVec 8)

/-- The name of the device key, held by SEC, under which the validity map and the reserve are encrypted (R233). -/
opaque deviceKey : Nat

/-- Fields of an epoch record's entry to which the spec gives no layout (Table 15.3): the extent-table entry (kind 1) and the head
of a cached response (kind 7), from their values. -/
opaque entryField : Nat → List Nat → List (BitVec 8)

/-- What a 64-byte unit descriptor holds: unit opcode, field number and bytes to the field's value. Its layout is part
of Bruong's runtime interface, which the spec leaves out (Table 5.6). -/
opaque descField : Nat → Nat → List (BitVec 8) → Nat

/-- The station ID of each link's port, from fuses (Table 13.10). -/
opaque station : Nat → BitVec 48

/-- The flash record of MAC addresses, by sub-port 4p + s; 0 where flash holds none (R438). -/
opaque flashMac : Nat → BitVec 48

/-- Whether the flash port record names a port (Table 18.4, step 4). -/
opaque flashPort : Nat → Bool

/-- A value that the spec leaves open inside a call, by its kind and by what R83 lets it depend on: where and when it arises
in the call, the plan image, the scalars and the operands. -/
opaque callFree : Nat → List Nat → Nat

/-- The lane that a BROADCAST takes, from the bits of its field (Table 5.5 names none). -/
opaque broadcastLane : List Nat → Nat

/-- Free bits of other values the spec does not state, numbered by the log entry that names them. -/
opaque freeBits : Nat → Nat → BitVec 64

end Sys2Proof.Config
end

