-- ==== Sys2Proof/Machine/RegTable.lean ====
section
/-! DEFINITION. The register window of the FV8 as its tables give it: for every field its place, width, access, reset
value and range (Tables 2.7 to 2.15, 3.6 to 3.11, 4.8 to 4.10, 5.15 to 5.18, 6.6 to 6.9, 7.8 to 7.12, 8.5 to 8.7,
9.5 to 9.7, 10.6 to 10.8, 11.8 to 11.13, 12.6 to 12.8, 13.9 to 13.13, 14.2 to 14.4, 15.8 to 15.11, 16.9 to 16.11,
17.10 to 17.13, 18.5, 18.6, 19.1 to 19.8), and which registers are direct (Table 19.5). -/

namespace Sys2Proof.Machine

/-- The Access column of a field (R409). -/
inductive Acc where
  | rw | ro | rc | w1c | wo
  deriving DecidableEq, Repr

/-- One register field: window offset of its register (the first one of an array), place, access, reset value,
range, and the safe value of an enumeration (R411). -/
structure Fd where
  off : Nat
  lsb : Nat
  w : Nat
  acc : Acc
  reset : Nat
  lo : Nat
  hi : Nat
  safe : Option Nat
  deriving DecidableEq, Repr

/-- The same field in the register `d` bytes further. -/
def Fd.at (f : Fd) (d : Nat) : Fd := { f with off := f.off + d }

/-- The same field `d` bits higher in its register. -/
def Fd.up (f : Fd) (d : Nat) : Fd := { f with lsb := f.lsb + d }

/-- A field repeated `n` times with `stride` bits between. -/
def Fd.rep (f : Fd) (n stride : Nat) : List Fd := (List.range n).map fun i => f.up (i * stride)

/-- One register, or an array of `n1 × n2` registers with strides `s1` and `s2`, its fields in ascending bit order;
`direct` is membership of Table 19.5. -/
structure Rg where
  off : Nat
  n1 : Nat
  s1 : Nat
  n2 : Nat
  s2 : Nat
  direct : Bool
  fields : List Fd
  deriving DecidableEq, Repr

def R.XLT_DEV_INDEX_DEV_INDEX : Fd := ⟨0x13100, 0, 8, .rw, 0, 0, 255, none⟩
def R.XLT_CMD_OP : Fd := ⟨0x13110, 0, 4, .rw, 0, 0, 7, (some 0)⟩
def R.XLT_CMD_TENANT : Fd := ⟨0x13110, 4, 6, .rw, 0, 0, 63, none⟩
def R.XLT_CMD_INDEX : Fd := ⟨0x13110, 10, 18, .rw, 0, 0, 262143, none⟩
def R.XLT_CMD_GO : Fd := ⟨0x13110, 63, 1, .wo, 0, 0, 1, none⟩
def R.XLT_CMD_ARG0_START : Fd := ⟨0x13118, 0, 24, .rw, 0, 0, 16728063, none⟩
def R.XLT_CMD_ARG0_LENGTH : Fd := ⟨0x13118, 24, 24, .rw, 1, 1, 16728064, none⟩
def R.XLT_CMD_ARG0_ANY_START : Fd := ⟨0x13118, 48, 1, .rw, 0, 0, 1, none⟩
def R.XLT_CMD_ARG1_PROT : Fd := ⟨0x13120, 0, 3, .rw, 0, 0, 4, (some 0)⟩
def R.XLT_CMD_ARG1_HINT : Fd := ⟨0x13120, 3, 2, .rw, 0, 0, 3, none⟩
def R.XLT_CMD_ARG1_COHERENT : Fd := ⟨0x13120, 5, 1, .rw, 0, 0, 1, none⟩
def R.XLT_CMD_ARG1_TRIGHTS : Fd := ⟨0x13120, 6, 3, .rw, 0, 0, 7, none⟩
def R.XLT_CMD_ARG1_ANY_INDEX : Fd := ⟨0x13120, 9, 1, .rw, 0, 0, 1, none⟩
def R.XLT_CMD_ARG1_HOLDER : Fd := ⟨0x13120, 10, 12, .rw, 0, 0, 4095, none⟩
def R.XLT_CMD_ARG1_RIGHTS : Fd := ⟨0x13120, 22, 3, .rw, 0, 0, 7, none⟩
def R.XLT_CMD_RESULT_STATE : Fd := ⟨0x13128, 0, 2, .ro, 0, 0, 2, none⟩
def R.XLT_CMD_RESULT_RESULT : Fd := ⟨0x13128, 2, 8, .ro, 0, 0, 11, none⟩
def R.XLT_CMD_RESULT_HANDLE : Fd := ⟨0x13128, 10, 32, .ro, 0, 0, 4294967295, none⟩
def R.XLT_INVAL_STATUS_IN_PROGRESS : Fd := ⟨0x13130, 0, 4, .ro, 0, 0, 8, none⟩
def R.XLT_INVAL_STATUS_COMPLETED : Fd := ⟨0x13130, 4, 32, .ro, 0, 0, 4294967295, none⟩
def R.XLT_REVOKE_DONE_INDEX : Fd := ⟨0x13138, 0, 18, .rc, 0, 0, 262143, none⟩
def R.XLT_REVOKE_DONE_GENERATION : Fd := ⟨0x13138, 18, 14, .rc, 0, 1, 16383, none⟩
def R.XLT_REVOKE_DONE_VALID : Fd := ⟨0x13138, 63, 1, .rc, 0, 0, 1, none⟩
def R.XLT_MFQ_STATUS_DEPTH : Fd := ⟨0x13140, 0, 11, .ro, 0, 0, 1024, none⟩
def R.XLT_MFQ_STATUS_FAULT_LOST : Fd := ⟨0x13140, 11, 1, .w1c, 0, 0, 1, none⟩
def R.XLT_MFQ_STATUS_OVERFLOW : Fd := ⟨0x13140, 12, 32, .ro, 0, 0, 4294967295, none⟩
def R.XLT_MFQ_POP_POP : Fd := ⟨0x13148, 0, 1, .wo, 0, 0, 1, none⟩
def R.XLT_MFQ_DATA_DATA : Fd := ⟨0x13150, 0, 64, .ro, 0, 0, 18446744073709551615, none⟩
def R.XLT_WALKS_COUNT : Fd := ⟨0x13170, 0, 64, .ro, 0, 0, 18446744073709551615, none⟩
def R.XLT_TCFG_TAG : Fd := ⟨0x13400, 0, 8, .rw, 0, 0, 255, none⟩
def R.XLT_TCFG_MAX_EXTENTS : Fd := ⟨0x13400, 8, 19, .rw, 0, 0, 262144, none⟩
def R.XLT_TCFG_MAX_GRANTS : Fd := ⟨0x13400, 27, 21, .rw, 0, 0, 1048576, none⟩
def R.XLT_TCFG_FAULT_AGENT : Fd := ⟨0x13400, 48, 12, .rw, 0, 0, 4095, none⟩
def R.XLT_TCFG_FAULT_NOTIFY : Fd := ⟨0x13400, 60, 1, .rw, 0, 0, 1, none⟩
def R.XLT_TBYTES_MAX_GIB : Fd := ⟨0x13408, 0, 11, .rw, 0, 0, 1021, none⟩
def R.XLT_FQ_STATUS_DEPTH : Fd := ⟨0x13800, 0, 11, .ro, 0, 0, 1024, none⟩
def R.XLT_FQ_STATUS_FAULT_LOST : Fd := ⟨0x13800, 11, 1, .ro, 0, 0, 1, none⟩
def R.XLT_FQ_STATUS_OVERFLOW : Fd := ⟨0x13800, 12, 32, .ro, 0, 0, 4294967295, none⟩
def R.FTM_CTRL_MODE : Fd := ⟨0x0D100, 0, 1, .rw, 0, 0, 1, none⟩
def R.FTM_CTRL_STRICT_SLACK : Fd := ⟨0x0D100, 1, 13, .rw, 0, 0, 7296, none⟩
def R.FTM_FRAME_FRAME : Fd := ⟨0x0D108, 0, 53, .ro, 0, 0, 9007199254740991, none⟩
def R.FTM_THERM_HOT_C : Fd := ⟨0x0D110, 0, 7, .rw, 85, 70, 95, none⟩
def R.FTM_THERM_HYST_C : Fd := ⟨0x0D110, 7, 4, .rw, 3, 1, 10, none⟩
def R.FTM_THERM_ZQ_DELTA_C : Fd := ⟨0x0D110, 11, 4, .rw, 4, 1, 15, none⟩
def R.FTM_THERM_HOT_STACKS : Fd := ⟨0x0D110, 15, 8, .ro, 0, 0, 255, none⟩
def R.FTM_REBASE_PL_LAT : Fd := ⟨0x0D118, 0, 8, .ro, 0, 0, 255, none⟩
def R.FTM_REBASE_REBASES : Fd := ⟨0x0D118, 8, 32, .ro, 0, 0, 4294967295, none⟩
def R.FTM_REBASE_DOWN_PENDING : Fd := ⟨0x0D118, 40, 1, .ro, 0, 0, 1, none⟩
def R.FTM_STATUS_APPLY_PENDING : Fd := ⟨0x0D120, 0, 1, .ro, 0, 0, 1, none⟩
def R.FTM_STATUS_IN_WINDOW : Fd := ⟨0x0D120, 1, 1, .ro, 0, 0, 1, none⟩
def R.FTM_STATUS_FRAMES_LEFT : Fd := ⟨0x0D120, 2, 16, .ro, 0, 0, 65535, none⟩
def R.FTM_STATUS_HELD_COMMITS : Fd := ⟨0x0D120, 18, 16, .rc, 0, 0, 65535, none⟩
def R.FTM_TPL_S_SLOT : Fd := ⟨0x0D200, 0, 4, .rw, 0, 0, 5, (some 0)⟩
def R.FTM_TPL_CFG_HOT_SLOT : Fd := ⟨0x0D240, 0, 7, .rw, 0, 0, 127, none⟩
def R.FTM_TPL_CFG_VALID : Fd := ⟨0x0D240, 7, 1, .rw, 0, 0, 1, none⟩
def R.FTM_TPL_CFG_PLANNED : Fd := ⟨0x0D240, 8, 7, .ro, 0, 0, 96, none⟩
def R.FTM_TPL_CFG_MAX_GAP : Fd := ⟨0x0D240, 15, 7, .ro, 127, 0, 127, none⟩
def R.FTM_TPL_CFG_FAIL_RULE : Fd := ⟨0x0D240, 22, 4, .ro, 0, 0, 7, none⟩
def R.FTM_PCSEL_TPL : Fd := ⟨0x0DA00, 0, 4, .rw, 0, 0, 15, none⟩
def R.FTM_WEIGHT_WEIGHT : Fd := ⟨0x0DB00, 0, 8, .rw, 1, 0, 255, none⟩
def R.FTM_ROTA_LEN_LEN : Fd := ⟨0x0E100, 0, 11, .rw, 1, 1, 1024, none⟩
def R.FTM_ROTA_TENANT : Fd := ⟨0x0E200, 0, 6, .rw, 0, 0, 63, none⟩
def R.FTM_ROTA_OWNED : Fd := ⟨0x0E200, 6, 1, .rw, 0, 0, 1, none⟩
def R.FTM_TS_EVENTS_DRAIN : Fd := ⟨0x0F100, 0, 16, .rc, 0, 0, 65535, none⟩
def R.FTM_TS_EVENTS_REBASE : Fd := ⟨0x0F100, 16, 16, .rc, 0, 0, 65535, none⟩
def R.FTM_TS_EVENTS_ECC_WB : Fd := ⟨0x0F100, 32, 16, .rc, 0, 0, 65535, none⟩
def R.FTM_TS_EVENTS_SYNC : Fd := ⟨0x0F100, 48, 16, .rc, 0, 0, 65535, none⟩
def R.FTM_TS_CYCLES_SLIP_CYCLES : Fd := ⟨0x0F108, 0, 64, .ro, 0, 0, 18446744073709551615, none⟩
def R.FTM_TS_WAITS_DRAIN_WAITS : Fd := ⟨0x0F110, 0, 32, .ro, 0, 0, 4294967295, none⟩
def R.FTM_TS_WAITS_EXT_FRAMES : Fd := ⟨0x0F110, 32, 32, .ro, 0, 0, 4294967295, none⟩
def R.FTM_TS_FRAMES_WINDOW_FRAMES : Fd := ⟨0x0F118, 0, 48, .ro, 0, 0, 281474976710655, none⟩
def R.FTM_TS_FRAMES_FORCED_ENDS : Fd := ⟨0x0F118, 48, 16, .ro, 0, 0, 65535, none⟩
def R.FRD_STATUS_AVAILABLE : Fd := ⟨0x12100, 0, 7, .ro, 64, 0, 64, none⟩
def R.FRD_STATUS_SPARE_FREE : Fd := ⟨0x12100, 7, 1, .ro, 1, 0, 1, none⟩
def R.FRD_STATUS_RETIRE_PENDING : Fd := ⟨0x12100, 8, 1, .ro, 0, 0, 1, none⟩
def R.FRD_CFG_CE_RETIRE : Fd := ⟨0x12108, 0, 16, .rw, 1024, 0, 65535, none⟩
def R.FRD_RETIRE_PHYS : Fd := ⟨0x12110, 0, 7, .rw, 0, 0, 64, none⟩
def R.FRD_RETIRE_GO : Fd := ⟨0x12110, 63, 1, .wo, 0, 0, 1, none⟩
def R.FRD_PHYS_STATE : Fd := ⟨0x12200, 0, 2, .ro, 0, 0, 3, none⟩
def R.FRD_PHYS_LOGICAL : Fd := ⟨0x12200, 2, 7, .ro, 0, 0, 63, none⟩
def R.FRD_PHYS_CE : Fd := ⟨0x12200, 10, 16, .ro, 0, 0, 65535, none⟩
def R.FRD_PHYS_UE : Fd := ⟨0x12200, 26, 8, .ro, 0, 0, 255, none⟩
def R.FRD_MAP_PHYS : Fd := ⟨0x12500, 0, 7, .ro, 0, 0, 64, none⟩
def R.SEQ_CFG_SYNC_TIMEOUT_US : Fd := ⟨0x10100, 0, 10, .rw, 100, 1, 1000, none⟩
def R.SEQ_STATUS_RUNNING : Fd := ⟨0x10108, 0, 1, .ro, 0, 0, 1, none⟩
def R.SEQ_STATUS_TENANT : Fd := ⟨0x10108, 1, 6, .ro, 0, 0, 63, none⟩
def R.SEQ_STATUS_QUEUED : Fd := ⟨0x10108, 7, 13, .ro, 0, 0, 4096, none⟩
def R.SEQ_STATUS_LOCKED : Fd := ⟨0x10108, 20, 13, .ro, 0, 0, 4096, none⟩
def R.SEQ_STATUS_PAGES_FREE : Fd := ⟨0x10108, 33, 10, .ro, 512, 0, 512, none⟩
def R.SEQ_CALLS_COUNT : Fd := ⟨0x10110, 0, 64, .ro, 0, 0, 18446744073709551615, none⟩
def R.SEQ_FAULTS_PLANE : Fd := ⟨0x10118, 0, 16, .rc, 0, 0, 65535, none⟩
def R.SEQ_FAULTS_SYNC : Fd := ⟨0x10118, 16, 16, .rc, 0, 0, 65535, none⟩
def R.SEQ_FAULTS_LEAD : Fd := ⟨0x10118, 32, 16, .rc, 0, 0, 65535, none⟩
def R.SEQ_FAULTS_LOAD : Fd := ⟨0x10118, 48, 16, .rc, 0, 0, 65535, none⟩
def R.SEQ_TCALL_MAX_QUEUED : Fd := ⟨0x10400, 0, 13, .rw, 64, 0, 4096, none⟩
def R.SEQ_TCALL_PLAN_BASE : Fd := ⟨0x10400, 13, 10, .rw, 0, 0, 1023, none⟩
def R.SEQ_TCALL_PLAN_COUNT : Fd := ⟨0x10400, 23, 11, .rw, 0, 0, 1024, none⟩
def R.SEQ_TCALL_PLAN_PAGES : Fd := ⟨0x10400, 34, 10, .rw, 0, 0, 512, none⟩
def R.SEQ_TSTAT_QUEUED : Fd := ⟨0x10408, 0, 13, .ro, 0, 0, 4096, none⟩
def R.SEQ_TSTAT_ALIVE : Fd := ⟨0x10408, 13, 16, .ro, 0, 0, 65535, none⟩
def R.SEQ_TSTAT_PAGES_USED : Fd := ⟨0x10408, 29, 10, .ro, 0, 0, 512, none⟩
def R.ACC_CFG_PIN_WAYS : Fd := ⟨0x14100, 0, 4, .rw, 14, 0, 15, none⟩
def R.ACC_CFG_NORMAL_MID : Fd := ⟨0x14100, 4, 1, .rw, 1, 0, 1, none⟩
def R.ACC_OPS_OPS : Fd := ⟨0x14108, 0, 64, .ro, 0, 0, 18446744073709551615, none⟩
def R.ACC_BOUND_LATE : Fd := ⟨0x14110, 0, 32, .rc, 0, 0, 4294967295, none⟩
def R.ACC_BOUND_MAX_NS : Fd := ⟨0x14110, 32, 16, .rc, 0, 0, 65535, none⟩
def R.ACC_REPLAY_IN_USE : Fd := ⟨0x14118, 0, 19, .ro, 0, 0, 262144, none⟩
def R.ACC_REPLAY_FULL : Fd := ⟨0x14118, 19, 16, .rc, 0, 0, 65535, none⟩
def R.ACC_REPLAY_STALE : Fd := ⟨0x14118, 35, 16, .rc, 0, 0, 65535, none⟩
def R.ACC_CUSH_VALID : Fd := ⟨0x14120, 0, 24, .ro, 0, 0, 8388608, none⟩
def R.ACC_CUSH_PINNED : Fd := ⟨0x14120, 24, 24, .ro, 0, 0, 8388608, none⟩
def R.ACC_TCUSH_PIN_QUOTA_MIB : Fd := ⟨0x14400, 0, 11, .rw, 0, 0, 1024, none⟩
def R.ACC_TCUSH_WAY_MASK : Fd := ⟨0x14400, 11, 16, .rw, 0, 0, 65535, none⟩
def R.ACC_TSTAT_PINNED_MIB : Fd := ⟨0x14408, 0, 11, .ro, 0, 0, 1024, none⟩
def R.ACC_TSTAT_PIN_SHORT : Fd := ⟨0x14408, 11, 32, .rc, 0, 0, 4294967295, none⟩
def R.DIR_CFG_LOST_POISON : Fd := ⟨0x15100, 0, 1, .rw, 1, 0, 1, none⟩
def R.DIR_CFG_MAX_WAITERS : Fd := ⟨0x15100, 1, 5, .rw, 16, 1, 16, none⟩
def R.DIR_CFG_WAIT_LIMIT_US : Fd := ⟨0x15100, 6, 4, .rw, 4, 1, 5, none⟩
def R.DIR_CFG_BUSY_HINT_US : Fd := ⟨0x15100, 10, 4, .rw, 1, 1, 15, none⟩
def R.DIR_STATUS_VALID : Fd := ⟨0x15108, 0, 25, .ro, 0, 0, 25165824, none⟩
def R.DIR_STATUS_OPEN : Fd := ⟨0x15108, 25, 15, .ro, 0, 0, 16384, none⟩
def R.DIR_STATUS_MEMBERS : Fd := ⟨0x15108, 40, 13, .ro, 0, 0, 4096, none⟩
def R.DIR_STATUS_SWEEP : Fd := ⟨0x15108, 53, 1, .ro, 0, 0, 1, none⟩
def R.DIR_COUNTS_BUSY_SET : Fd := ⟨0x15110, 0, 16, .rc, 0, 0, 65535, none⟩
def R.DIR_COUNTS_BUSY_WAIT : Fd := ⟨0x15110, 16, 16, .rc, 0, 0, 65535, none⟩
def R.DIR_COUNTS_SNOOP_RETRY : Fd := ⟨0x15110, 32, 16, .rc, 0, 0, 65535, none⟩
def R.DIR_COUNTS_REVOKED : Fd := ⟨0x15110, 48, 16, .rc, 0, 0, 65535, none⟩
def R.DIR_CROSS_WB_CROSS : Fd := ⟨0x15118, 0, 32, .ro, 0, 0, 4294967295, none⟩
def R.DIR_CROSS_STALE_MISS : Fd := ⟨0x15118, 32, 32, .ro, 0, 0, 4294967295, none⟩
def R.DIR_REVOKED_AGENT : Fd := ⟨0x15120, 0, 12, .rc, 0, 0, 4095, none⟩
def R.DIR_REVOKED_TENANT : Fd := ⟨0x15120, 12, 6, .rc, 0, 0, 63, none⟩
def R.DIR_REVOKED_CAUSE : Fd := ⟨0x15120, 18, 2, .rc, 0, 0, 2, none⟩
def R.DIR_REVOKED_VALID : Fd := ⟨0x15120, 63, 1, .rc, 0, 0, 1, none⟩
def R.DIR_KICK_AGENT : Fd := ⟨0x15128, 0, 12, .rw, 0, 0, 4095, none⟩
def R.DIR_KICK_GO : Fd := ⟨0x15128, 63, 1, .wo, 0, 0, 1, none⟩
def R.DIR_TWAYS_WAY_MASK : Fd := ⟨0x15400, 0, 12, .rw, 0, 0, 4095, none⟩
def R.DIR_TSTAT_ENTRIES : Fd := ⟨0x15408, 0, 25, .ro, 0, 0, 25165824, none⟩
def R.DIR_TSTAT_BUSY : Fd := ⟨0x15408, 25, 16, .rc, 0, 0, 65535, none⟩
def R.PFX_CFG_RING_TIMEOUT_US : Fd := ⟨0x16100, 0, 10, .rw, 200, 10, 1000, none⟩
def R.PFX_STATUS_ENTRIES : Fd := ⟨0x16108, 0, 23, .ro, 0, 0, 4194304, none⟩
def R.PFX_STATUS_PINS : Fd := ⟨0x16108, 23, 21, .ro, 0, 0, 1048576, none⟩
def R.PFX_COUNTS_SET_FULL : Fd := ⟨0x16110, 0, 16, .rc, 0, 0, 65535, none⟩
def R.PFX_COUNTS_PIN_FULL : Fd := ⟨0x16110, 16, 16, .rc, 0, 0, 65535, none⟩
def R.PFX_COUNTS_RING_FAIL : Fd := ⟨0x16110, 32, 16, .rc, 0, 0, 65535, none⟩
def R.PFX_RECLAIM_HOLDER : Fd := ⟨0x16118, 0, 12, .rw, 0, 0, 4095, none⟩
def R.PFX_RECLAIM_GO : Fd := ⟨0x16118, 63, 1, .wo, 0, 0, 1, none⟩
def R.PFX_ARENA_INDEX : Fd := ⟨0x16200, 0, 18, .rw, 0, 0, 262143, none⟩
def R.PFX_ARENA_BLOCK_UNITS : Fd := ⟨0x16200, 18, 11, .rw, 1, 1, 1024, none⟩
def R.PFX_ARENA_VALID : Fd := ⟨0x16200, 29, 1, .rw, 0, 0, 1, none⟩
def R.PFX_ARENA_BLOCKS : Fd := ⟨0x16200, 30, 23, .ro, 0, 0, 4194304, none⟩
def R.PFX_ARENA_TENANT : Fd := ⟨0x16200, 53, 6, .ro, 0, 0, 63, none⟩
def R.PFX_TSETS_SET_BASE : Fd := ⟨0x16A00, 0, 19, .rw, 0, 0, 524287, none⟩
def R.PFX_TSETS_SET_COUNT : Fd := ⟨0x16A00, 19, 20, .rw, 0, 0, 524288, none⟩
def R.PFX_TSETS_MAX_PINS : Fd := ⟨0x16A00, 39, 21, .rw, 0, 0, 1048576, none⟩
def R.PFX_TSTAT_ENTRIES : Fd := ⟨0x16A08, 0, 23, .ro, 0, 0, 4194304, none⟩
def R.PFX_TSTAT_PINS : Fd := ⟨0x16A08, 23, 21, .ro, 0, 0, 1048576, none⟩
def R.PFX_TSTAT_EVICTIONS : Fd := ⟨0x16A08, 44, 20, .rc, 0, 0, 1048575, none⟩
def R.SYN_STATUS_WAITERS : Fd := ⟨0x17100, 0, 17, .ro, 0, 0, 65536, none⟩
def R.SYN_STATUS_FAULTED : Fd := ⟨0x17100, 17, 17, .ro, 0, 0, 65536, none⟩
def R.SYN_COUNTS_WAIT_FULL : Fd := ⟨0x17108, 0, 16, .rc, 0, 0, 65535, none⟩
def R.SYN_COUNTS_CRC_FAIL : Fd := ⟨0x17108, 16, 16, .rc, 0, 0, 65535, none⟩
def R.SYN_COUNTS_WITHDRAWN : Fd := ⟨0x17108, 32, 16, .rc, 0, 0, 65535, none⟩
def R.SYN_OPS_COUNT : Fd := ⟨0x17110, 0, 64, .ro, 0, 0, 18446744073709551615, none⟩
def R.SYN_TCFG_OBJ_BASE : Fd := ⟨0x17400, 0, 16, .rw, 0, 0, 65535, none⟩
def R.SYN_TCFG_OBJ_COUNT : Fd := ⟨0x17400, 16, 17, .rw, 0, 0, 65536, none⟩
def R.SYN_TCFG_MAX_WAITERS : Fd := ⟨0x17400, 33, 17, .rw, 0, 0, 65536, none⟩
def R.SYN_TSTAT_WAITERS : Fd := ⟨0x17408, 0, 17, .ro, 0, 0, 65536, none⟩
def R.SYN_TSTAT_TIMEOUTS : Fd := ⟨0x17408, 17, 32, .rc, 0, 0, 4294967295, none⟩
def R.SMC_CFG_IDLE_CYC : Fd := ⟨0x20100, 0, 10, .rw, 96, 0, 1023, none⟩
def R.SMC_CFG_WQ_HIGH : Fd := ⟨0x20100, 10, 6, .rw, 48, 8, 63, none⟩
def R.SMC_CFG_WQ_LOW : Fd := ⟨0x20100, 16, 6, .rw, 16, 0, 55, none⟩
def R.SMC_CFG_CALFAULT_RETIRE : Fd := ⟨0x20100, 22, 4, .rw, 3, 1, 15, none⟩
def R.SMC_CFG_AGE_CAP : Fd := ⟨0x20100, 26, 10, .rw, 192, 48, 1023, none⟩
def R.SMC_STATUS_STATE : Fd := ⟨0x20108, 0, 3, .ro, 0, 0, 5, none⟩
def R.SMC_STATUS_TEMP_C : Fd := ⟨0x20108, 3, 7, .ro, 0, 0, 127, none⟩
def R.SMC_STATUS_RETIRED_PCS : Fd := ⟨0x20108, 10, 7, .ro, 0, 0, 64, none⟩
def R.SMC_STATUS_TRAIN_MS : Fd := ⟨0x20108, 17, 10, .ro, 0, 0, 1023, none⟩
def R.SMC_RETIRE_TARGET : Fd := ⟨0x20110, 0, 6, .rw, 0, 0, 63, none⟩
def R.SMC_RETIRE_SCOPE : Fd := ⟨0x20110, 6, 2, .rw, 0, 0, 2, (some 0)⟩
def R.SMC_RETIRE_GO : Fd := ⟨0x20110, 63, 1, .wo, 0, 0, 1, none⟩
def R.SMC_COUNTS_ROW_HITS : Fd := ⟨0x20118, 0, 32, .ro, 0, 0, 4294967295, none⟩
def R.SMC_COUNTS_ROW_MISSES : Fd := ⟨0x20118, 32, 32, .ro, 0, 0, 4294967295, none⟩
def R.SMC_HAZ_FORWARDS : Fd := ⟨0x20120, 0, 16, .rc, 0, 0, 65535, none⟩
def R.SMC_HAZ_WQ_FULL : Fd := ⟨0x20120, 16, 16, .rc, 0, 0, 65535, none⟩
def R.SMC_HAZ_SCRUB_DROPS : Fd := ⟨0x20120, 32, 16, .rc, 0, 0, 65535, none⟩
def R.SMC_HAZ_BANK_LATE : Fd := ⟨0x20120, 48, 16, .rc, 0, 0, 65535, none⟩
def R.SMC_PC_STATE : Fd := ⟨0x20200, 0, 2, .ro, 0, 0, 2, none⟩
def R.SMC_PC_RD_LAT : Fd := ⟨0x20200, 2, 7, .ro, 0, 0, 127, none⟩
def R.SMC_PC_CAL_FAULTS : Fd := ⟨0x20200, 9, 4, .ro, 0, 0, 15, none⟩
def R.SMC_PC_CAUSE : Fd := ⟨0x20200, 13, 3, .ro, 0, 0, 4, none⟩
def R.SMC_PC_WQ_MAX : Fd := ⟨0x20200, 16, 7, .rc, 0, 0, 64, none⟩
def R.ECC_CFG_UE_RETIRE : Fd := ⟨0x18100, 0, 4, .rw, 4, 1, 15, none⟩
def R.ECC_CFG_HARD_RETIRE : Fd := ⟨0x18100, 4, 4, .rw, 4, 0, 15, none⟩
def R.ECC_SCRUB_PERIOD_H : Fd := ⟨0x18108, 0, 5, .rw, 24, 1, 24, none⟩
def R.ECC_SCRUB_FALLBACK : Fd := ⟨0x18108, 5, 1, .rw, 1, 0, 1, none⟩
def R.ECC_STATUS_WRITTEN_UNITS : Fd := ⟨0x18110, 0, 25, .ro, 0, 0, 16777216, none⟩
def R.ECC_STATUS_FULL_UNITS : Fd := ⟨0x18110, 25, 25, .ro, 0, 0, 16777216, none⟩
def R.ECC_STATUS_REBUILDING : Fd := ⟨0x18110, 50, 1, .ro, 0, 0, 1, none⟩
def R.ECC_VCACHE_ENTRIES : Fd := ⟨0x18118, 0, 17, .ro, 0, 0, 65536, none⟩
def R.ECC_VCACHE_MISSES : Fd := ⟨0x18118, 17, 32, .rc, 0, 0, 4294967295, none⟩
def R.ECC_COUNTS_CE : Fd := ⟨0x18120, 0, 32, .ro, 0, 0, 4294967295, none⟩
def R.ECC_COUNTS_UE : Fd := ⟨0x18120, 32, 16, .rc, 0, 0, 65535, none⟩
def R.ECC_COUNTS_RECON : Fd := ⟨0x18120, 48, 16, .rc, 0, 0, 65535, none⟩
def R.ECC_POISON_POISON_WRITES : Fd := ⟨0x18128, 0, 32, .rc, 0, 0, 4294967295, none⟩
def R.ECC_POISON_MISDIRECT : Fd := ⟨0x18128, 32, 16, .rc, 0, 0, 65535, none⟩
def R.ECC_LAP_SCRUB_MIN : Fd := ⟨0x18130, 0, 16, .ro, 0, 0, 65535, none⟩
def R.ECC_LAP_FALLBACK_MIN : Fd := ⟨0x18130, 16, 16, .ro, 0, 0, 65535, none⟩
def R.ECC_LAP_FALLBACK_PCS : Fd := ⟨0x18130, 32, 10, .ro, 0, 0, 512, none⟩
def R.ECC_REBUILD_ROWS_LEFT : Fd := ⟨0x18138, 0, 32, .ro, 0, 0, 4294967295, none⟩
def R.ECC_REBUILD_GROUPS_LOST : Fd := ⟨0x18138, 32, 32, .ro, 0, 0, 4294967295, none⟩
def R.ECC_PC_SEL_PC : Fd := ⟨0x18140, 0, 9, .rw, 0, 0, 511, none⟩
def R.ECC_PC_DATA_CE : Fd := ⟨0x18148, 0, 16, .ro, 0, 0, 65535, none⟩
def R.ECC_PC_DATA_UE : Fd := ⟨0x18148, 16, 8, .ro, 0, 0, 255, none⟩
def R.ECC_PC_DATA_HARD : Fd := ⟨0x18148, 24, 8, .ro, 0, 0, 255, none⟩
def R.ECC_PC_DATA_REMAP_USED : Fd := ⟨0x18148, 32, 5, .ro, 0, 0, 16, none⟩
def R.ECC_PC_DATA_LAP_MIN : Fd := ⟨0x18148, 37, 16, .ro, 0, 0, 65535, none⟩
def R.ECC_PC_DATA_FALLBACK : Fd := ⟨0x18148, 53, 1, .ro, 0, 0, 1, none⟩
def R.ECC_REMAP_LOG_PC : Fd := ⟨0x18150, 0, 9, .rc, 0, 0, 511, none⟩
def R.ECC_REMAP_LOG_BANK : Fd := ⟨0x18150, 9, 6, .rc, 0, 0, 63, none⟩
def R.ECC_REMAP_LOG_ROW : Fd := ⟨0x18150, 15, 15, .rc, 0, 0, 32767, none⟩
def R.ECC_REMAP_LOG_COL : Fd := ⟨0x18150, 30, 4, .rc, 0, 0, 15, none⟩
def R.ECC_REMAP_LOG_VALID : Fd := ⟨0x18150, 63, 1, .rc, 0, 0, 1, none⟩
def R.ECC_REMAP_ADD_PC : Fd := ⟨0x18158, 0, 9, .rw, 0, 0, 511, none⟩
def R.ECC_REMAP_ADD_BANK : Fd := ⟨0x18158, 9, 6, .rw, 0, 0, 63, none⟩
def R.ECC_REMAP_ADD_ROW : Fd := ⟨0x18158, 15, 15, .rw, 0, 0, 32767, none⟩
def R.ECC_REMAP_ADD_COL : Fd := ⟨0x18158, 30, 4, .rw, 0, 0, 15, none⟩
def R.ECC_REMAP_ADD_GO : Fd := ⟨0x18158, 63, 1, .wo, 0, 0, 1, none⟩
def R.CRC_CTRL_ALG : Fd := ⟨0x19200, 0, 2, .rw, 0, 0, 3, none⟩
def R.CRC_CTRL_ALIVE_EN : Fd := ⟨0x19200, 2, 1, .rw, 0, 0, 1, none⟩
def R.CRC_CTRL_LEN : Fd := ⟨0x19200, 3, 32, .rw, 0, 0, 4294967295, none⟩
def R.CRC_CTRL_GO : Fd := ⟨0x19200, 63, 1, .wo, 0, 0, 1, none⟩
def R.CRC_EXPECT_EXPECT : Fd := ⟨0x19208, 0, 64, .rw, 0, 0, 18446744073709551615, none⟩
def R.CRC_RESULT_RESULT : Fd := ⟨0x19210, 0, 64, .ro, 0, 0, 18446744073709551615, none⟩
def R.CRC_STAT_MISMATCH : Fd := ⟨0x19218, 0, 16, .rc, 0, 0, 65535, none⟩
def R.CRC_STAT_ALIVE_REJ : Fd := ⟨0x19218, 16, 16, .rc, 0, 0, 65535, none⟩
def R.CRC_STAT_LAST_ALIVE : Fd := ⟨0x19218, 32, 16, .ro, 0, 0, 65535, none⟩
def R.CRC_STAT_BUSY : Fd := ⟨0x19218, 48, 1, .ro, 0, 0, 1, none⟩
def R.CRC_SRC_SRC : Fd := ⟨0x19220, 0, 32, .rw, 0, 0, 4294967295, none⟩
def R.PRT_CFG_SPLIT : Fd := ⟨0x28100, 0, 2, .rw, 0, 0, 2, (some 0)⟩
def R.PRT_CFG_RING : Fd := ⟨0x28100, 2, 1, .rw, 0, 0, 1, none⟩
def R.PRT_CFG_PHY : Fd := ⟨0x28100, 3, 2, .rw, 0, 0, 2, (some 0)⟩
def R.PRT_CFG_ENABLE : Fd := ⟨0x28100, 5, 1, .rw, 0, 0, 1, none⟩
def R.PRT_CFG_MACSEC : Fd := ⟨0x28100, 6, 1, .rw, 0, 0, 1, none⟩
def R.PRT_CFG_PFC_MASK : Fd := ⟨0x28100, 7, 8, .rw, 0, 0, 255, none⟩
def R.PRT_STATUS_LINK_UP : Fd := ⟨0x28108, 0, 4, .ro, 0, 0, 15, none⟩
def R.PRT_FEC_CORRECTED : Fd := ⟨0x28110, 0, 32, .ro, 0, 0, 4294967295, none⟩
def R.PRT_FEC_UNCORRECTABLE : Fd := ⟨0x28110, 32, 32, .rc, 0, 0, 4294967295, none⟩
def R.PRT_DROPS_FCS : Fd := ⟨0x28118, 0, 16, .rc, 0, 0, 65535, none⟩
def R.PRT_DROPS_UNKNOWN : Fd := ⟨0x28118, 16, 16, .rc, 0, 0, 65535, none⟩
def R.PRT_DROPS_MACSEC : Fd := ⟨0x28118, 32, 16, .rc, 0, 0, 65535, none⟩
def R.PRT_DROPS_CREDIT : Fd := ⟨0x28118, 48, 16, .rc, 0, 0, 65535, none⟩
def R.PRT_MACSEC_REPLAY_WINDOW : Fd := ⟨0x28120, 0, 30, .rw, 0, 0, 1073741823, none⟩
def R.PRT_MAC_MAC : Fd := ⟨0x28200, 0, 48, .rw, 0, 0, 281474976710655, none⟩
def R.PRT_IP4_IP4 : Fd := ⟨0x28208, 0, 32, .rw, 0, 0, 4294967295, none⟩
def R.PRT_IP4_VALID : Fd := ⟨0x28208, 32, 1, .rw, 0, 0, 1, none⟩
def R.PRT_IP6H_IP6 : Fd := ⟨0x28210, 0, 64, .rw, 0, 0, 18446744073709551615, none⟩
def R.PRT_IP6L_IP6 : Fd := ⟨0x28218, 0, 64, .rw, 0, 0, 18446744073709551615, none⟩
def R.PRT_SPCFG_VLAN : Fd := ⟨0x28220, 0, 12, .rw, 1, 1, 4094, none⟩
def R.PRT_SPCFG_VLAN_EN : Fd := ⟨0x28220, 12, 1, .rw, 0, 0, 1, none⟩
def R.PRT_SPCFG_IP6_VALID : Fd := ⟨0x28220, 13, 1, .rw, 0, 0, 1, none⟩
def R.PRT_IPT_CFG_UDP_PORT : Fd := ⟨0x30100, 0, 16, .rw, 49871, 1024, 65535, none⟩
def R.PRT_IPT_CFG_RTO_US : Fd := ⟨0x30100, 16, 6, .rw, 20, 8, 63, none⟩
def R.PRT_IPT_CFG_DC_RETRIES : Fd := ⟨0x30100, 22, 4, .rw, 8, 1, 15, none⟩
def R.PRT_IPT_CFG_CRED_REQ : Fd := ⟨0x30100, 26, 13, .rw, 64, 1, 4096, none⟩
def R.PRT_IPT_CFG_CRED_KIB : Fd := ⟨0x30100, 39, 12, .rw, 256, 4, 4095, none⟩
def R.PRT_ADMIT_RATE : Fd := ⟨0x30108, 0, 7, .rw, 64, 1, 64, none⟩
def R.PRT_CONNS_IPT_OPEN : Fd := ⟨0x30110, 0, 15, .ro, 0, 0, 16384, none⟩
def R.PRT_CONNS_QP_OPEN : Fd := ⟨0x30110, 15, 14, .ro, 0, 0, 8192, none⟩
def R.PRT_CONNS_REFUSED : Fd := ⟨0x30110, 29, 32, .rc, 0, 0, 4294967295, none⟩
def R.PRT_HSEL_HOLDER : Fd := ⟨0x30118, 0, 12, .rw, 0, 0, 4095, none⟩
def R.PRT_HCFG_VALID : Fd := ⟨0x30120, 0, 1, .rw, 0, 0, 1, none⟩
def R.PRT_HCFG_TENANT : Fd := ⟨0x30120, 1, 6, .rw, 0, 0, 63, none⟩
def R.PRT_HCFG_SESSION : Fd := ⟨0x30120, 7, 1, .rw, 0, 0, 1, none⟩
def R.PRT_HCFG_PRIV : Fd := ⟨0x30120, 8, 1, .rw, 0, 0, 1, none⟩
def R.PRT_HCFG_MAX_CONN : Fd := ⟨0x30120, 9, 15, .rw, 0, 0, 16384, none⟩
def R.PRT_HCFG_OPEN : Fd := ⟨0x30120, 24, 15, .ro, 0, 0, 16384, none⟩
def R.PRT_HADDR_HI_ADDR : Fd := ⟨0x30128, 0, 64, .rw, 0, 0, 18446744073709551615, none⟩
def R.PRT_HADDR_LO_ADDR : Fd := ⟨0x30130, 0, 64, .rw, 0, 0, 18446744073709551615, none⟩
def R.PRT_RCE_CFG_CUT_US : Fd := ⟨0x30138, 0, 7, .rw, 50, 10, 127, none⟩
def R.PRT_RCE_CFG_RISE_US : Fd := ⟨0x30138, 7, 7, .rw, 55, 10, 127, none⟩
def R.PRT_RCE_CFG_RISE_PCT : Fd := ⟨0x30138, 14, 5, .rw, 5, 1, 25, none⟩
def R.LNK_CFG_REPLAY_MAX : Fd := ⟨0x31100, 0, 4, .rw, 4, 1, 15, none⟩
def R.LNK_CFG_ACK_TIMEOUT_US : Fd := ⟨0x31100, 4, 6, .rw, 4, 1, 63, none⟩
def R.LNK_CFG_LINK_PERIOD_US : Fd := ⟨0x31100, 10, 6, .rw, 4, 1, 63, none⟩
def R.LNK_CFG_SER_LIMIT : Fd := ⟨0x31100, 16, 24, .rw, 425000, 1000, 16777215, none⟩
def R.LNK_CFG_UE_LIMIT : Fd := ⟨0x31100, 40, 8, .rw, 8, 0, 255, none⟩
def R.LNK_CFG_WIDTH : Fd := ⟨0x31100, 48, 2, .rw, 0, 0, 2, (some 0)⟩
def R.LNK_CFG_SPEED : Fd := ⟨0x31100, 50, 1, .rw, 0, 0, 1, none⟩
def R.LNK_CFG_AUTO_DEGRADE : Fd := ⟨0x31100, 51, 1, .rw, 1, 0, 1, none⟩
def R.LNK_CTRL_RETRAIN : Fd := ⟨0x31108, 0, 1, .wo, 0, 0, 1, none⟩
def R.LNK_CTRL_RESET : Fd := ⟨0x31108, 1, 1, .wo, 0, 0, 1, none⟩
def R.LNK_STATUS_STATE : Fd := ⟨0x31110, 0, 3, .ro, 0, 0, 4, none⟩
def R.LNK_STATUS_WIDTH_NOW : Fd := ⟨0x31110, 3, 2, .ro, 0, 0, 2, none⟩
def R.LNK_STATUS_SPEED_NOW : Fd := ⟨0x31110, 5, 1, .ro, 0, 0, 1, none⟩
def R.LNK_STATUS_NEIGHBOUR : Fd := ⟨0x31110, 6, 8, .ro, 0, 0, 255, none⟩
def R.LNK_STATUS_NDIR : Fd := ⟨0x31110, 14, 3, .ro, 0, 0, 4, none⟩
def R.LNK_STATION_STATION : Fd := ⟨0x31118, 0, 48, .ro, 0, 0, 281474976710655, none⟩
def R.LNK_VCCRED_A_CRED : Fd := ⟨0x31120, 0, 9, .rw, 240, 17, 480, none⟩
def R.LNK_VCCRED_B_CRED_6 : Fd := ⟨0x31128, 0, 9, .rw, 240, 17, 480, none⟩
def R.LNK_VCCRED_B_CRED_7 : Fd := ⟨0x31128, 9, 9, .rw, 240, 17, 480, none⟩
def R.LNK_VCCRED_B_CRED_CTRL : Fd := ⟨0x31128, 18, 7, .rw, 64, 4, 64, none⟩
def R.LNK_TX_COUNT : Fd := ⟨0x31130, 0, 64, .ro, 0, 0, 18446744073709551615, none⟩
def R.LNK_RX_COUNT : Fd := ⟨0x31138, 0, 64, .ro, 0, 0, 18446744073709551615, none⟩
def R.LNK_ERR_CRC_ERR : Fd := ⟨0x31140, 0, 16, .rc, 0, 0, 65535, none⟩
def R.LNK_ERR_REPLAYS : Fd := ⟨0x31140, 16, 16, .rc, 0, 0, 65535, none⟩
def R.LNK_ERR_RETRAINS : Fd := ⟨0x31140, 32, 16, .rc, 0, 0, 65535, none⟩
def R.LNK_ERR_DOWNS : Fd := ⟨0x31140, 48, 16, .rc, 0, 0, 65535, none⟩
def R.LNK_STALL_CREDIT_US : Fd := ⟨0x31148, 0, 32, .rc, 0, 0, 4294967295, none⟩
def R.LNK_STALL_DISCARDS : Fd := ⟨0x31148, 32, 16, .rc, 0, 0, 65535, none⟩
def R.RTE_CFG_DOMAIN : Fd := ⟨0x1B100, 0, 16, .rw, 0, 0, 65535, none⟩
def R.RTE_CFG_DETOUR : Fd := ⟨0x1B100, 16, 1, .rw, 1, 0, 1, none⟩
def R.RTE_CFG_UP_HOLD_US : Fd := ⟨0x1B100, 17, 14, .rw, 1000, 0, 16383, none⟩
def R.RTE_CFG_REASM_US : Fd := ⟨0x1B100, 31, 6, .rw, 40, 8, 63, none⟩
def R.RTE_CFG_REFRESH_MS : Fd := ⟨0x1B100, 37, 8, .rw, 100, 10, 255, none⟩
def R.RTE_DIM_NX : Fd := ⟨0x1B108, 0, 5, .rw, 1, 1, 16, none⟩
def R.RTE_DIM_NY : Fd := ⟨0x1B108, 5, 5, .rw, 1, 1, 16, none⟩
def R.RTE_DIM_X : Fd := ⟨0x1B108, 10, 4, .ro, 0, 0, 15, none⟩
def R.RTE_DIM_Y : Fd := ⟨0x1B108, 14, 4, .ro, 0, 0, 15, none⟩
def R.RTE_PORTMAP_PORT : Fd := ⟨0x1B110, 0, 4, .rw, 15, 0, 15, none⟩
def R.RTE_COUNTS_UNREACH : Fd := ⟨0x1B118, 0, 16, .rc, 0, 0, 65535, none⟩
def R.RTE_COUNTS_DETOURS : Fd := ⟨0x1B118, 16, 16, .rc, 0, 0, 65535, none⟩
def R.RTE_COUNTS_DISCARD : Fd := ⟨0x1B118, 32, 16, .rc, 0, 0, 65535, none⟩
def R.RTE_REASM_IN_USE : Fd := ⟨0x1B120, 0, 13, .ro, 0, 0, 4096, none⟩
def R.RTE_REASM_FULL : Fd := ⟨0x1B120, 13, 16, .rc, 0, 0, 65535, none⟩
def R.RTE_REASM_TIMEOUTS : Fd := ⟨0x1B120, 29, 16, .rc, 0, 0, 65535, none⟩
def R.RTE_REASM_BAD : Fd := ⟨0x1B120, 45, 16, .rc, 0, 0, 65535, none⟩
def R.RTE_LSDB_LS : Fd := ⟨0x1B200, 0, 4, .ro, 0, 0, 15, none⟩
def R.RTE_TCLASS_DSET : Fd := ⟨0x1B400, 0, 2, .rw, 2, 0, 2, none⟩
def R.RTE_TCLASS_ORDER : Fd := ⟨0x1B400, 2, 2, .rw, 2, 0, 2, none⟩
def R.QOS_OVL_PC_DEPTH : Fd := ⟨0x1C100, 0, 7, .rw, 64, 8, 96, none⟩
def R.QOS_OVL_DEV_REQ : Fd := ⟨0x1C100, 7, 13, .rw, 4096, 256, 4096, none⟩
def R.QOS_OVL_PORT_KIB : Fd := ⟨0x1C100, 20, 10, .rw, 96, 16, 512, none⟩
def R.QOS_STATUS_IN_PROG : Fd := ⟨0x1C108, 0, 13, .ro, 0, 0, 4160, none⟩
def R.QOS_STATUS_IN_KIB : Fd := ⟨0x1C108, 13, 19, .ro, 0, 0, 524287, none⟩
def R.QOS_HSEL_QUEUE : Fd := ⟨0x1C110, 0, 12, .rw, 0, 0, 2111, none⟩
def R.QOS_HSEL_KIND : Fd := ⟨0x1C110, 12, 1, .rw, 0, 0, 1, none⟩
def R.QOS_HIST_COUNT : Fd := ⟨0x1C180, 0, 32, .rc, 0, 0, 4294967295, none⟩
def R.QOS_TCFG_ACC_WEIGHT : Fd := ⟨0x1C400, 0, 8, .rw, 1, 0, 255, none⟩
def R.QOS_TCFG_EGR_WEIGHT : Fd := ⟨0x1C400, 8, 8, .rw, 1, 0, 255, none⟩
def R.QOS_TCFG_ACC_BURST_KIB : Fd := ⟨0x1C400, 16, 14, .rw, 64, 0, 16383, none⟩
def R.QOS_TCFG_EGR_BURST_KIB : Fd := ⟨0x1C400, 30, 14, .rw, 64, 0, 16383, none⟩
def R.QOS_TSTAT_POLICED : Fd := ⟨0x1C408, 0, 32, .rc, 0, 0, 4294967295, none⟩
def R.QOS_TSTAT_REFUSED : Fd := ⟨0x1C408, 32, 32, .rc, 0, 0, 4294967295, none⟩
def R.QOS_PS_t1_P_RATE : Fd := ⟨0x1D800, 0, 10, .rw, 0, 0, 1000, none⟩
def R.QOS_PS_t1_P_BURST_KIB : Fd := ⟨0x1D800, 10, 14, .rw, 64, 16, 16383, none⟩
def R.QOS_PS_t1_S_RATE : Fd := ⟨0x1D800, 24, 10, .rw, 0, 0, 1000, none⟩
def R.QOS_PS_t1_S_BURST_KIB : Fd := ⟨0x1D800, 34, 14, .rw, 64, 16, 16383, none⟩
def R.QOS_PS_t1_S_RESET : Fd := ⟨0x1D800, 48, 1, .rw, 0, 0, 1, none⟩
def R.QOS_PS_t2_P_RATE : Fd := ⟨0x1E800, 0, 10, .rw, 0, 0, 1000, none⟩
def R.QOS_PS_t2_P_BURST_KIB : Fd := ⟨0x1E800, 10, 14, .rw, 64, 16, 16383, none⟩
def R.QOS_PS_t2_S_RATE : Fd := ⟨0x1E800, 24, 10, .rw, 0, 0, 1000, none⟩
def R.QOS_PS_t2_S_BURST_KIB : Fd := ⟨0x1E800, 34, 14, .rw, 64, 16, 16383, none⟩
def R.QOS_PS_t2_S_RESET : Fd := ⟨0x1E800, 48, 1, .rw, 0, 0, 1, none⟩
def R.PAR_CFG_PAIR_EN : Fd := ⟨0x1A100, 0, 1, .rw, 0, 0, 1, none⟩
def R.PAR_CFG_PARTNER : Fd := ⟨0x1A100, 1, 8, .rw, 0, 0, 255, none⟩
def R.PAR_CFG_SIDE : Fd := ⟨0x1A100, 9, 1, .ro, 0, 0, 1, none⟩
def R.PAR_CFG_ALT_PATH : Fd := ⟨0x1A100, 10, 1, .rw, 0, 0, 1, none⟩
def R.PAR_CFG_HOLD_US : Fd := ⟨0x1A100, 11, 10, .rw, 500, 100, 1000, none⟩
def R.PAR_CFG_RESYNC_GBPS : Fd := ⟨0x1A100, 21, 9, .rw, 100, 1, 380, none⟩
def R.PAR_PARTNER_STN_STATION : Fd := ⟨0x1A108, 0, 48, .rw, 0, 0, 281474976710655, none⟩
def R.PAR_CTRL_SET : Fd := ⟨0x1A110, 0, 1, .rw, 0, 0, 1, none⟩
def R.PAR_CTRL_FORCE : Fd := ⟨0x1A110, 1, 1, .rw, 0, 0, 1, none⟩
def R.PAR_CTRL_HANDOVER : Fd := ⟨0x1A110, 63, 1, .wo, 0, 0, 1, none⟩
def R.PAR_STATUS_STATE0 : Fd := ⟨0x1A118, 0, 3, .ro, 0, 0, 6, none⟩
def R.PAR_STATUS_STATE1 : Fd := ⟨0x1A118, 3, 3, .ro, 0, 0, 6, none⟩
def R.PAR_STATUS_PATH : Fd := ⟨0x1A118, 6, 1, .ro, 0, 0, 1, none⟩
def R.PAR_STATUS_LINKED : Fd := ⟨0x1A118, 7, 1, .ro, 0, 0, 1, none⟩
def R.PAR_STATUS_HO_RESULT : Fd := ⟨0x1A118, 8, 2, .ro, 0, 0, 3, none⟩
def R.PAR_TERM_TERM0 : Fd := ⟨0x1A120, 0, 32, .ro, 0, 0, 4294967295, none⟩
def R.PAR_TERM_TERM1 : Fd := ⟨0x1A120, 32, 32, .ro, 0, 0, 4294967295, none⟩
def R.PAR_LEASE_AGE0 : Fd := ⟨0x1A128, 0, 5, .ro, 0, 0, 31, none⟩
def R.PAR_LEASE_AGE1 : Fd := ⟨0x1A128, 5, 5, .ro, 0, 0, 31, none⟩
def R.PAR_EPOCH_SENT : Fd := ⟨0x1A130, 0, 32, .ro, 0, 0, 4294967295, none⟩
def R.PAR_EPOCH_ACKED : Fd := ⟨0x1A130, 32, 32, .ro, 0, 0, 4294967295, none⟩
def R.PAR_COUNTS_TAKEOVERS : Fd := ⟨0x1A138, 0, 16, .rc, 0, 0, 65535, none⟩
def R.PAR_COUNTS_FENCES : Fd := ⟨0x1A138, 16, 16, .rc, 0, 0, 65535, none⟩
def R.PAR_COUNTS_STALE_TERM : Fd := ⟨0x1A138, 32, 16, .rc, 0, 0, 65535, none⟩
def R.PAR_COUNTS_COPY_DROPS : Fd := ⟨0x1A138, 48, 16, .rc, 0, 0, 65535, none⟩
def R.PAR_RESYNC_BYTES_LEFT : Fd := ⟨0x1A140, 0, 40, .ro, 0, 0, 1099511627775, none⟩
def R.PAR_RPG_MEMBER : Fd := ⟨0x1A148, 0, 8, .rw, 0, 0, 255, none⟩
def R.PAR_RPG_POS : Fd := ⟨0x1A148, 40, 3, .rw, 0, 0, 4, none⟩
def R.PAR_RPG_LOST : Fd := ⟨0x1A148, 43, 5, .ro, 0, 0, 31, none⟩
def R.PAR_RPG_RP_EN : Fd := ⟨0x1A148, 48, 1, .rw, 0, 0, 1, none⟩
def R.PAR_RPR_D_BASE : Fd := ⟨0x1A150, 0, 24, .rw, 0, 0, 16728063, none⟩
def R.PAR_RPR_D_UNITS : Fd := ⟨0x1A150, 24, 24, .rw, 0, 0, 13382448, none⟩
def R.PAR_RPP_P_BASE : Fd := ⟨0x1A158, 0, 24, .rw, 0, 0, 16728063, none⟩
def R.SEC_CFG_REKEY_GBS : Fd := ⟨0x0B100, 0, 6, .rw, 10, 1, 50, none⟩
def R.SEC_CFG_DBG_MIN : Fd := ⟨0x0B100, 6, 8, .rw, 60, 1, 240, none⟩
def R.SEC_STATUS_DEBUG : Fd := ⟨0x0B108, 0, 2, .ro, 0, 0, 2, none⟩
def R.SEC_STATUS_CLOSE_CAUSE : Fd := ⟨0x0B108, 2, 4, .ro, 1, 0, 15, none⟩
def R.SEC_STATUS_SESSIONS : Fd := ⟨0x0B108, 6, 11, .ro, 0, 0, 1024, none⟩
def R.SEC_STATUS_REKEYING : Fd := ⟨0x0B108, 17, 1, .ro, 0, 0, 1, none⟩
def R.SEC_COUNTS_BIND_FAIL : Fd := ⟨0x0B110, 0, 16, .rc, 0, 0, 65535, none⟩
def R.SEC_COUNTS_UNWRAP_FAIL : Fd := ⟨0x0B110, 16, 16, .rc, 0, 0, 65535, none⟩
def R.SEC_COUNTS_CONSENT_FAIL : Fd := ⟨0x0B110, 32, 16, .rc, 0, 0, 65535, none⟩
def R.SEC_COUNTS_UNLOCK_FAIL : Fd := ⟨0x0B110, 48, 16, .rc, 0, 0, 65535, none⟩
def R.SEC_DBG_CTRL_RELOCK : Fd := ⟨0x0B118, 0, 1, .wo, 0, 0, 1, none⟩
def R.SEC_OPID_DIGEST : Fd := ⟨0x0B180, 0, 64, .rw, 0, 0, 18446744073709551615, none⟩
def R.SEC_DBGID_DIGEST : Fd := ⟨0x0B1C0, 0, 64, .rw, 0, 0, 18446744073709551615, none⟩
def R.SEC_DOMID_DIGEST : Fd := ⟨0x0B200, 0, 64, .rw, 0, 0, 18446744073709551615, none⟩
def R.SEC_TCFG_AUTOKEY : Fd := ⟨0x0B400, 0, 1, .rw, 0, 0, 1, none⟩
def R.SEC_TCFG_MAX_CONSENTS : Fd := ⟨0x0B400, 1, 13, .rw, 0, 0, 4096, none⟩
def R.SEC_TCFG_ROTATE : Fd := ⟨0x0B400, 61, 1, .wo, 0, 0, 1, none⟩
def R.SEC_TCFG_RETIRE : Fd := ⟨0x0B400, 62, 1, .wo, 0, 0, 1, none⟩
def R.SEC_TSTAT_STATE : Fd := ⟨0x0B408, 0, 2, .ro, 0, 0, 2, none⟩
def R.SEC_TSTAT_CUR_GEN : Fd := ⟨0x0B408, 2, 2, .ro, 0, 0, 3, none⟩
def R.SEC_TSTAT_PREV_VALID : Fd := ⟨0x0B408, 4, 1, .ro, 0, 0, 1, none⟩
def R.SEC_TSTAT_SWEEP : Fd := ⟨0x0B408, 5, 1, .ro, 0, 0, 1, none⟩
def R.SEC_TSTAT_CONSENTS : Fd := ⟨0x0B408, 6, 13, .ro, 0, 0, 4096, none⟩
def R.SEC_TSTAT_ROTATIONS : Fd := ⟨0x0B408, 19, 16, .ro, 0, 0, 65535, none⟩
def R.SEC_TSTAT_RETIRE_RESULT : Fd := ⟨0x0B408, 35, 2, .ro, 0, 0, 2, none⟩
def R.SEC_TID_DIGEST : Fd := ⟨0x0C100, 0, 64, .rw, 0, 0, 18446744073709551615, none⟩
def R.LMC_STATUS_CORE : Fd := ⟨0x03100, 0, 2, .ro, 0, 0, 3, none⟩
def R.LMC_STATUS_LC : Fd := ⟨0x03100, 8, 3, .ro, 0, 0, 6, none⟩
def R.LMC_STATUS_MEM_UE : Fd := ⟨0x03100, 11, 16, .rc, 0, 0, 65535, none⟩
def R.LMC_WDT_PERIOD_MS : Fd := ⟨0x03110, 0, 16, .rw, 1000, 10, 60000, none⟩
def R.LMC_WDT_STAGE : Fd := ⟨0x03110, 16, 2, .ro, 0, 0, 1, none⟩
def R.LMC_WDT_KICK : Fd := ⟨0x03110, 63, 1, .wo, 0, 0, 1, none⟩
def R.LMC_FW_ACTIVE : Fd := ⟨0x03130, 0, 1, .ro, 0, 0, 1, none⟩
def R.LMC_FW_A_STATE : Fd := ⟨0x03130, 1, 3, .ro, 0, 0, 5, none⟩
def R.LMC_FW_B_STATE : Fd := ⟨0x03130, 4, 3, .ro, 0, 0, 5, none⟩
def R.LMC_FW_SVN : Fd := ⟨0x03130, 7, 8, .ro, 0, 0, 255, none⟩
def R.LMC_FW_FUSE_SVN : Fd := ⟨0x03130, 15, 8, .ro, 0, 0, 255, none⟩
def R.LMC_FW_BOOT_RESULT : Fd := ⟨0x03130, 23, 3, .ro, 0, 0, 3, none⟩
def R.LMC_FW_CMD_OP : Fd := ⟨0x03138, 0, 3, .rw, 0, 0, 3, (some 0)⟩
def R.LMC_FW_CMD_GO : Fd := ⟨0x03138, 63, 1, .wo, 0, 0, 1, none⟩
def R.LMC_FW_CFG_TRIAL_S : Fd := ⟨0x03140, 0, 8, .rw, 10, 2, 120, none⟩
def R.LMC_LOG_HEAD : Fd := ⟨0x03148, 0, 17, .ro, 0, 0, 131071, none⟩
def R.LMC_LOG_WRAPS : Fd := ⟨0x03148, 17, 32, .ro, 0, 0, 4294967295, none⟩
def R.LMC_LOG_CFG_FLASH_SEV : Fd := ⟨0x03150, 0, 3, .rw, 3, 0, 4, none⟩
def R.LMC_LOG_CFG_UART_SEV : Fd := ⟨0x03150, 3, 3, .rw, 2, 0, 4, none⟩
def R.EVC_GATE_CLOSED : Fd := ⟨0x04100, 0, 1, .rw, 1, 0, 1, none⟩
def R.EVC_SWSET_SOURCE : Fd := ⟨0x04108, 0, 10, .wo, 0, 768, 1023, none⟩
def R.EVC_CORE_THRESH : Fd := ⟨0x04200, 0, 3, .rw, 0, 0, 7, none⟩
def R.EVC_CORE_MASK : Fd := ⟨0x04200, 3, 1, .rw, 1, 0, 1, none⟩
def R.EVC_CORE_VBASE : Fd := ⟨0x04200, 4, 32, .rw, 0, 0, 4294967280, none⟩
def R.EVC_CLAIM_SOURCE : Fd := ⟨0x04208, 0, 10, .ro, 0, 0, 1023, none⟩
def R.EVC_CLAIM_VALID : Fd := ⟨0x04208, 63, 1, .ro, 0, 0, 1, none⟩
def R.EVC_EOI_SOURCE : Fd := ⟨0x04210, 0, 10, .wo, 0, 0, 1023, none⟩
def R.EVC_HOLDOFF_UNITS : Fd := ⟨0x04300, 0, 16, .rw, 0, 0, 65535, none⟩
def R.EVC_PEND_BITS : Fd := ⟨0x04400, 0, 64, .ro, 0, 0, 18446744073709551615, none⟩
def R.EVC_ACT_BITS : Fd := ⟨0x04480, 0, 64, .ro, 0, 0, 18446744073709551615, none⟩
def R.EVC_SRC_ENABLE : Fd := ⟨0x05800, 0, 1, .rw, 0, 0, 1, none⟩
def R.EVC_SRC_PRIO : Fd := ⟨0x05800, 1, 3, .rw, 0, 0, 7, none⟩
def R.EVC_SRC_CORE : Fd := ⟨0x05800, 4, 2, .rw, 0, 0, 3, none⟩
def R.EVC_SRC_GROUP : Fd := ⟨0x05800, 6, 4, .rw, 0, 0, 15, none⟩
def R.EVC_SRC_MODE : Fd := ⟨0x05800, 10, 1, .rw, 0, 0, 1, none⟩
def R.THM_CFG_WARN_C : Fd := ⟨0x09100, 0, 7, .rw, 95, 60, 114, none⟩
def R.THM_CFG_CRIT_C : Fd := ⟨0x09100, 7, 7, .rw, 110, 70, 115, none⟩
def R.THM_CFG_HYST_C : Fd := ⟨0x09100, 14, 4, .rw, 3, 1, 10, none⟩
def R.THM_CFG_V_TOL_PCT : Fd := ⟨0x09100, 18, 4, .rw, 5, 1, 10, none⟩
def R.THM_TP_TEMP : Fd := ⟨0x09108, 0, 16, .ro, 0, 0, 65535, none⟩
def R.THM_VM_MV : Fd := ⟨0x09168, 0, 16, .ro, 0, 0, 65535, none⟩
def R.THM_INPUT_VIN_MV : Fd := ⟨0x09188, 0, 16, .ro, 0, 0, 65535, none⟩
def R.THM_INPUT_IIN_MA : Fd := ⟨0x09188, 16, 16, .ro, 0, 0, 65535, none⟩
def R.THM_INPUT_PIN_DW : Fd := ⟨0x09188, 32, 16, .ro, 0, 0, 65535, none⟩
def R.THM_STACK_STACK : Fd := ⟨0x09190, 0, 8, .ro, 0, 0, 127, none⟩
def R.BST_CTRL_STACKS : Fd := ⟨0x0A100, 0, 8, .rw, 0, 0, 255, none⟩
def R.BST_CTRL_SRAM : Fd := ⟨0x0A100, 8, 1, .rw, 0, 0, 1, none⟩
def R.BST_CTRL_FRONDS : Fd := ⟨0x0A100, 9, 1, .rw, 0, 0, 1, none⟩
def R.BST_CTRL_PATTERN : Fd := ⟨0x0A100, 10, 2, .rw, 0, 0, 3, none⟩
def R.BST_CTRL_GO : Fd := ⟨0x0A100, 63, 1, .wo, 0, 0, 1, none⟩
def R.BST_STATUS_STATE : Fd := ⟨0x0A108, 0, 2, .ro, 0, 0, 1, none⟩
def R.BST_STATUS_RESULT : Fd := ⟨0x0A108, 2, 2, .ro, 0, 0, 3, none⟩
def R.BST_STATUS_PROGRESS : Fd := ⟨0x0A108, 4, 7, .ro, 0, 0, 100, none⟩
def R.BST_STATUS_FAILS : Fd := ⟨0x0A108, 11, 32, .ro, 0, 0, 4294967295, none⟩
def R.BST_FAIL_KIND : Fd := ⟨0x0A110, 0, 3, .rc, 0, 0, 5, none⟩
def R.BST_FAIL_UNIT : Fd := ⟨0x0A110, 3, 9, .rc, 0, 0, 511, none⟩
def R.BST_FAIL_ADDR : Fd := ⟨0x0A110, 12, 30, .rc, 0, 0, 1073741823, none⟩
def R.BST_FAIL_BIT : Fd := ⟨0x0A110, 42, 10, .rc, 0, 0, 1023, none⟩
def R.BST_FAIL_VALID : Fd := ⟨0x0A110, 63, 1, .rc, 0, 0, 1, none⟩
def R.BST_PPR_PC : Fd := ⟨0x0A118, 0, 9, .rw, 0, 0, 511, none⟩
def R.BST_PPR_BANK : Fd := ⟨0x0A118, 9, 6, .rw, 0, 0, 63, none⟩
def R.BST_PPR_ROW : Fd := ⟨0x0A118, 15, 15, .rw, 0, 0, 32767, none⟩
def R.BST_PPR_RESULT : Fd := ⟨0x0A118, 30, 2, .ro, 0, 0, 3, none⟩
def R.BST_PPR_GO : Fd := ⟨0x0A118, 63, 1, .wo, 0, 0, 1, none⟩
def R.PWR_CFG_CAP_W : Fd := ⟨0x02100, 0, 10, .rw, 820, 200, 820, none⟩
def R.PWR_CFG_CAP_HYST_W : Fd := ⟨0x02100, 10, 6, .rw, 20, 5, 50, none⟩
def R.PWR_CFG_GATE_IDLE_US : Fd := ⟨0x02100, 16, 10, .rw, 100, 1, 1000, none⟩
def R.PWR_CFG_NAP_IDLE_US : Fd := ⟨0x02100, 26, 14, .rw, 1000, 10, 16383, none⟩
def R.PWR_CFG_DEEP_EN : Fd := ⟨0x02100, 40, 1, .rw, 0, 0, 1, none⟩
def R.PWR_CFG_DEEP_PORT : Fd := ⟨0x02100, 41, 3, .rw, 0, 0, 7, none⟩
def R.PWR_CFG_DEEP_IDLE_MS : Fd := ⟨0x02100, 44, 10, .rw, 100, 1, 1000, none⟩
def R.PWR_CFG2_PAIR_WAIT_MS : Fd := ⟨0x02108, 0, 10, .rw, 300, 50, 1000, none⟩
def R.PWR_CFG2_READY_MS : Fd := ⟨0x02108, 10, 11, .rw, 1150, 300, 1150, none⟩
def R.PWR_CTRL_SERVICE : Fd := ⟨0x02110, 0, 1, .wo, 0, 0, 1, none⟩
def R.PWR_CTRL_HANDOVER : Fd := ⟨0x02110, 1, 1, .rw, 1, 0, 1, none⟩
def R.PWR_CTRL_WAKE : Fd := ⟨0x02110, 2, 1, .wo, 0, 0, 1, none⟩
def R.PWR_CTRL_KEY : Fd := ⟨0x02110, 3, 16, .rw, 0, 0, 65535, none⟩
def R.PWR_CTRL_RESET : Fd := ⟨0x02110, 63, 1, .wo, 0, 0, 1, none⟩
def R.PWR_BOOT_STACKS_OK : Fd := ⟨0x02118, 0, 8, .rw, 0, 0, 255, none⟩
def R.PWR_STATUS_PHASE : Fd := ⟨0x02120, 0, 4, .ro, 0, 0, 4, none⟩
def R.PWR_STATUS_READY : Fd := ⟨0x02120, 4, 1, .ro, 0, 0, 1, none⟩
def R.PWR_STATUS_GATED : Fd := ⟨0x02120, 5, 1, .ro, 0, 0, 1, none⟩
def R.PWR_STATUS_NAP_STACKS : Fd := ⟨0x02120, 6, 8, .ro, 0, 0, 255, none⟩
def R.PWR_STATUS_DEEP : Fd := ⟨0x02120, 14, 1, .ro, 0, 0, 1, none⟩
def R.PWR_STATUS_LEVEL : Fd := ⟨0x02120, 15, 4, .ro, 0, 0, 8, none⟩
def R.PWR_STATUS_BUDGET_US : Fd := ⟨0x02120, 19, 32, .ro, 4294967295, 0, 4294967295, none⟩
def R.PWR_RAILS_PGOOD : Fd := ⟨0x02128, 0, 8, .ro, 0, 0, 255, none⟩
def R.PWR_RAILS_FAILED : Fd := ⟨0x02128, 8, 8, .ro, 0, 0, 255, none⟩
def R.PWR_RAILS_VIN_WARN : Fd := ⟨0x02128, 16, 1, .ro, 0, 0, 1, none⟩
def R.PWR_RESET_CAUSE_CAUSE : Fd := ⟨0x02130, 0, 4, .ro, 0, 0, 7, none⟩
def R.PWR_RESET_CAUSE_RESETS : Fd := ⟨0x02130, 4, 32, .ro, 0, 0, 4294967295, none⟩
def R.PWR_COUNTS_SKIPPED : Fd := ⟨0x02138, 0, 32, .rc, 0, 0, 4294967295, none⟩
def R.PWR_COUNTS_CAP_MS : Fd := ⟨0x02138, 32, 16, .rc, 0, 0, 65535, none⟩
def R.PWR_COUNTS_INPUT_FAULTS : Fd := ⟨0x02138, 48, 16, .rc, 0, 0, 65535, none⟩
def R.GLB_ID_PART : Fd := ⟨0x00100, 0, 16, .ro, 3848, 0, 65535, none⟩
def R.GLB_ID_STEPPING : Fd := ⟨0x00100, 16, 8, .ro, 176, 0, 255, none⟩
def R.GLB_CTRL_APPLY_ALL : Fd := ⟨0x00108, 0, 1, .wo, 0, 0, 1, none⟩
def R.GLB_CTRL_DISCARD_ALL : Fd := ⟨0x00108, 1, 1, .wo, 0, 0, 1, none⟩
def R.GLB_STATUS_PENDING_PAGES : Fd := ⟨0x00110, 0, 6, .ro, 0, 0, 57, none⟩
def R.GLB_STATUS_APPLYING : Fd := ⟨0x00110, 6, 1, .ro, 0, 0, 1, none⟩
def R.GLB_CLOG_STATUS_HEAD : Fd := ⟨0x00118, 0, 6, .ro, 0, 0, 63, none⟩
def R.GLB_CLOG_STATUS_WRAPPED : Fd := ⟨0x00118, 6, 1, .ro, 0, 0, 1, none⟩
def R.GLB_CLOG_STATUS_TOTAL : Fd := ⟨0x00118, 7, 32, .ro, 0, 0, 4294967295, none⟩
def R.GLB_CLOG_CTRL_CLEAR : Fd := ⟨0x00120, 0, 1, .wo, 0, 0, 1, none⟩
def R.GLB_EVT_SUM_LINES : Fd := ⟨0x00200, 0, 64, .ro, 0, 0, 18446744073709551615, none⟩
def R.GLB_CLOG_0_PAGE : Fd := ⟨0x01800, 0, 12, .ro, 0, 0, 4095, none⟩
def R.GLB_CLOG_0_FIELD : Fd := ⟨0x01800, 12, 15, .ro, 0, 0, 32767, none⟩
def R.GLB_CLOG_0_KIND : Fd := ⟨0x01800, 27, 4, .ro, 0, 0, 9, none⟩
def R.GLB_CLOG_0_SOURCE : Fd := ⟨0x01800, 31, 3, .ro, 0, 0, 5, none⟩
def R.GLB_CLOG_1_FRAME : Fd := ⟨0x01808, 0, 53, .ro, 0, 0, 9007199254740991, none⟩
def R.GLB_CLOG_1_FT_CYCLE : Fd := ⟨0x01808, 53, 11, .ro, 0, 0, 1919, none⟩
def R.GLB_CLOG_2_WRITTEN : Fd := ⟨0x01810, 0, 64, .ro, 0, 0, 18446744073709551615, none⟩
def R.GLB_CLOG_3_STORED : Fd := ⟨0x01818, 0, 64, .ro, 0, 0, 18446744073709551615, none⟩
def R.SLB_STATUS_LEAD : Fd := ⟨0x11100, 0, 13, .ro, 0, 0, 8191, none⟩
def R.SLB_STATUS_LEAD_START : Fd := ⟨0x11100, 13, 13, .ro, 0, 0, 8191, none⟩
def R.SLB_STATUS_TAGS_PENDING : Fd := ⟨0x11100, 26, 7, .ro, 0, 0, 127, none⟩
def R.SLB_QMAX_QMAX : Fd := ⟨0x11108, 0, 9, .rc, 0, 0, 256, none⟩
def R.SLB_SKIPS_SKIPS : Fd := ⟨0x11110, 0, 32, .ro, 0, 0, 4294967295, none⟩
def R.SLB_SKIPS_BOUNDS : Fd := ⟨0x11110, 32, 16, .rc, 0, 0, 65535, none⟩

/-- The block registers of page XLT. -/
def regsXLT : List Rg := [
  ⟨0x13100, 1, 0x0, 1, 0x0, false, [R.XLT_DEV_INDEX_DEV_INDEX]⟩,
  ⟨0x13110, 1, 0x0, 1, 0x0, true, [R.XLT_CMD_OP, R.XLT_CMD_TENANT, R.XLT_CMD_INDEX, R.XLT_CMD_GO]⟩,
  ⟨0x13118, 1, 0x0, 1, 0x0, true, [R.XLT_CMD_ARG0_START, R.XLT_CMD_ARG0_LENGTH, R.XLT_CMD_ARG0_ANY_START]⟩,
  ⟨0x13120, 1, 0x0, 1, 0x0, true, [R.XLT_CMD_ARG1_PROT, R.XLT_CMD_ARG1_HINT, R.XLT_CMD_ARG1_COHERENT, R.XLT_CMD_ARG1_TRIGHTS, R.XLT_CMD_ARG1_ANY_INDEX, R.XLT_CMD_ARG1_HOLDER, R.XLT_CMD_ARG1_RIGHTS]⟩,
  ⟨0x13128, 1, 0x0, 1, 0x0, false, [R.XLT_CMD_RESULT_STATE, R.XLT_CMD_RESULT_RESULT, R.XLT_CMD_RESULT_HANDLE]⟩,
  ⟨0x13130, 1, 0x0, 1, 0x0, false, [R.XLT_INVAL_STATUS_IN_PROGRESS, R.XLT_INVAL_STATUS_COMPLETED]⟩,
  ⟨0x13138, 1, 0x0, 1, 0x0, false, [R.XLT_REVOKE_DONE_INDEX, R.XLT_REVOKE_DONE_GENERATION, R.XLT_REVOKE_DONE_VALID]⟩,
  ⟨0x13140, 1, 0x0, 1, 0x0, false, [R.XLT_MFQ_STATUS_DEPTH, R.XLT_MFQ_STATUS_FAULT_LOST, R.XLT_MFQ_STATUS_OVERFLOW]⟩,
  ⟨0x13148, 1, 0x0, 1, 0x0, true, [R.XLT_MFQ_POP_POP]⟩,
  ⟨0x13150, 4, 0x8, 1, 0x0, false, [R.XLT_MFQ_DATA_DATA]⟩,
  ⟨0x13170, 1, 0x0, 1, 0x0, false, [R.XLT_WALKS_COUNT]⟩,
  ⟨0x13400, 64, 0x10, 1, 0x0, false, [R.XLT_TCFG_TAG, R.XLT_TCFG_MAX_EXTENTS, R.XLT_TCFG_MAX_GRANTS, R.XLT_TCFG_FAULT_AGENT, R.XLT_TCFG_FAULT_NOTIFY]⟩,
  ⟨0x13408, 64, 0x10, 1, 0x0, false, [R.XLT_TBYTES_MAX_GIB]⟩,
  ⟨0x13800, 64, 0x8, 1, 0x0, false, [R.XLT_FQ_STATUS_DEPTH, R.XLT_FQ_STATUS_FAULT_LOST, R.XLT_FQ_STATUS_OVERFLOW]⟩]

/-- The block registers of page FTM0. -/
def regsFTM0 : List Rg := [
  ⟨0x0D100, 1, 0x0, 1, 0x0, false, [R.FTM_CTRL_MODE, R.FTM_CTRL_STRICT_SLACK]⟩,
  ⟨0x0D108, 1, 0x0, 1, 0x0, false, [R.FTM_FRAME_FRAME]⟩,
  ⟨0x0D110, 1, 0x0, 1, 0x0, false, [R.FTM_THERM_HOT_C, R.FTM_THERM_HYST_C, R.FTM_THERM_ZQ_DELTA_C, R.FTM_THERM_HOT_STACKS]⟩,
  ⟨0x0D118, 1, 0x0, 1, 0x0, false, [R.FTM_REBASE_PL_LAT, R.FTM_REBASE_REBASES, R.FTM_REBASE_DOWN_PENDING]⟩,
  ⟨0x0D120, 1, 0x0, 1, 0x0, false, [R.FTM_STATUS_APPLY_PENDING, R.FTM_STATUS_IN_WINDOW, R.FTM_STATUS_FRAMES_LEFT, R.FTM_STATUS_HELD_COMMITS]⟩,
  ⟨0x0D200, 16, 0x80, 8, 0x8, false, Fd.rep R.FTM_TPL_S_SLOT 16 4⟩,
  ⟨0x0D240, 16, 0x80, 1, 0x0, false, [R.FTM_TPL_CFG_HOT_SLOT, R.FTM_TPL_CFG_VALID, R.FTM_TPL_CFG_PLANNED, R.FTM_TPL_CFG_MAX_GAP, R.FTM_TPL_CFG_FAIL_RULE]⟩,
  ⟨0x0DA00, 32, 0x8, 1, 0x0, false, Fd.rep R.FTM_PCSEL_TPL 16 4⟩,
  ⟨0x0DB00, 8, 0x8, 1, 0x0, false, Fd.rep R.FTM_WEIGHT_WEIGHT 8 8⟩]

/-- The block registers of page FTM1. -/
def regsFTM1 : List Rg := [
  ⟨0x0E100, 1, 0x0, 1, 0x0, false, [R.FTM_ROTA_LEN_LEN]⟩,
  ⟨0x0E200, 128, 0x8, 1, 0x0, false, Fd.rep R.FTM_ROTA_TENANT 8 8 ++ Fd.rep R.FTM_ROTA_OWNED 8 8⟩]

/-- The block registers of page FTM2. -/
def regsFTM2 : List Rg := [
  ⟨0x0F100, 64, 0x20, 1, 0x0, false, [R.FTM_TS_EVENTS_DRAIN, R.FTM_TS_EVENTS_REBASE, R.FTM_TS_EVENTS_ECC_WB, R.FTM_TS_EVENTS_SYNC]⟩,
  ⟨0x0F108, 64, 0x20, 1, 0x0, false, [R.FTM_TS_CYCLES_SLIP_CYCLES]⟩,
  ⟨0x0F110, 64, 0x20, 1, 0x0, false, [R.FTM_TS_WAITS_DRAIN_WAITS, R.FTM_TS_WAITS_EXT_FRAMES]⟩,
  ⟨0x0F118, 64, 0x20, 1, 0x0, false, [R.FTM_TS_FRAMES_WINDOW_FRAMES, R.FTM_TS_FRAMES_FORCED_ENDS]⟩]

/-- The block registers of page FRD. -/
def regsFRD : List Rg := [
  ⟨0x12100, 1, 0x0, 1, 0x0, false, [R.FRD_STATUS_AVAILABLE, R.FRD_STATUS_SPARE_FREE, R.FRD_STATUS_RETIRE_PENDING]⟩,
  ⟨0x12108, 1, 0x0, 1, 0x0, false, [R.FRD_CFG_CE_RETIRE]⟩,
  ⟨0x12110, 1, 0x0, 1, 0x0, true, [R.FRD_RETIRE_PHYS, R.FRD_RETIRE_GO]⟩,
  ⟨0x12200, 65, 0x8, 1, 0x0, false, [R.FRD_PHYS_STATE, R.FRD_PHYS_LOGICAL, R.FRD_PHYS_CE, R.FRD_PHYS_UE]⟩,
  ⟨0x12500, 8, 0x8, 1, 0x0, false, Fd.rep R.FRD_MAP_PHYS 8 8⟩]

/-- The block registers of page SEQ. -/
def regsSEQ : List Rg := [
  ⟨0x10100, 1, 0x0, 1, 0x0, false, [R.SEQ_CFG_SYNC_TIMEOUT_US]⟩,
  ⟨0x10108, 1, 0x0, 1, 0x0, false, [R.SEQ_STATUS_RUNNING, R.SEQ_STATUS_TENANT, R.SEQ_STATUS_QUEUED, R.SEQ_STATUS_LOCKED, R.SEQ_STATUS_PAGES_FREE]⟩,
  ⟨0x10110, 1, 0x0, 1, 0x0, false, [R.SEQ_CALLS_COUNT]⟩,
  ⟨0x10118, 1, 0x0, 1, 0x0, false, [R.SEQ_FAULTS_PLANE, R.SEQ_FAULTS_SYNC, R.SEQ_FAULTS_LEAD, R.SEQ_FAULTS_LOAD]⟩,
  ⟨0x10400, 64, 0x10, 1, 0x0, false, [R.SEQ_TCALL_MAX_QUEUED, R.SEQ_TCALL_PLAN_BASE, R.SEQ_TCALL_PLAN_COUNT, R.SEQ_TCALL_PLAN_PAGES]⟩,
  ⟨0x10408, 64, 0x10, 1, 0x0, false, [R.SEQ_TSTAT_QUEUED, R.SEQ_TSTAT_ALIVE, R.SEQ_TSTAT_PAGES_USED]⟩]

/-- The block registers of page ACC. -/
def regsACC : List Rg := [
  ⟨0x14100, 1, 0x0, 1, 0x0, false, [R.ACC_CFG_PIN_WAYS, R.ACC_CFG_NORMAL_MID]⟩,
  ⟨0x14108, 1, 0x0, 1, 0x0, false, [R.ACC_OPS_OPS]⟩,
  ⟨0x14110, 1, 0x0, 1, 0x0, false, [R.ACC_BOUND_LATE, R.ACC_BOUND_MAX_NS]⟩,
  ⟨0x14118, 1, 0x0, 1, 0x0, false, [R.ACC_REPLAY_IN_USE, R.ACC_REPLAY_FULL, R.ACC_REPLAY_STALE]⟩,
  ⟨0x14120, 1, 0x0, 1, 0x0, false, [R.ACC_CUSH_VALID, R.ACC_CUSH_PINNED]⟩,
  ⟨0x14400, 64, 0x10, 1, 0x0, false, [R.ACC_TCUSH_PIN_QUOTA_MIB, R.ACC_TCUSH_WAY_MASK]⟩,
  ⟨0x14408, 64, 0x10, 1, 0x0, false, [R.ACC_TSTAT_PINNED_MIB, R.ACC_TSTAT_PIN_SHORT]⟩]

/-- The block registers of page DIR. -/
def regsDIR : List Rg := [
  ⟨0x15100, 1, 0x0, 1, 0x0, false, [R.DIR_CFG_LOST_POISON, R.DIR_CFG_MAX_WAITERS, R.DIR_CFG_WAIT_LIMIT_US, R.DIR_CFG_BUSY_HINT_US]⟩,
  ⟨0x15108, 1, 0x0, 1, 0x0, false, [R.DIR_STATUS_VALID, R.DIR_STATUS_OPEN, R.DIR_STATUS_MEMBERS, R.DIR_STATUS_SWEEP]⟩,
  ⟨0x15110, 1, 0x0, 1, 0x0, false, [R.DIR_COUNTS_BUSY_SET, R.DIR_COUNTS_BUSY_WAIT, R.DIR_COUNTS_SNOOP_RETRY, R.DIR_COUNTS_REVOKED]⟩,
  ⟨0x15118, 1, 0x0, 1, 0x0, false, [R.DIR_CROSS_WB_CROSS, R.DIR_CROSS_STALE_MISS]⟩,
  ⟨0x15120, 1, 0x0, 1, 0x0, false, [R.DIR_REVOKED_AGENT, R.DIR_REVOKED_TENANT, R.DIR_REVOKED_CAUSE, R.DIR_REVOKED_VALID]⟩,
  ⟨0x15128, 1, 0x0, 1, 0x0, true, [R.DIR_KICK_AGENT, R.DIR_KICK_GO]⟩,
  ⟨0x15400, 64, 0x10, 1, 0x0, false, [R.DIR_TWAYS_WAY_MASK]⟩,
  ⟨0x15408, 64, 0x10, 1, 0x0, false, [R.DIR_TSTAT_ENTRIES, R.DIR_TSTAT_BUSY]⟩]

/-- The block registers of page PFX. -/
def regsPFX : List Rg := [
  ⟨0x16100, 1, 0x0, 1, 0x0, false, [R.PFX_CFG_RING_TIMEOUT_US]⟩,
  ⟨0x16108, 1, 0x0, 1, 0x0, false, [R.PFX_STATUS_ENTRIES, R.PFX_STATUS_PINS]⟩,
  ⟨0x16110, 1, 0x0, 1, 0x0, false, [R.PFX_COUNTS_SET_FULL, R.PFX_COUNTS_PIN_FULL, R.PFX_COUNTS_RING_FAIL]⟩,
  ⟨0x16118, 1, 0x0, 1, 0x0, true, [R.PFX_RECLAIM_HOLDER, R.PFX_RECLAIM_GO]⟩,
  ⟨0x16200, 256, 0x8, 1, 0x0, false, [R.PFX_ARENA_INDEX, R.PFX_ARENA_BLOCK_UNITS, R.PFX_ARENA_VALID, R.PFX_ARENA_BLOCKS, R.PFX_ARENA_TENANT]⟩,
  ⟨0x16A00, 64, 0x10, 1, 0x0, false, [R.PFX_TSETS_SET_BASE, R.PFX_TSETS_SET_COUNT, R.PFX_TSETS_MAX_PINS]⟩,
  ⟨0x16A08, 64, 0x10, 1, 0x0, false, [R.PFX_TSTAT_ENTRIES, R.PFX_TSTAT_PINS, R.PFX_TSTAT_EVICTIONS]⟩]

/-- The block registers of page SYN. -/
def regsSYN : List Rg := [
  ⟨0x17100, 1, 0x0, 1, 0x0, false, [R.SYN_STATUS_WAITERS, R.SYN_STATUS_FAULTED]⟩,
  ⟨0x17108, 1, 0x0, 1, 0x0, false, [R.SYN_COUNTS_WAIT_FULL, R.SYN_COUNTS_CRC_FAIL, R.SYN_COUNTS_WITHDRAWN]⟩,
  ⟨0x17110, 1, 0x0, 1, 0x0, false, [R.SYN_OPS_COUNT]⟩,
  ⟨0x17400, 64, 0x10, 1, 0x0, false, [R.SYN_TCFG_OBJ_BASE, R.SYN_TCFG_OBJ_COUNT, R.SYN_TCFG_MAX_WAITERS]⟩,
  ⟨0x17408, 64, 0x10, 1, 0x0, false, [R.SYN_TSTAT_WAITERS, R.SYN_TSTAT_TIMEOUTS]⟩]

/-- The block registers of page SMC and the pages like it. -/
def regsSMC : List Rg := [
  ⟨0x20100, 1, 0x0, 1, 0x0, false, [R.SMC_CFG_IDLE_CYC, R.SMC_CFG_WQ_HIGH, R.SMC_CFG_WQ_LOW, R.SMC_CFG_CALFAULT_RETIRE, R.SMC_CFG_AGE_CAP]⟩,
  ⟨0x20108, 1, 0x0, 1, 0x0, false, [R.SMC_STATUS_STATE, R.SMC_STATUS_TEMP_C, R.SMC_STATUS_RETIRED_PCS, R.SMC_STATUS_TRAIN_MS]⟩,
  ⟨0x20110, 1, 0x0, 1, 0x0, true, [R.SMC_RETIRE_TARGET, R.SMC_RETIRE_SCOPE, R.SMC_RETIRE_GO]⟩,
  ⟨0x20118, 1, 0x0, 1, 0x0, false, [R.SMC_COUNTS_ROW_HITS, R.SMC_COUNTS_ROW_MISSES]⟩,
  ⟨0x20120, 1, 0x0, 1, 0x0, false, [R.SMC_HAZ_FORWARDS, R.SMC_HAZ_WQ_FULL, R.SMC_HAZ_SCRUB_DROPS, R.SMC_HAZ_BANK_LATE]⟩,
  ⟨0x20200, 64, 0x8, 1, 0x0, false, [R.SMC_PC_STATE, R.SMC_PC_RD_LAT, R.SMC_PC_CAL_FAULTS, R.SMC_PC_CAUSE, R.SMC_PC_WQ_MAX]⟩]

/-- The block registers of page ECC. -/
def regsECC : List Rg := [
  ⟨0x18100, 1, 0x0, 1, 0x0, false, [R.ECC_CFG_UE_RETIRE, R.ECC_CFG_HARD_RETIRE]⟩,
  ⟨0x18108, 1, 0x0, 1, 0x0, false, [R.ECC_SCRUB_PERIOD_H, R.ECC_SCRUB_FALLBACK]⟩,
  ⟨0x18110, 1, 0x0, 1, 0x0, false, [R.ECC_STATUS_WRITTEN_UNITS, R.ECC_STATUS_FULL_UNITS, R.ECC_STATUS_REBUILDING]⟩,
  ⟨0x18118, 1, 0x0, 1, 0x0, false, [R.ECC_VCACHE_ENTRIES, R.ECC_VCACHE_MISSES]⟩,
  ⟨0x18120, 1, 0x0, 1, 0x0, false, [R.ECC_COUNTS_CE, R.ECC_COUNTS_UE, R.ECC_COUNTS_RECON]⟩,
  ⟨0x18128, 1, 0x0, 1, 0x0, false, [R.ECC_POISON_POISON_WRITES, R.ECC_POISON_MISDIRECT]⟩,
  ⟨0x18130, 1, 0x0, 1, 0x0, false, [R.ECC_LAP_SCRUB_MIN, R.ECC_LAP_FALLBACK_MIN, R.ECC_LAP_FALLBACK_PCS]⟩,
  ⟨0x18138, 1, 0x0, 1, 0x0, false, [R.ECC_REBUILD_ROWS_LEFT, R.ECC_REBUILD_GROUPS_LOST]⟩,
  ⟨0x18140, 1, 0x0, 1, 0x0, true, [R.ECC_PC_SEL_PC]⟩,
  ⟨0x18148, 1, 0x0, 1, 0x0, false, [R.ECC_PC_DATA_CE, R.ECC_PC_DATA_UE, R.ECC_PC_DATA_HARD, R.ECC_PC_DATA_REMAP_USED, R.ECC_PC_DATA_LAP_MIN, R.ECC_PC_DATA_FALLBACK]⟩,
  ⟨0x18150, 1, 0x0, 1, 0x0, false, [R.ECC_REMAP_LOG_PC, R.ECC_REMAP_LOG_BANK, R.ECC_REMAP_LOG_ROW, R.ECC_REMAP_LOG_COL, R.ECC_REMAP_LOG_VALID]⟩,
  ⟨0x18158, 1, 0x0, 1, 0x0, true, [R.ECC_REMAP_ADD_PC, R.ECC_REMAP_ADD_BANK, R.ECC_REMAP_ADD_ROW, R.ECC_REMAP_ADD_COL, R.ECC_REMAP_ADD_GO]⟩]

/-- The block registers of page CRC. -/
def regsCRC : List Rg := [
  ⟨0x19200, 16, 0x40, 1, 0x0, true, [R.CRC_CTRL_ALG, R.CRC_CTRL_ALIVE_EN, R.CRC_CTRL_LEN, R.CRC_CTRL_GO]⟩,
  ⟨0x19208, 16, 0x40, 1, 0x0, true, [R.CRC_EXPECT_EXPECT]⟩,
  ⟨0x19210, 16, 0x40, 1, 0x0, false, [R.CRC_RESULT_RESULT]⟩,
  ⟨0x19218, 16, 0x40, 1, 0x0, false, [R.CRC_STAT_MISMATCH, R.CRC_STAT_ALIVE_REJ, R.CRC_STAT_LAST_ALIVE, R.CRC_STAT_BUSY]⟩,
  ⟨0x19220, 16, 0x40, 1, 0x0, true, [R.CRC_SRC_SRC]⟩]

/-- The block registers of page PRT0 and the pages like it. -/
def regsPRT0 : List Rg := [
  ⟨0x28100, 1, 0x0, 1, 0x0, false, [R.PRT_CFG_SPLIT, R.PRT_CFG_RING, R.PRT_CFG_PHY, R.PRT_CFG_ENABLE, R.PRT_CFG_MACSEC, R.PRT_CFG_PFC_MASK]⟩,
  ⟨0x28108, 1, 0x0, 1, 0x0, false, [R.PRT_STATUS_LINK_UP]⟩,
  ⟨0x28110, 1, 0x0, 1, 0x0, false, [R.PRT_FEC_CORRECTED, R.PRT_FEC_UNCORRECTABLE]⟩,
  ⟨0x28118, 1, 0x0, 1, 0x0, false, [R.PRT_DROPS_FCS, R.PRT_DROPS_UNKNOWN, R.PRT_DROPS_MACSEC, R.PRT_DROPS_CREDIT]⟩,
  ⟨0x28120, 1, 0x0, 1, 0x0, false, [R.PRT_MACSEC_REPLAY_WINDOW]⟩,
  ⟨0x28200, 4, 0x40, 1, 0x0, false, [R.PRT_MAC_MAC]⟩,
  ⟨0x28208, 4, 0x40, 1, 0x0, false, [R.PRT_IP4_IP4, R.PRT_IP4_VALID]⟩,
  ⟨0x28210, 4, 0x40, 1, 0x0, false, [R.PRT_IP6H_IP6]⟩,
  ⟨0x28218, 4, 0x40, 1, 0x0, false, [R.PRT_IP6L_IP6]⟩,
  ⟨0x28220, 4, 0x40, 1, 0x0, false, [R.PRT_SPCFG_VLAN, R.PRT_SPCFG_VLAN_EN, R.PRT_SPCFG_IP6_VALID]⟩]

/-- The block registers of page PRT8. -/
def regsPRT8 : List Rg := [
  ⟨0x30100, 1, 0x0, 1, 0x0, false, [R.PRT_IPT_CFG_UDP_PORT, R.PRT_IPT_CFG_RTO_US, R.PRT_IPT_CFG_DC_RETRIES, R.PRT_IPT_CFG_CRED_REQ, R.PRT_IPT_CFG_CRED_KIB]⟩,
  ⟨0x30108, 1, 0x0, 1, 0x0, false, [R.PRT_ADMIT_RATE]⟩,
  ⟨0x30110, 1, 0x0, 1, 0x0, false, [R.PRT_CONNS_IPT_OPEN, R.PRT_CONNS_QP_OPEN, R.PRT_CONNS_REFUSED]⟩,
  ⟨0x30118, 1, 0x0, 1, 0x0, true, [R.PRT_HSEL_HOLDER]⟩,
  ⟨0x30120, 1, 0x0, 1, 0x0, true, [R.PRT_HCFG_VALID, R.PRT_HCFG_TENANT, R.PRT_HCFG_SESSION, R.PRT_HCFG_PRIV, R.PRT_HCFG_MAX_CONN, R.PRT_HCFG_OPEN]⟩,
  ⟨0x30128, 1, 0x0, 1, 0x0, true, [R.PRT_HADDR_HI_ADDR]⟩,
  ⟨0x30130, 1, 0x0, 1, 0x0, true, [R.PRT_HADDR_LO_ADDR]⟩,
  ⟨0x30138, 1, 0x0, 1, 0x0, false, [R.PRT_RCE_CFG_CUT_US, R.PRT_RCE_CFG_RISE_US, R.PRT_RCE_CFG_RISE_PCT]⟩]

/-- The block registers of page LNK and the pages like it. -/
def regsLNK : List Rg := [
  ⟨0x31100, 1, 0x0, 1, 0x0, false, [R.LNK_CFG_REPLAY_MAX, R.LNK_CFG_ACK_TIMEOUT_US, R.LNK_CFG_LINK_PERIOD_US, R.LNK_CFG_SER_LIMIT, R.LNK_CFG_UE_LIMIT, R.LNK_CFG_WIDTH, R.LNK_CFG_SPEED, R.LNK_CFG_AUTO_DEGRADE]⟩,
  ⟨0x31108, 1, 0x0, 1, 0x0, true, [R.LNK_CTRL_RETRAIN, R.LNK_CTRL_RESET]⟩,
  ⟨0x31110, 1, 0x0, 1, 0x0, false, [R.LNK_STATUS_STATE, R.LNK_STATUS_WIDTH_NOW, R.LNK_STATUS_SPEED_NOW, R.LNK_STATUS_NEIGHBOUR, R.LNK_STATUS_NDIR]⟩,
  ⟨0x31118, 1, 0x0, 1, 0x0, false, [R.LNK_STATION_STATION]⟩,
  ⟨0x31120, 1, 0x0, 1, 0x0, false, Fd.rep R.LNK_VCCRED_A_CRED 6 9⟩,
  ⟨0x31128, 1, 0x0, 1, 0x0, false, [R.LNK_VCCRED_B_CRED_6, R.LNK_VCCRED_B_CRED_7, R.LNK_VCCRED_B_CRED_CTRL]⟩,
  ⟨0x31130, 1, 0x0, 1, 0x0, false, [R.LNK_TX_COUNT]⟩,
  ⟨0x31138, 1, 0x0, 1, 0x0, false, [R.LNK_RX_COUNT]⟩,
  ⟨0x31140, 1, 0x0, 1, 0x0, false, [R.LNK_ERR_CRC_ERR, R.LNK_ERR_REPLAYS, R.LNK_ERR_RETRAINS, R.LNK_ERR_DOWNS]⟩,
  ⟨0x31148, 1, 0x0, 1, 0x0, false, [R.LNK_STALL_CREDIT_US, R.LNK_STALL_DISCARDS]⟩]

/-- The block registers of page RTE. -/
def regsRTE : List Rg := [
  ⟨0x1B100, 1, 0x0, 1, 0x0, false, [R.RTE_CFG_DOMAIN, R.RTE_CFG_DETOUR, R.RTE_CFG_UP_HOLD_US, R.RTE_CFG_REASM_US, R.RTE_CFG_REFRESH_MS]⟩,
  ⟨0x1B108, 1, 0x0, 1, 0x0, false, [R.RTE_DIM_NX, R.RTE_DIM_NY, R.RTE_DIM_X, R.RTE_DIM_Y]⟩,
  ⟨0x1B110, 1, 0x0, 1, 0x0, false, Fd.rep R.RTE_PORTMAP_PORT 4 4⟩,
  ⟨0x1B118, 1, 0x0, 1, 0x0, false, [R.RTE_COUNTS_UNREACH, R.RTE_COUNTS_DETOURS, R.RTE_COUNTS_DISCARD]⟩,
  ⟨0x1B120, 1, 0x0, 1, 0x0, false, [R.RTE_REASM_IN_USE, R.RTE_REASM_FULL, R.RTE_REASM_TIMEOUTS, R.RTE_REASM_BAD]⟩,
  ⟨0x1B200, 16, 0x8, 1, 0x0, false, Fd.rep R.RTE_LSDB_LS 16 4⟩,
  ⟨0x1B400, 64, 0x8, 1, 0x0, false, [R.RTE_TCLASS_DSET, R.RTE_TCLASS_ORDER]⟩]

/-- The block registers of page QOS0. -/
def regsQOS0 : List Rg := [
  ⟨0x1C100, 1, 0x0, 1, 0x0, false, [R.QOS_OVL_PC_DEPTH, R.QOS_OVL_DEV_REQ, R.QOS_OVL_PORT_KIB]⟩,
  ⟨0x1C108, 1, 0x0, 1, 0x0, false, [R.QOS_STATUS_IN_PROG, R.QOS_STATUS_IN_KIB]⟩,
  ⟨0x1C110, 1, 0x0, 1, 0x0, true, [R.QOS_HSEL_QUEUE, R.QOS_HSEL_KIND]⟩,
  ⟨0x1C180, 16, 0x8, 1, 0x0, false, [R.QOS_HIST_COUNT]⟩,
  ⟨0x1C400, 64, 0x10, 1, 0x0, false, [R.QOS_TCFG_ACC_WEIGHT, R.QOS_TCFG_EGR_WEIGHT, R.QOS_TCFG_ACC_BURST_KIB, R.QOS_TCFG_EGR_BURST_KIB]⟩,
  ⟨0x1C408, 64, 0x10, 1, 0x0, false, [R.QOS_TSTAT_POLICED, R.QOS_TSTAT_REFUSED]⟩]

/-- The block registers of page QOS1. -/
def regsQOS1 : List Rg := [
  ⟨0x1D800, 4, 0x200, 64, 0x8, false, [R.QOS_PS_t1_P_RATE, R.QOS_PS_t1_P_BURST_KIB, R.QOS_PS_t1_S_RATE, R.QOS_PS_t1_S_BURST_KIB, R.QOS_PS_t1_S_RESET]⟩]

/-- The block registers of page QOS2. -/
def regsQOS2 : List Rg := [
  ⟨0x1E800, 4, 0x200, 64, 0x8, false, [R.QOS_PS_t2_P_RATE, R.QOS_PS_t2_P_BURST_KIB, R.QOS_PS_t2_S_RATE, R.QOS_PS_t2_S_BURST_KIB, R.QOS_PS_t2_S_RESET]⟩]

/-- The block registers of page PAR. -/
def regsPAR : List Rg := [
  ⟨0x1A100, 1, 0x0, 1, 0x0, false, [R.PAR_CFG_PAIR_EN, R.PAR_CFG_PARTNER, R.PAR_CFG_SIDE, R.PAR_CFG_ALT_PATH, R.PAR_CFG_HOLD_US, R.PAR_CFG_RESYNC_GBPS]⟩,
  ⟨0x1A108, 1, 0x0, 1, 0x0, false, [R.PAR_PARTNER_STN_STATION]⟩,
  ⟨0x1A110, 1, 0x0, 1, 0x0, true, [R.PAR_CTRL_SET, R.PAR_CTRL_FORCE, R.PAR_CTRL_HANDOVER]⟩,
  ⟨0x1A118, 1, 0x0, 1, 0x0, false, [R.PAR_STATUS_STATE0, R.PAR_STATUS_STATE1, R.PAR_STATUS_PATH, R.PAR_STATUS_LINKED, R.PAR_STATUS_HO_RESULT]⟩,
  ⟨0x1A120, 1, 0x0, 1, 0x0, false, [R.PAR_TERM_TERM0, R.PAR_TERM_TERM1]⟩,
  ⟨0x1A128, 1, 0x0, 1, 0x0, false, [R.PAR_LEASE_AGE0, R.PAR_LEASE_AGE1]⟩,
  ⟨0x1A130, 1, 0x0, 1, 0x0, false, [R.PAR_EPOCH_SENT, R.PAR_EPOCH_ACKED]⟩,
  ⟨0x1A138, 1, 0x0, 1, 0x0, false, [R.PAR_COUNTS_TAKEOVERS, R.PAR_COUNTS_FENCES, R.PAR_COUNTS_STALE_TERM, R.PAR_COUNTS_COPY_DROPS]⟩,
  ⟨0x1A140, 1, 0x0, 1, 0x0, false, [R.PAR_RESYNC_BYTES_LEFT]⟩,
  ⟨0x1A148, 1, 0x0, 1, 0x0, false, [R.PAR_RPG_POS, R.PAR_RPG_LOST, R.PAR_RPG_RP_EN] ++ Fd.rep R.PAR_RPG_MEMBER 5 8⟩,
  ⟨0x1A150, 1, 0x0, 1, 0x0, false, [R.PAR_RPR_D_BASE, R.PAR_RPR_D_UNITS]⟩,
  ⟨0x1A158, 1, 0x0, 1, 0x0, false, [R.PAR_RPP_P_BASE]⟩]

/-- The block registers of page SEC0. -/
def regsSEC0 : List Rg := [
  ⟨0x0B100, 1, 0x0, 1, 0x0, false, [R.SEC_CFG_REKEY_GBS, R.SEC_CFG_DBG_MIN]⟩,
  ⟨0x0B108, 1, 0x0, 1, 0x0, false, [R.SEC_STATUS_DEBUG, R.SEC_STATUS_CLOSE_CAUSE, R.SEC_STATUS_SESSIONS, R.SEC_STATUS_REKEYING]⟩,
  ⟨0x0B110, 1, 0x0, 1, 0x0, false, [R.SEC_COUNTS_BIND_FAIL, R.SEC_COUNTS_UNWRAP_FAIL, R.SEC_COUNTS_CONSENT_FAIL, R.SEC_COUNTS_UNLOCK_FAIL]⟩,
  ⟨0x0B118, 1, 0x0, 1, 0x0, true, [R.SEC_DBG_CTRL_RELOCK]⟩,
  ⟨0x0B180, 6, 0x8, 1, 0x0, false, [R.SEC_OPID_DIGEST]⟩,
  ⟨0x0B1C0, 6, 0x8, 1, 0x0, false, [R.SEC_DBGID_DIGEST]⟩,
  ⟨0x0B200, 6, 0x8, 1, 0x0, false, [R.SEC_DOMID_DIGEST]⟩,
  ⟨0x0B400, 64, 0x10, 1, 0x0, false, [R.SEC_TCFG_AUTOKEY, R.SEC_TCFG_MAX_CONSENTS, R.SEC_TCFG_ROTATE, R.SEC_TCFG_RETIRE]⟩,
  ⟨0x0B408, 64, 0x10, 1, 0x0, false, [R.SEC_TSTAT_STATE, R.SEC_TSTAT_CUR_GEN, R.SEC_TSTAT_PREV_VALID, R.SEC_TSTAT_SWEEP, R.SEC_TSTAT_CONSENTS, R.SEC_TSTAT_ROTATIONS, R.SEC_TSTAT_RETIRE_RESULT]⟩]

/-- The block registers of page SEC1. -/
def regsSEC1 : List Rg := [
  ⟨0x0C100, 64, 0x30, 6, 0x8, false, [R.SEC_TID_DIGEST]⟩]

/-- The block registers of page LMC. -/
def regsLMC : List Rg := [
  ⟨0x03100, 1, 0x0, 1, 0x0, false, [R.LMC_STATUS_LC, R.LMC_STATUS_MEM_UE] ++ Fd.rep R.LMC_STATUS_CORE 4 2⟩,
  ⟨0x03110, 4, 0x8, 1, 0x0, true, [R.LMC_WDT_PERIOD_MS, R.LMC_WDT_STAGE, R.LMC_WDT_KICK]⟩,
  ⟨0x03130, 1, 0x0, 1, 0x0, false, [R.LMC_FW_ACTIVE, R.LMC_FW_A_STATE, R.LMC_FW_B_STATE, R.LMC_FW_SVN, R.LMC_FW_FUSE_SVN, R.LMC_FW_BOOT_RESULT]⟩,
  ⟨0x03138, 1, 0x0, 1, 0x0, true, [R.LMC_FW_CMD_OP, R.LMC_FW_CMD_GO]⟩,
  ⟨0x03140, 1, 0x0, 1, 0x0, false, [R.LMC_FW_CFG_TRIAL_S]⟩,
  ⟨0x03148, 1, 0x0, 1, 0x0, false, [R.LMC_LOG_HEAD, R.LMC_LOG_WRAPS]⟩,
  ⟨0x03150, 1, 0x0, 1, 0x0, false, [R.LMC_LOG_CFG_FLASH_SEV, R.LMC_LOG_CFG_UART_SEV]⟩]

/-- The block registers of page EVC0. -/
def regsEVC0 : List Rg := [
  ⟨0x04100, 1, 0x0, 1, 0x0, true, [R.EVC_GATE_CLOSED]⟩,
  ⟨0x04108, 1, 0x0, 1, 0x0, true, [R.EVC_SWSET_SOURCE]⟩,
  ⟨0x04200, 4, 0x20, 1, 0x0, true, [R.EVC_CORE_THRESH, R.EVC_CORE_MASK, R.EVC_CORE_VBASE]⟩,
  ⟨0x04208, 4, 0x20, 1, 0x0, true, [R.EVC_CLAIM_SOURCE, R.EVC_CLAIM_VALID]⟩,
  ⟨0x04210, 4, 0x20, 1, 0x0, true, [R.EVC_EOI_SOURCE]⟩,
  ⟨0x04300, 16, 0x8, 1, 0x0, true, [R.EVC_HOLDOFF_UNITS]⟩,
  ⟨0x04400, 16, 0x8, 1, 0x0, true, [R.EVC_PEND_BITS]⟩,
  ⟨0x04480, 16, 0x8, 1, 0x0, true, [R.EVC_ACT_BITS]⟩]

/-- The block registers of page EVC1 and the pages like it. -/
def regsEVC1 : List Rg := [
  ⟨0x05800, 256, 0x8, 1, 0x0, true, [R.EVC_SRC_ENABLE, R.EVC_SRC_PRIO, R.EVC_SRC_CORE, R.EVC_SRC_GROUP, R.EVC_SRC_MODE]⟩]

/-- The block registers of page THM. -/
def regsTHM : List Rg := [
  ⟨0x09100, 1, 0x0, 1, 0x0, false, [R.THM_CFG_WARN_C, R.THM_CFG_CRIT_C, R.THM_CFG_HYST_C, R.THM_CFG_V_TOL_PCT]⟩,
  ⟨0x09108, 12, 0x8, 1, 0x0, false, Fd.rep R.THM_TP_TEMP 4 16⟩,
  ⟨0x09168, 4, 0x8, 1, 0x0, false, Fd.rep R.THM_VM_MV 4 16⟩,
  ⟨0x09188, 1, 0x0, 1, 0x0, false, [R.THM_INPUT_VIN_MV, R.THM_INPUT_IIN_MA, R.THM_INPUT_PIN_DW]⟩,
  ⟨0x09190, 1, 0x0, 1, 0x0, false, Fd.rep R.THM_STACK_STACK 8 8⟩]

/-- The block registers of page BST. -/
def regsBST : List Rg := [
  ⟨0x0A100, 1, 0x0, 1, 0x0, true, [R.BST_CTRL_STACKS, R.BST_CTRL_SRAM, R.BST_CTRL_FRONDS, R.BST_CTRL_PATTERN, R.BST_CTRL_GO]⟩,
  ⟨0x0A108, 1, 0x0, 1, 0x0, false, [R.BST_STATUS_STATE, R.BST_STATUS_RESULT, R.BST_STATUS_PROGRESS, R.BST_STATUS_FAILS]⟩,
  ⟨0x0A110, 1, 0x0, 1, 0x0, false, [R.BST_FAIL_KIND, R.BST_FAIL_UNIT, R.BST_FAIL_ADDR, R.BST_FAIL_BIT, R.BST_FAIL_VALID]⟩,
  ⟨0x0A118, 1, 0x0, 1, 0x0, true, [R.BST_PPR_PC, R.BST_PPR_BANK, R.BST_PPR_ROW, R.BST_PPR_RESULT, R.BST_PPR_GO]⟩]

/-- The block registers of page PWR. -/
def regsPWR : List Rg := [
  ⟨0x02100, 1, 0x0, 1, 0x0, false, [R.PWR_CFG_CAP_W, R.PWR_CFG_CAP_HYST_W, R.PWR_CFG_GATE_IDLE_US, R.PWR_CFG_NAP_IDLE_US, R.PWR_CFG_DEEP_EN, R.PWR_CFG_DEEP_PORT, R.PWR_CFG_DEEP_IDLE_MS]⟩,
  ⟨0x02108, 1, 0x0, 1, 0x0, false, [R.PWR_CFG2_PAIR_WAIT_MS, R.PWR_CFG2_READY_MS]⟩,
  ⟨0x02110, 1, 0x0, 1, 0x0, true, [R.PWR_CTRL_SERVICE, R.PWR_CTRL_HANDOVER, R.PWR_CTRL_WAKE, R.PWR_CTRL_KEY, R.PWR_CTRL_RESET]⟩,
  ⟨0x02118, 1, 0x0, 1, 0x0, true, [R.PWR_BOOT_STACKS_OK]⟩,
  ⟨0x02120, 1, 0x0, 1, 0x0, false, [R.PWR_STATUS_PHASE, R.PWR_STATUS_READY, R.PWR_STATUS_GATED, R.PWR_STATUS_NAP_STACKS, R.PWR_STATUS_DEEP, R.PWR_STATUS_LEVEL, R.PWR_STATUS_BUDGET_US]⟩,
  ⟨0x02128, 1, 0x0, 1, 0x0, false, [R.PWR_RAILS_PGOOD, R.PWR_RAILS_FAILED, R.PWR_RAILS_VIN_WARN]⟩,
  ⟨0x02130, 1, 0x0, 1, 0x0, false, [R.PWR_RESET_CAUSE_CAUSE, R.PWR_RESET_CAUSE_RESETS]⟩,
  ⟨0x02138, 1, 0x0, 1, 0x0, false, [R.PWR_COUNTS_SKIPPED, R.PWR_COUNTS_CAP_MS, R.PWR_COUNTS_INPUT_FAULTS]⟩]

/-- The block registers of page GLB0. -/
def regsGLB0 : List Rg := [
  ⟨0x00100, 1, 0x0, 1, 0x0, false, [R.GLB_ID_PART, R.GLB_ID_STEPPING]⟩,
  ⟨0x00108, 1, 0x0, 1, 0x0, true, [R.GLB_CTRL_APPLY_ALL, R.GLB_CTRL_DISCARD_ALL]⟩,
  ⟨0x00110, 1, 0x0, 1, 0x0, false, [R.GLB_STATUS_PENDING_PAGES, R.GLB_STATUS_APPLYING]⟩,
  ⟨0x00118, 1, 0x0, 1, 0x0, false, [R.GLB_CLOG_STATUS_HEAD, R.GLB_CLOG_STATUS_WRAPPED, R.GLB_CLOG_STATUS_TOTAL]⟩,
  ⟨0x00120, 1, 0x0, 1, 0x0, true, [R.GLB_CLOG_CTRL_CLEAR]⟩,
  ⟨0x00200, 8, 0x8, 1, 0x0, false, [R.GLB_EVT_SUM_LINES]⟩]

/-- The block registers of page GLB1. -/
def regsGLB1 : List Rg := [
  ⟨0x01800, 64, 0x20, 1, 0x0, false, [R.GLB_CLOG_0_PAGE, R.GLB_CLOG_0_FIELD, R.GLB_CLOG_0_KIND, R.GLB_CLOG_0_SOURCE]⟩,
  ⟨0x01808, 64, 0x20, 1, 0x0, false, [R.GLB_CLOG_1_FRAME, R.GLB_CLOG_1_FT_CYCLE]⟩,
  ⟨0x01810, 64, 0x20, 1, 0x0, false, [R.GLB_CLOG_2_WRITTEN]⟩,
  ⟨0x01818, 64, 0x20, 1, 0x0, false, [R.GLB_CLOG_3_STORED]⟩]

/-- The block registers of page SLB. -/
def regsSLB : List Rg := [
  ⟨0x11100, 1, 0x0, 1, 0x0, false, [R.SLB_STATUS_LEAD, R.SLB_STATUS_LEAD_START, R.SLB_STATUS_TAGS_PENDING]⟩,
  ⟨0x11108, 1, 0x0, 1, 0x0, false, [R.SLB_QMAX_QMAX]⟩,
  ⟨0x11110, 1, 0x0, 1, 0x0, false, [R.SLB_SKIPS_SKIPS, R.SLB_SKIPS_BOUNDS]⟩]

/-- The common header of every page (Tables 19.2, 19.3), at window offset 0; its events are handled apart (R408). -/
def R.PG_ID : Fd := ⟨0x000, 0, 40, .ro, 0, 0, 0, none⟩
def R.PG_VER : Fd := ⟨0x008, 0, 24, .ro, 0xB00001, 0, 0, none⟩
def R.PG_CTRL_APPLY : Fd := ⟨0x010, 0, 1, .wo, 0, 0, 1, none⟩
def R.PG_CTRL_DISCARD : Fd := ⟨0x010, 1, 1, .wo, 0, 0, 1, none⟩
def R.PG_STATUS_PENDING : Fd := ⟨0x018, 0, 1, .ro, 0, 0, 1, none⟩
def R.PG_STATUS_APPLYING : Fd := ⟨0x018, 1, 1, .ro, 0, 0, 1, none⟩
def R.PG_STATUS_WAITING : Fd := ⟨0x018, 2, 1, .ro, 0, 0, 1, none⟩
def R.PG_STATUS_APPLIES : Fd := ⟨0x018, 3, 32, .ro, 0, 0, 0xFFFFFFFF, none⟩
def R.PG_EVT_STATUS : Fd := ⟨0x020, 0, 64, .w1c, 0, 0, 0xFFFFFFFFFFFFFFFF, none⟩
def R.PG_EVT_ENABLE : Fd := ⟨0x028, 0, 64, .rw, 0, 0, 0xFFFFFFFFFFFFFFFF, none⟩
def R.PG_EVT_FORCE : Fd := ⟨0x030, 0, 64, .wo, 0, 0, 0xFFFFFFFFFFFFFFFF, none⟩
def R.PG_CLAMP_INFO_FIELD : Fd := ⟨0x038, 0, 15, .ro, 0, 0, 0x7FFF, none⟩
def R.PG_CLAMP_INFO_KIND : Fd := ⟨0x038, 15, 4, .ro, 0, 0, 9, none⟩
def R.PG_CLAMP_INFO_COUNT : Fd := ⟨0x038, 32, 16, .rc, 0, 0, 0xFFFF, none⟩
def R.PG_CLAMP_WRITTEN : Fd := ⟨0x040, 0, 64, .ro, 0, 0, 0xFFFFFFFFFFFFFFFF, none⟩
def R.PG_CLAMP_STORED : Fd := ⟨0x048, 0, 64, .ro, 0, 0, 0xFFFFFFFFFFFFFFFF, none⟩
def R.PG_LOCK_LOCK : Fd := ⟨0x050, 0, 1, .rw, 0, 0, 1, none⟩

/-- The registers of the page header (Table 19.2). -/
def regsHeader : List Rg := [
  ⟨0x000, 1, 0, 1, 0, true, [R.PG_ID]⟩,
  ⟨0x008, 1, 0, 1, 0, true, [R.PG_VER]⟩,
  ⟨0x010, 1, 0, 1, 0, true, [R.PG_CTRL_APPLY, R.PG_CTRL_DISCARD]⟩,
  ⟨0x018, 1, 0, 1, 0, true, [R.PG_STATUS_PENDING, R.PG_STATUS_APPLYING, R.PG_STATUS_WAITING, R.PG_STATUS_APPLIES]⟩,
  ⟨0x020, 1, 0, 1, 0, true, [R.PG_EVT_STATUS]⟩,
  ⟨0x028, 1, 0, 1, 0, true, [R.PG_EVT_ENABLE]⟩,
  ⟨0x030, 1, 0, 1, 0, true, [R.PG_EVT_FORCE]⟩,
  ⟨0x038, 1, 0, 1, 0, true, [R.PG_CLAMP_INFO_FIELD, R.PG_CLAMP_INFO_KIND, R.PG_CLAMP_INFO_COUNT]⟩,
  ⟨0x040, 1, 0, 1, 0, true, [R.PG_CLAMP_WRITTEN]⟩,
  ⟨0x048, 1, 0, 1, 0, true, [R.PG_CLAMP_STORED]⟩,
  ⟨0x050, 1, 0, 1, 0, true, [R.PG_LOCK_LOCK]⟩]

/-- Table 19.1: for each page that holds registers, its block prefix, its instance, and the first page of the
block's layout. -/
def pageInfo (p : Nat) : Option (List Char × Nat × Nat) :=
  if p < 2 then some (['G', 'L', 'B'], p, p)
  else if p = 2 then some (['P', 'W', 'R'], 0, 2)
  else if p = 3 then some (['L', 'M', 'C'], 0, 3)
  else if p = 4 then some (['E', 'V', 'C'], 0, 4)
  else if p ≤ 8 then some (['E', 'V', 'C'], p - 4, 5)
  else if p = 9 then some (['T', 'H', 'M'], 0, 9)
  else if p = 10 then some (['B', 'S', 'T'], 0, 10)
  else if p ≤ 12 then some (['S', 'E', 'C'], p - 11, p)
  else if p ≤ 15 then some (['F', 'T', 'M'], p - 13, p)
  else if p = 16 then some (['S', 'E', 'Q'], 0, 16)
  else if p = 17 then some (['S', 'L', 'B'], 0, 17)
  else if p = 18 then some (['F', 'R', 'D'], 0, 18)
  else if p = 19 then some (['X', 'L', 'T'], 0, 19)
  else if p = 20 then some (['A', 'C', 'C'], 0, 20)
  else if p = 21 then some (['D', 'I', 'R'], 0, 21)
  else if p = 22 then some (['P', 'F', 'X'], 0, 22)
  else if p = 23 then some (['S', 'Y', 'N'], 0, 23)
  else if p = 24 then some (['E', 'C', 'C'], 0, 24)
  else if p = 25 then some (['C', 'R', 'C'], 0, 25)
  else if p = 26 then some (['P', 'A', 'R'], 0, 26)
  else if p = 27 then some (['R', 'T', 'E'], 0, 27)
  else if p ≤ 30 then some (['Q', 'O', 'S'], p - 28, p)
  else if p = 31 then none
  else if p ≤ 39 then some (['S', 'M', 'C'], p - 32, 32)
  else if p ≤ 47 then some (['P', 'R', 'T'], p - 40, 40)
  else if p = 48 then some (['P', 'R', 'T'], 8, 48)
  else if p ≤ 57 then some (['L', 'N', 'K'], p - 49, 49)
  else none

/-- The word that `PG_ID` reads on page `p` (Table 19.3). -/
def pgIdWord (p : Nat) : Nat :=
  match pageInfo p with
  | none => 0
  | some (cs, inst, _) =>
    p + leNat (cs.map fun c => BitVec.ofNat 8 c.toNat) * 2 ^ 12 + inst * 2 ^ 36

/-- The block registers of the layout that begins at page `p`. -/
def blockRegs (p : Nat) : List Rg :=
  match p with
  | 0 => regsGLB0 | 1 => regsGLB1 | 2 => regsPWR | 3 => regsLMC | 4 => regsEVC0 | 5 => regsEVC1 | 9 => regsTHM
  | 10 => regsBST | 11 => regsSEC0 | 12 => regsSEC1 | 13 => regsFTM0 | 14 => regsFTM1 | 15 => regsFTM2
  | 16 => regsSEQ | 17 => regsSLB | 18 => regsFRD | 19 => regsXLT | 20 => regsACC | 21 => regsDIR | 22 => regsPFX
  | 23 => regsSYN | 24 => regsECC | 25 => regsCRC | 26 => regsPAR | 27 => regsRTE | 28 => regsQOS0 | 29 => regsQOS1
  | 30 => regsQOS2 | 32 => regsSMC | 40 => regsPRT0 | 48 => regsPRT8 | 49 => regsLNK
  | _ => []

/-- Whether the register array holds page offset `o` (the array's own offset taken within its page). -/
def Rg.covers (r : Rg) (o : Nat) : Bool :=
  let b := r.off % 0x1000
  (List.range r.n1).any fun i => b + i * r.s1 ≤ o ∧
    (o - (b + i * r.s1) = 0 ∨ (r.s2 ≠ 0 ∧ (o - (b + i * r.s1)) % r.s2 = 0 ∧ (o - (b + i * r.s1)) / r.s2 < r.n2))

/-- Whether the offset lies in the registers of a dedicated CRC unit (units 0 to 12), whose fields are RO
(Table 11.13). -/
def crcDedicated (off : Nat) : Bool := 0x19200 ≤ off ∧ off < 0x19540

/-- `CRC_CTRL_u` at reset: ALG and ALIVE_EN of Table 11.7. -/
def crcUnitReset (u : Nat) : Nat := (if u = 3 then 2 else 0) + (if u = 1 ∨ u = 2 then 4 else 0)

/-- The register at a window offset, its fields moved to that offset; none for an offset that no register occupies
(R406). -/
def findReg (off : Nat) : Option Rg :=
  let p := off / 0x1000
  let o := off % 0x1000
  match pageInfo p with
  | none => none
  | some (_, _, first) =>
    match (if o < 0x100 then regsHeader else blockRegs first).find? (fun r => r.covers o) with
    | none => none
    | some r =>
      some { r with
        off := off
        fields := r.fields.map fun f =>
          { f with off := off, acc := if crcDedicated off ∧ f.acc = .rw then .ro else f.acc } }

/-- The event bits of `PG_EVT_STATUS` that a page assigns: the three common ones and the block events that its
chapter names, from bit 8. -/
def evtMask (p : Nat) : Nat :=
  let n := match pageInfo p with
    | none => 0
    | some (_, _, first) =>
      match first with
      | 0 => 1 | 2 => 4 | 3 => 4 | 9 => 3 | 10 => 2 | 11 => 4 | 13 => 4 | 16 => 4 | 17 => 1 | 18 => 4 | 19 => 4
      | 20 => 3 | 21 => 4 | 22 => 4 | 23 => 4 | 24 => 5 | 25 => 2 | 26 => 5 | 27 => 3 | 28 => 2 | 32 => 4 | 40 => 3
      | 49 => 4 | _ => 0
  7 + (2 ^ n - 1) * 256

/-- Reset words that depend on the register's place in its array: templates (Table 3.9), physical fronds
(Table 4.10), cushion and directory ways (Tables 6.9, 7.12), CRC units (Table 11.7), page numbers. -/
def resetSpecial (off : Nat) : Option Nat :=
  if off % 0x1000 = 0 then some (pgIdWord (off / 0x1000))
  else if off = 0xD200 then some 4                                             -- slot 0 REFRESH
  else if off = 0xD210 then some (3 * 2 ^ 32)                                  -- slot 40 CAL
  else if off = 0xD228 then some 2                                             -- slot 80 SCRUB
  else if off = 0xD238 then some (5 * 2 ^ 60)                                  -- slot 127 GUARD
  else if off = 0xD240 then some (64 + 2 ^ 7 + 127 * 2 ^ 15)
  else if 0x12200 ≤ off ∧ off < 0x12400 then some ((off - 0x12200) / 8 * 4)
  else if off = 0x12400 then some (1 + 127 * 4)
  else if 0x12500 ≤ off ∧ off < 0x12540 then
    some (leNat ((List.range 8).map fun i => BitVec.ofNat 8 ((off - 0x12500) + i)))
  else if off = 0x14400 then some (0xFFFF * 2 ^ 11)
  else if off = 0x15400 then some 0xFFF
  else if 0x19200 ≤ off ∧ off < 0x19600 ∧ (off - 0x19200) % 0x40 = 0 then
    some (crcUnitReset ((off - 0x19200) / 0x40))
  else none

/-- The word a register holds at power-up and after a full reset (R409). -/
def resetWord (off : Nat) : Word64 :=
  match resetSpecial off with
  | some w => BitVec.ofNat 64 w
  | none =>
    match findReg off with
    | none => 0
    | some r => BitVec.ofNat 64 (r.fields.foldl (fun a f => a + f.reset * 2 ^ f.lsb) 0)

end Sys2Proof.Machine
end

