-- ==== Sys2Proof/Machine/State.lean ====
section
/-! DEFINITION. The state of the FV8 as plain data: registers, memory and every table, queue, counter, mode and pin
that the spec names, the queue of waiting commands, and `State.reset`, the part as power reaches it. -/

namespace Sys2Proof.Machine

/-- A finite map from numbers: pairs with strictly rising keys. -/
abbrev NMap (α : Type) := List (Nat × α)

/-- Why the machine stops with a fault. No rule of the spec stops the FV8: every command has an effect or none, so
nothing raises a fault, and the type has no constructor (safe: a stop can hide no behaviour). -/
inductive Fault where
  deriving DecidableEq, Repr

/-- Why a command is not run. -/
inductive Refusal where
  /-- Raised by an arm of `exec` whose command has no meaning yet. Safe: the machine stops there. -/
  | notModelled (mnemonic : String)
  deriving DecidableEq, Repr

/-! ### Packets, requests and responses (chapters 6, 12, 14) -/

/-- The path on which a request arrived, and on which its answers leave (R256, R274). -/
inductive Via where
  | ipt                       -- IPT over UDP, on connection `conn`
  | send (qpn : Nat)          -- a SEND on a queue pair (R274)
  | rdma (qpn psn : Nat)      -- an RDMA or atomic request of a queue pair (R272)
  | ring (key : Nat)          -- this device's part, as a member, in a ring operator of another root (R184 to R186)
  deriving DecidableEq, Repr

/-- A request that has arrived: its header fields, the connection's holder and tenant, its operation. -/
structure Req where
  via : Via
  conn : Nat
  holder : Nat
  tenant : Nat
  src : Src
  seq : BitVec 32
  reqId : BitVec 48
  e2e : Bool
  enc : Bool
  fence : Bool
  bodyLen : Nat
  arrived : Nat               -- CK_FT time of arrival
  accepted : Bool             -- ACCEPT has been sent; the completion is a MESSAGE (R267)
  fetched : List Nat          -- granules whose data another device has returned (R330, R340)
  txns : List Nat             -- its open directory transactions: lines whose agent copies have been dealt with (R157)
  waitFrom : Option Nat       -- when it first entered a line's wait list (R156)
  bound : Option Nat          -- the time from which R146 bounds its answer
  checked : Bool              -- its queue-time checks have passed (R29)
  begun : Bool                -- an engine has taken it: it is counted, and goes on after a wait
  turn : Bool                 -- it has waited for write queues, and its turn has come (R209)
  acks : Option Nat           -- the key under which an RDMA WRITE's chunks count the answers they wait for (R18, R124)
  chunk : Option Nat          -- it stands for a chunk of the bulk move with this key (R128)
  op : ReqOp
  ord : Nat                   -- its place in the order of arrival, by the model's numbering of things in progress (R130)
  deriving DecidableEq, Repr

/-- A packet that the FV8 sends (Tables 12.2 and 12.3; R256, R263, R272 to R276, R257): `dst` is the packet whose addresses, DSCP
and PCP it takes. A RoCEv2 packet names its queue pair by the FV8's number, which on the wire is the pair's remote QPN, and
carries P_Key 0xFFFF and its ICRC; a SEND is one message, and takes its
first PSN and its packet number as it leaves. -/
inductive OutPkt where
  | ipt (typ opcode status conn : Nat) (seq : BitVec 32) (reqId : BitVec 48) (credReq credKib : Nat) (aux : Word64)
      (body : List Byte) (crc : Option (BitVec 32)) (enc : Bool) (dst : Src)
  | send (dst : Src) (qpn : Nat) (sent : Option (Nat × Option Nat)) (typ opcode status : Nat) (seq : BitVec 32) (reqId : BitVec 48) (credReq credKib : Nat)
      (aux : Word64) (body : List Byte) (crc : Option (BitVec 32)) (enc : Bool)
  | roceAck (dst : Src) (qpn psn : Nat)
  | roceNak (dst : Src) (qpn psn code : Nat) -- 1 PSN sequence error, 2 Invalid Request, 3 Remote Access, 4 Remote Operational
  | roceRnr (dst : Src) (qpn psn timer : Nat) -- the RNR timer's code
  | roceRead (dst : Src) (qpn psn : Nat) (first last : Bool) (data : List Byte)
  | roceAtomic (dst : Src) (qpn psn : Nat) (old : Word64)
  | arpReply (dst : Src) (ip : BitVec 32) (mac : BitVec 48)
  | neighbourAdvert (dst : Src) (ip : BitVec 128) (mac : BitVec 48)
  | echoReply (dst : Src) (v6 : Bool) (data : List Byte)
  | pfc (prio : Nat) (xoff : Bool)
  deriving DecidableEq, Repr

/-- A sequenced cell in a replay buffer (R282), with its replay count. -/
structure TxCell where
  seq : Nat
  vc : Nat
  head : Bool
  tail : Bool
  payload : List Byte
  tries : Nat
  deriving DecidableEq, Repr

/-- What has left the FV8: on a sub-port, on a ring or symbiont link, on the pair connection, on another management
transport, or as a signal. The model's own log, oldest first. -/
inductive Sent where
  | eth (port sub : Nat) (vlan macsec pn : Option Nat) (p : OutPkt)
  | cell (link : Nat) (c : Cell) (replay : Bool)
  | linkCell (link : Nat) (c : LinkCell)
  | hello (h : Hello)
  | pairRange (op set : Nat) (term index start len : Nat)
  | pairAnswer (op status aux : Nat) (body : List Nat)
  | epoch (set : Nat) (term alive frag nfrag : Nat) (handover base : Bool) (crc : Nat) (entries : List EpochEntry)
  | mirror (set kind term off : Nat) (data : List Byte) (replay : Option EpochEntry)
  | pairRead (set term off granules : Nat)
  | pairData (status : Nat) (data : List Byte)
  | rpUpdate (peer off : Nat) (delta : List Byte)
  | rpRead (peer off : Nat) (parity : Bool)
  | rpWord (status : Nat) (word : List Byte)
  | ringStage (peer tenant kind index : Nat) (words : List Word64)
  | spdm (via : Nat) (code : Nat) (body : List Nat)
  | redfish (status : Nat) (value : Word64)
  | pldm (id : Nat) (values : List Int)
  | uart (b : Byte)
  | trap (core source pc : Nat)
  | accessFault (core addr : Nat)
  | busRead (src : RegSrc) (off : Nat) (value : Word64)
  deriving DecidableEq, Repr

/-- One item of an egress queue (R310). `tenant` none is the control queue; `reqBytes` is set on a RESPONSE or ACCEPT,
which ends its request's hold of receiver credit (R265). -/
structure EgItem where
  port : Nat
  sub : Nat
  tenant : Option Nat
  cost : Nat
  since : Nat
  reqBytes : Option Nat
  boundFrom : Option Nat                 -- arrival of a request that R146 bounds
  pkt : OutPkt
  deriving DecidableEq, Repr

/-- What an access-queue item is (R310, R124): a request held back, a chunk of a MOVE, a later chunk of an RDMA
READ. -/
inductive AccKind where
  | req (r : Req)
  | move (key : Nat)
  | rdma (key : Nat)
  deriving DecidableEq, Repr

/-- One item of a tenant's access queue. -/
structure AccItem where
  key : Nat
  tenant : Nat
  cost : Nat
  since : Nat
  kind : AccKind
  deriving DecidableEq, Repr

/-- The answer to a request: status, AUX and body (Tables 12.3, 12.4); `off` and `detail` are what its fault entry
carries (Table 2.6). -/
structure Ans where
  status : Nat
  aux : Nat
  body : List Byte
  handle : Nat
  off : Nat
  detail : Nat
  deriving DecidableEq, Repr

/-- A request whose answer is ready but waits for events: writes waiting for a full write queue (R209), the
partner's acknowledgement of mirrored records (R18), or the epoch record that carries its entry (R325). -/
structure Parked where
  key : Nat
  req : Req
  ans : Ans
  waits : Nat
  mirror : Bool
  set : Nat
  record : Option Nat
  toAccept : Bool                        -- ACCEPT is what waits (R200)
  deriving DecidableEq, Repr

/-! ### Extents, translation and fault queues (chapter 2) -/

/-- States of an extent index (Table 2.1); FREE is the absence of an entry. -/
inductive XState where
  | opened | closing | closed | quarantined
  deriving DecidableEq, Repr

/-- One entry of the extent table. `parity` is the parity range of a STACK_PARITY extent (R243); start and lengths in
64 KiB units. -/
structure Extent where
  state : XState
  gen : Nat
  start : Nat
  len : Nat
  tenant : Nat
  prot : Nat
  hint : Nat
  coherent : Bool
  trights : Nat
  parity : Option (Nat × Nat)
  deriving DecidableEq, Repr

/-- One TLB entry, keyed by holder and extent index (chapter 2, Translation at queue time); `eng` is the engine, or 24
for the shared second level. -/
structure TlbEntry where
  eng : Nat
  holder : Nat
  index : Nat
  gen : Nat
  start : Nat
  len : Nat
  tenant : Nat
  state : XState
  prot : Nat
  coherent : Bool
  rights : Nat
  deriving DecidableEq, Repr

/-- One fault queue entry (Table 2.6). -/
structure FaultEntry where
  ftCycle : Nat
  frame : Nat
  status : Nat
  opcode : Nat
  holder : Nat
  tenant : Nat
  async : Bool
  handle : Nat
  detail : Nat
  offset : Nat
  deriving DecidableEq, Repr

/-- A fault queue (R39), oldest entry first. -/
structure FaultQ where
  entries : List FaultEntry
  lost : Bool
  overflow : Nat
  deriving DecidableEq, Repr

/-- An extent command that runs (R40): its operation and arguments, and where it waits. -/
structure XltCmd where
  op : Nat
  tenant : Nat
  index : Nat
  arg0 : Word64
  arg1 : Word64
  waitRange : Bool           -- CREATE waits for PAIR_RANGE's answer (R434 step 8)
  waitRecord : Option Nat    -- waits for the epoch record's acknowledgement (R328)
  start : Nat
  named : Nat                -- `XLT_CMD.INDEX` as the command named it (R38)
  deriving DecidableEq, Repr

/-- An INVALIDATE in progress (R34). -/
structure Inval where
  key : Nat
  scope : Nat
  value : Nat
  kill : Bool
  issuedBefore : Nat         -- requests that arrived before this place in the order were queued before step 1
  req : Req
  deriving DecidableEq, Repr

structure Xlt where
  extents : NMap Extent
  gens : NMap Nat                        -- generation of an index that is not in `extents`; absent is 1
  quarantine : List Nat
  grants : NMap Nat                      -- key holder * 2^18 + index
  tlb : List TlbEntry                    -- most recently used first
  cmd : Option XltCmd
  trail : List XltCmd                    -- REVOKEs whose DONE is held back while a later command runs (R40, R328)
  argClamped : Bool                      -- an argument field has recorded a clamp since the previous GO (R40)
  invals : List Inval
  revokes : List (Nat × Option Nat)      -- indices CLOSING in REVOKE order, with the record still to be acknowledged
  revokeDone : List (Nat × Nat)          -- (index, generation), oldest first
  fq : NMap FaultQ
  mfq : FaultQ
  deriving DecidableEq, Repr

/-! ### The frame (chapter 3) -/

/-- A committed window (R8, R57): its call, opening frame and length in frames, extensions included. -/
structure Window where
  call : Nat
  tenant : Nat
  first : Nat
  frames : Nat
  ext : Nat
  deriving DecidableEq, Repr

structure Ftm where
  applyPending : Bool
  acting : NMap Word64                   -- FTM0 and FTM1 words in effect where they differ from reset (R46)
  windows : List Window
  lent : Option Nat                      -- PLANNED slots lent until the next boundary; the lending call's tenant (R9)
  v : Nat
  f : NMap Nat
  prio : Nat
  free : Bool                            -- the latest boundary was a free one (R47)
  due : Option (NMap Word64)             -- words that take effect at the latest boundary, a free one (R46)
  hot : List Nat                         -- stacks above the hot threshold (R49)
  hotNext : List Nat
  temps : NMap Nat                       -- last stack sensor maximum, degrees C
  calPend : List (Nat × Nat)             -- (pseudo-channel, new read latency) awaiting the boundary (R51)
  calDue : List (Nat × Nat)              -- those that the latest boundary has found (R51)
  calCount : NMap Nat                    -- CAL slots run at each pseudo-channel since its last ZQ
  calTotal : NMap Nat
  zqTemp : NMap Nat
  deriving DecidableEq, Repr

/-! ### Stacks (chapters 10 and 11) -/

/-- A granule write in a write queue (R209): its granule number, whether it is conditional (R215), its tenant, the
MOVE that it belongs to (R129), whether it follows a read of the scrubber or the ECC block, so that it issues in SCRUB
slots (Table 3.2), and the key of the answer that waits for it to be here, 0 for none (R123). -/
structure WqEntry where
  g : Nat
  cond : Bool
  tenant : Nat
  move : Option Nat
  scrub : Bool
  key : Nat
  deriving DecidableEq, Repr

/-- A queued ACCESS read. `rmw` marks the read of a partial write, whose write issues in the same slot (R125); `through`
one whose write enters the write queue once it has issued: that of an atomic, or of a parity update (R140, R245); `key` names
the answer that waits for that write, 0 for none (R123). -/
structure RqEntry where
  g : Nat
  since : Nat
  tenant : Nat
  rmw : Bool
  through : Bool
  move : Option Nat
  key : Nat
  deriving DecidableEq, Repr

/-- A command of a planned queue (R211). From its byte `skip` on, the granule holds the bytes from `off` of a move of `len`
bytes; those of a read go to places of kind `kind` (DKIND of Table 5.4) and selector `sel`, whose addresses `addrs` were
formed at issue. -/
structure PlannedCmd where
  g : Nat
  write : Bool
  data : List Byte
  tag : Nat
  entered : Nat                          -- CK_MC cycle of its entry
  kind : Nat
  sel : Nat
  addrs : List Nat
  len : Nat
  off : Nat
  skip : Nat
  deriving DecidableEq, Repr

/-- One pseudo-channel (R203, R205, R209, R211, R221); `state` 0 TRAINING, 1 IN_SERVICE, 2 RETIRED. -/
structure Pc where
  state : Nat
  cause : Nat
  rdLat : Nat
  calFaults : Nat
  wqMax : Nat
  wq : List WqEntry
  rq : List RqEntry
  wqFull : Bool                          -- writes take precedence until WQ_LOW (R209)
  planned : List PlannedCmd
  openRows : NMap Nat                    -- bank to open row
  idleAt : NMap Nat                      -- bank to the time at which its idle timer ends
  lastAct : NMap Nat
  busyTo : NMap Nat                      -- bank to the end of its refresh
  wrTo : NMap Nat                        -- bank to the cycle from which write recovery allows a precharge (R205)
  inserted : List (Nat × Nat × Nat)      -- correcting writebacks due: granule, first cycle of the slot that found it, and
                                         -- the call whose window it belongs to (R54)
  late : Bool                            -- the head of the planned queue is held by a bank that is not ready (R213)
  idle : List Nat                        -- first cycles of the positions that the running slot has left idle (R239, R240)
  idleScrub : Bool                       -- that slot serves as SCRUB, not as ACCESS
  accSlots : Nat                         -- ACCESS slots run
  moveAt : NMap Nat                      -- MOVE to the latest ACCESS slot that it used (R129)
  deriving DecidableEq, Repr

/-- What waits for a write queue (R209, R210): a queue entry of a line or a correction that is on its way to the stack,
or a request, or a chunk of a bulk move or of an RDMA message, that has not taken effect. -/
inductive WaitKind where
  | entry (e : WqEntry)
  | req (r : Req)
  deriving DecidableEq, Repr

/-- A write that found its write queue full, or an older read of its granule not yet issued (R209, R210): the granules
that it writes, and those of them that need a place in a write queue. -/
structure WaitWrite where
  gs : List Nat
  needs : List Nat
  who : WaitKind
  deriving DecidableEq, Repr

structure Smc where
  stackSts : List Nat                     -- state of stacks 0 to 7 (Table 10.7)
  pcs : NMap Pc                          -- absent: as at reset
  trainMs : List Nat
  retiring : List (Nat × Nat)            -- (pseudo-channel, cause) retired by a fault at the next boundary (R221)
  retireNow : List (Nat × Nat)           -- those whose boundary is the latest one
  retireCmd : List Nat                   -- pseudo-channels whose retirement by command awaits a free boundary
  retireDue : List Nat                   -- those whose free boundary is the latest one
  napAt : NMap Nat                       -- stack to the time at which its entry to or exit from self-refresh began
  waits : List WaitWrite
  demand : List Nat                      -- napping stacks that a request waits for (R220)
  heldReads : List RqEntry               -- reads of napping stacks that wait in their engines (R219, R220)
  deriving DecidableEq, Repr

/-- Physical symbol errors of a stored granule: how many symbols, and whether they return after a rewrite
(R225, R229). -/
structure GErr where
  n : Nat
  hard : Bool
  deriving DecidableEq, Repr

/-- Byte memory in canonical form: addresses strictly rising, no entry equal to zero, which an unlisted address
reads as. -/
abbrev Mem := List (Nat × Byte)

/-- A place in an on-chip store whose check bits an error can reach (R63, R237): a 64-bit word of a logical frond's store or
of the slab store, a granule of a cushion line, an entry of the directory, the extent table, the sync objects, the plan
store, the prefix index or a tenant's tables, a request's entry in the queues and the replay cache, the WRITTEN and FULL bits
of a unit, its validity-cache entry, a TLB entry or a grant of a holder, a remap entry, a connection, or a granule's entry in
a write queue. -/
inductive SramCell where
  | units (u : Nat)
  | vcache (u : Nat)
  | tlb (holder index : Nat)
  | grant (holder index : Nat)
  | remap (g : Nat)
  | conn (n : Nat)
  | write (g : Nat)
  | frond (f w : Nat)
  | slab (w : Nat)
  | cush (g : Nat)
  | dir (line : Nat)
  | extent (index : Nat)
  | object (n : Nat)
  | plan (index : Nat)
  | prefixKey (tenant : Nat) (key : BitVec 128)
  | tenant (t : Nat)
  | queued (holder : Nat) (reqId : BitVec 48)
  deriving DecidableEq, Repr

/-- A granule that a planned read found lost and the ECC block is still to handle (R248): the calling tenant, and the handle
and the extent offset that its fault entry carries. -/
structure PlanFault where
  g : Nat
  tenant : Nat
  handle : Nat
  off : Nat
  deriving DecidableEq, Repr

structure Ecc where
  mem : Mem                              -- plaintext of the pool by physical byte address
  gmeta : NMap (BitVec 16)               -- granule number to metadata (Table 11.2); absent is 0
  errs : NMap GErr                       -- granule number to physical errors
  units : NMap Bool                      -- 64 KiB units whose WRITTEN bit is 1, with their FULL bit; absent is empty
  vcache : List (Nat × BitVec 1024)      -- validity cache: mixed units with their map bits, most recent first
  remap : List (Nat × Bool)              -- remapped granules; true when the spare holds a poisoned word
  remapLog : List Nat                    -- granules of new entries not yet read
  ce : NMap Nat                          -- counts per pseudo-channel
  ue : NMap Nat
  hard : NMap Nat
  hardOver : NMap Nat                    -- hard faults that found every remap entry in use (R231)
  lap : NMap Nat                         -- minutes of the last completed pass
  lapFb : NMap Nat
  cursor : NMap Nat                      -- scrub position: granules visited in this pass
  passAt : NMap Nat                      -- time at which the pass began
  verify : List Nat                      -- granules that await a verify read
  recon : List Nat                       -- granules that await reconstruction (R246, R248)
  rebuild : Option Nat                   -- groups visited by the running rebuild, eight to a parity row (R247)
  rowsLeft : Nat
  groupsLost : Nat
  rebuilt : List Nat                     -- granules whose word stands in their group's parity location
  words : NMap (List Byte)               -- stored words of parity granules (R244) and of map granules (R233); absent: zeros
  lostGroups : List Nat                  -- parity granules of groups counted as having lost two members (R246, R247)
  planFaults : List PlanFault            -- entries owed for granules that planned reads found lost (R248)
  sram : List (SramCell × Nat)           -- bits in error in the on-chip stores, where there are any
  deriving DecidableEq, Repr

/-- A general CRC unit's computation in progress, as its GO found the registers (R250). -/
structure CrcUnit where
  alg : Nat
  aliveEn : Bool
  src : Nat
  len : Nat
  expect : Word64
  deriving DecidableEq, Repr

/-! ### The access plane (chapter 6) -/

/-- One cushion line: its line number (device offset over 128), way, tags, and its place by list order (most recent
first). The line's bytes are those of `Ecc.mem`. -/
structure CLine where
  line : Nat
  way : Nat
  tenant : Nat
  index : Nat
  gen : Nat
  dirty : Bool
  pinned : Bool
  deriving DecidableEq, Repr

/-- One replay cache entry (R143): `ans` none while its request is in progress. `expires` is the time at which it
expires once its response has entered the port queue. -/
structure ReplayEntry where
  tenant : Nat
  holder : Nat
  reqId : BitVec 48
  ans : Option Ans
  expires : Option Nat
  partner : Bool                         -- a replay record that came from the partner (R334)
  accepted : Bool                        -- its request was answered by ACCEPT and a MESSAGE (R267)
  set : Nat                              -- the set whose stale mark it advances (R335)
  deriving DecidableEq, Repr

/-- A MOVE in progress (R128): the next row, the bytes of it already moved, and those moved in all. -/
structure Move where
  key : Nat
  req : Req
  srcOff : Nat
  dstOff : Nat
  srcIdx : Nat
  dstIdx : Nat
  row : Nat
  done : Nat
  moved : Nat
  held : Option (List Byte)              -- data of a chunk whose destination lines are being snooped
  issued : Bool                          -- the scheduler has given its next chunk to an engine (R129, R311)
  stop : Option Nat                      -- it ends with this status after the chunk under way (R34, R36)
  fate : Option Ans                      -- set when the MOVE has ended and awaits its completion
  deriving DecidableEq, Repr

/-- The later chunks of an RDMA READ (R124, R307). -/
structure RdmaRead where
  key : Nat
  req : Req
  off : Nat
  left : Nat
  psn : Nat                              -- of the next response packet
  carry : List Byte                      -- data read that does not yet fill a packet
  deriving DecidableEq, Repr

/-- A HINT with PREFETCH that awaits its fills (R141). -/
structure Prefetch where
  key : Nat
  req : Req
  lines : List Nat
  ans : Ans
  deriving DecidableEq, Repr

structure Acc6 where
  lines : List CLine                     -- most recent first
  hints : NMap Nat                       -- 64 KiB unit to hint set by HINT
  pins : NMap Nat                        -- pinned unit to tenant
  replay : List ReplayEntry              -- oldest first
  marks : NMap Nat                       -- 3 * holder + set to the highest REQ_ID whose entry has expired (R144, R335)
  moves : List Move
  rdma : List RdmaRead
  stops : NMap Nat                       -- RDMA messages under way that end with this status behind the chunk under way (R34)
  prefetch : List Prefetch
  sweepLines : Bool                      -- the sweep of R142 has lines left
  srCtr : NMap Nat                       -- Philox evaluations of each atomic unit (R134)
  srSeed : Nat                           -- names the entropy that keyed the units' generators at the latest reset (R134)
  nextKey : Nat
  fences : List (Nat × Req)              -- FENCE requests that wait: (key of the fence, request)
  deriving DecidableEq, Repr

/-! ### Ports and transports (chapter 12) -/

/-- A MESSAGE that awaits MSG_ACK (R267). -/
structure Msg where
  seq : BitVec 32
  sentAt : Nat
  tries : Nat
  pkt : OutPkt
  deriving DecidableEq, Repr

/-- An open IPT connection (R263). -/
structure Conn where
  holder : Nat
  tenant : Nat
  src : Src                              -- addresses of its most recent packet (R256)
  setup : Bool
  session : Option Nat
  txSeq : Nat
  txPn : Nat
  rxHigh : Nat
  rxSeen : List Nat                      -- packet numbers accepted within the last 1,024
  credReq : Nat                          -- most recent advertisement (R265)
  credKib : Nat
  overUs : Option Nat                    -- last microsecond in which OVER_CONTRACT was answered (R307)
  msgs : List Msg
  deriving DecidableEq, Repr

/-- A queue pair (R272, R273). -/
structure Qp where
  conn : Nat
  holder : Nat
  tenant : Nat
  remote : Nat
  ip : BitVec 128
  udp : Nat
  port : Nat                             -- sub-port of the packet that created it
  sub : Nat
  mtu : Nat
  rxPsn : Nat
  txPsn : Nat
  ackTimeout : Nat
  retries : Nat
  rnr : Nat
  error : Bool
  destroying : Bool
  rate : Nat                             -- sending rate, Mb/s
  cutAt : Option Nat
  riseAt : Nat
  unacked : List (Nat × OutPkt)          -- (last PSN, SEND) not yet acknowledged
  tried : Nat
  rnrTried : Nat
  rnrWait : Bool
  sendAt : Nat                           -- time at which its sending rate allows the next packet (R276)
  src : Src                              -- addresses of its most recent packet (R256)
  deriving DecidableEq, Repr

/-- MACsec and pause state of a sub-port (R257, R258). -/
structure SubPort where
  up : Bool
  paused : NMap Nat                      -- priority to the time its pause ends
  xoff : List Nat                        -- priorities for which XOFF has been sent
  txAn : Option Nat
  txPn : Nat
  deriving DecidableEq, Repr

/-- An installed receive SA (R258): the port, the SCI of its channel, its AN and the next packet number it expects. -/
structure RxSa where
  port : Nat
  sci : BitVec 64
  an : BitVec 2
  next : Nat
  deriving DecidableEq, Repr

structure Prt where
  conns : NMap Conn
  qps : NMap Qp
  hcfg : NMap Word64                     -- PRT_HCFG of each holder
  haddr : NMap (BitVec 128)
  tokens : NMap (Nat × Nat)              -- port to (tokens, time of the last gain); absent: full
  resets : NMap Nat                      -- source address to the last microsecond of a RESET
  subs : NMap SubPort                    -- key 4 * port + sub
  tol : NMap Nat                         -- tenant to its statement of R271
  rxSas : List RxSa                      -- installed receive SAs of all ports (R258)
  deriving DecidableEq, Repr

/-! ### Traffic scheduling (chapter 14) -/

/-- A token bucket: tokens in fifths of a byte, and the time they were counted. -/
structure Bucket where
  tok : Nat
  at_ : Nat
  deriving DecidableEq, Repr

structure Qos where
  police : NMap Bucket                   -- key 64 * port + tenant; absent: full
  shape : NMap Bucket
  acq : List AccItem                     -- access queues, oldest first
  egr : List EgItem                      -- egress and control queues, oldest first
  vAcc : Nat
  fAcc : NMap Nat
  sAcc : NMap Nat
  prioAcc : Nat
  vEgr : NMap Nat                        -- by sub-port
  fEgr : NMap Nat                        -- key 64 * sub-port + tenant
  sEgr : NMap Nat
  prioEgr : NMap Nat
  clock : NMap Nat                       -- C_t of R314, key 64 * sub-port + tenant
  hist : NMap Nat                        -- key queue * 32 + kind * 16 + bucket
  sampledAt : Nat
  ctlAt : NMap Nat                       -- sub-port to the time its control queue may send again (R310)
  deriving DecidableEq, Repr

/-! ### Coherence (chapter 7) -/

/-- A membership (R149, R164): `state` 0 member, 1 revoked with its sweep running, 2 revoked and swept. -/
structure Member where
  tenant : Nat
  conn : Nat
  credits : Nat
  state : Nat
  since : Nat
  set : Nat
  deriving DecidableEq, Repr

/-- One directory entry (Table 7.3); `owned` false is SHARED. A FREE entry is no entry. The list order of entries is
their recency, most recent first. -/
structure DirEntry where
  line : Nat
  index : Nat                            -- extent index of the line
  way : Nat
  owned : Bool
  coarse : Bool
  tenant : Nat
  gen : Nat
  ptrs : List Nat
  groups : List Nat
  deriving DecidableEq, Repr

/-- What a transaction is opened for (R154, R157, R161, R167, R36 step 6). -/
inductive TxnKind where
  | rdS | rdX | upg | rdNa
  | acc                                  -- an access-plane operation of R157
  | victim
  | pulling (call : Nat) (out : Bool)
  | revoke
  deriving DecidableEq, Repr

/-- A snoop sent and not yet resolved (R163). -/
structure Snoop where
  agent : Nat
  code : Nat                             -- 0 SNP_S, 1 SNP_I, 2 SNP_CUR
  firstAt : Nat                          -- when it was sent, or would have been sent but for want of a snoop credit
  sent : Bool
  tries : Nat
  needWb : Bool                          -- RSP_MISS_WB has come and the WB has not, or the reverse (R159)
  gotWb : Bool
  deriving DecidableEq, Repr

/-- What a grant carries, kept while granules that it needs are fetched from another device (R330): its kind, the device
bytes to read, whether it carries them, and whether the entry stays when they are poisoned. -/
structure GrantPlan where
  kind : Nat
  addr : Nat
  len : Nat
  withData : Bool
  keep : Bool
  deriving DecidableEq, Repr

/-- An open transaction (R154, R155) and the line that it blocks. -/
structure Txn where
  num : Nat
  kind : TxnKind
  line : Nat
  index : Nat
  req : Option Req
  snoops : List Snoop
  missed : Bool                          -- the recorded owner answered RSP_MISS or wrote back (R158, R159)
  retried : Bool                         -- a snoop of it has been repeated (R163)
  plan : Option GrantPlan                -- its grant waits for granules of another device
  grant : Option (Ans × Nat × Nat)       -- the grant, time of sending, times sent
  opened : Nat
  home : Bool                            -- its snoops are resolved, and data of the line awaits its parity member (R340)
  deriving DecidableEq, Repr

/-- A request in the wait list of a blocked line (R156). -/
structure Waiter where
  line : Nat
  req : Req
  since : Nat
  deriving DecidableEq, Repr

structure Dir where
  members : NMap Member                  -- by holder
  entries : List DirEntry
  txns : List Txn
  waiters : List Waiter                  -- oldest first
  victims : List DirEntry
  revoked : List (Nat × Nat × Nat)       -- (agent, tenant, cause) not yet read
  lostLines : List (Nat × Nat × Nat × Nat) -- (agent, extent index, lines owned, lowest offset) of running sweeps
  evict : Bool                           -- entries outside their tenant's ways are being evicted (R162)
  nextTxn : Nat
  ready : List Req                       -- requests that the step under way has freed to start
  deriving DecidableEq, Repr

/-! ### Lichen pairs (chapter 15) -/

/-- An epoch record sent and not yet acknowledged (R326, R327). -/
structure EpochRec where
  alive : Nat
  frame : Nat
  handover : Bool
  base : Bool
  entries : List EpochEntry
  crc : Nat
  deriving DecidableEq, Repr

/-- This device's part of one set (Table 15.6): `st` 0 NONE, 1 SOLE, 2 HOLDER, 3 FENCED, 4 RESYNC, 5 STANDBY,
6 TAKING. -/
structure ParSet where
  st : Nat
  term : Nat
  renewal : Nat                          -- FTM_FRAME at the latest renewal point or acceptance
  alive : Nat                            -- last stamped, or last accepted, alive counter
  log : List EpochEntry                  -- entries of the running frame
  unacked : List EpochRec
  frags : List EpochFrag
  baseDone : Bool
  handed : Bool                          -- TAKING follows a HANDOVER record, so nothing is lost (R338)
  filling : Bool                         -- the partner is being brought up: base image and copies go to it (R337)
  holdUntil : Option Nat                 -- end of replay retention after a takeover (R334)
  deriving DecidableEq, Repr

/-- A write to a RING_PARITY granule that becomes visible with its parity member's answer (R340). -/
structure RingPut where
  i : Nat
  g : Nat
  data : List Byte
  residual : Bool
  atomic : Bool                          -- that of an atomic or an accumulate (R127)
  move : Option Nat                      -- the MOVE whose chunk it belongs to (R129)
  deriving DecidableEq, Repr

/-- What a request on the pair or a peer connection is for. -/
inductive PeerKind where
  | hello | range | epoch (set alive : Nat) | mirror (park : Nat) | read (park : Nat)
  | rpUpdate (park : Nat) (put : RingPut)
  | rpRead (park : Nat)
  deriving DecidableEq, Repr

/-- A request sent on the pair or a peer connection and not yet answered (R266). -/
structure PeerReq where
  key : Nat
  peer : Nat
  kind : PeerKind
  sentAt : Nat
  tries : Nat
  off : Nat
  msg : Sent
  deriving DecidableEq, Repr

structure Par where
  set0 : ParSet
  set1 : ParSet
  formed : Bool
  alt : Bool
  reqs : List PeerReq
  unsent : List Nat                      -- mirrored records that the symbiont link has no room for, by key (R19)
  peers : List Nat                       -- peer connections that have formed (R299)
  hello : Option Hello                   -- the partner's last HELLO
  resync : NMap (List Nat)               -- set to the granules still to copy (R337)
  heldNotify : List (Nat × Nat × OutPkt) -- (holder, time it is discarded, NOTIFY) (R334)
  ranges : List (Nat × Nat × Nat)        -- ranges reserved here by the partner: index, start, length in units (R321)
  lostExtents : List Nat                 -- CLOSED extents with the LOST mark (R334)
  fetches : List (Nat × Req × Nat)       -- requests that wait for granules from other devices: key, request, answers due
  rpWords : NMap (List Byte)             -- stored words by granule number: parity granules held here, and
                                         -- reconstructed granules of a lost member (R340, R341)
  deriving DecidableEq, Repr

/-! ### Tenants and keys (chapter 16) -/

/-- One tenant (Table 16.2): `st` 0 EMPTY, 1 IDENTIFIED, 2 ADMITTED; key names are opaque. -/
structure Tenant where
  st : Nat
  cur : Nat                              -- name of the CURRENT key
  curGen : Nat
  prev : Option (Nat × Nat)              -- name and generation of PREVIOUS
  switchAt : Option (Nat × Nat)          -- rotation waiting for its boundary: frame, name of the new key
  sweep : Option (NMap Nat)              -- the re-key sweep: pseudo-channel to its next granule number (R352)
  rotations : Nat
  retireResult : Nat
  deriving DecidableEq, Repr

/-- An SPDM session (R353): the requester's leaf key digest when it was mutually authenticated, its transport
(0 IPT, 1 I3C, 2 management port), whether FINISH has completed, and its key update count. -/
structure Session where
  digest : Option (BitVec 384)
  via : Nat
  conn : Nat
  up : Bool
  updates : Nat
  deriving DecidableEq, Repr

structure Sec where
  tenants : NMap Tenant                  -- absent: EMPTY
  sessions : NMap Session
  consents : List Consent
  verifying : List (Nat × Req × Consent) -- registrations whose verification runs (R357)
  rotating : List (Nat × Req)            -- KEY_ROTATE answers of tenants that wait for their boundary (R350)
  debug : Nat                            -- 0 CLOSED, 1 LOCKED, 2 OPEN
  openUntil : Nat
  unlocks : Nat
  jtagOpened : Bool
  nonces : Nat
  rekeyAt : Nat                          -- time at which the sweep may take its next granule
  spdmNext : NMap Nat                    -- next SPDM step by transport: 0 VERSION, 1 CAPABILITIES, 2 ALGORITHMS, 3 any
  deriving DecidableEq, Repr

/-! ### Plans, calls and fronds (chapters 4 and 5) -/

/-- A plan index that is not EMPTY (R107): `st` 1 LOADING, 2 RESIDENT; `spans` are the written byte ranges, disjoint and
rising, as (first, one past the last). -/
structure Plan where
  st : Nat
  tenant : Nat
  image : Mem
  spans : List (Nat × Nat)
  len : Nat
  hash : BitVec 384
  deriving DecidableEq, Repr

/-- A PLAN_COMMIT whose checks run (R108). -/
structure Commit where
  index : Nat
  req : Req
  len : Nat
  alive : Nat
  crc : Nat
  deriving DecidableEq, Repr

/-- An argument slot of an admitted call, translated (R110, R29): `base` is the device address of the extent's first
byte. -/
structure Bind where
  tenant : Nat
  index : Nat
  gen : Nat
  dir : Nat
  cush : Bool
  base : Nat
  off : Nat
  rowLen : Nat
  rows : Nat
  stride : Nat
  deriving DecidableEq, Repr

/-- A call from queue entry to completion (R111 to R116). `foreign` names the grantors of its joint slots. -/
structure CallRec where
  key : Nat
  req : Req
  tenant : Nat
  plan : Nat
  gen : Nat
  callId : Nat
  binds : List Bind
  scalars : List Word64
  foreign : List Nat
  locked : Bool
  committed : Bool
  tested : Bool                          -- a commit point has tested it (R437)
  since : Nat
  emptyUnits : List Nat                  -- units of its ranges that were empty when its lock took effect (R236)
  deriving DecidableEq, Repr

/-- A loop that a sequencer pointer has open (R97, R98). -/
structure LoopSt where
  start : Nat                            -- first body word
  left : Nat                             -- iterations left, the running one included
  live : Nat                             -- live iterations left, the running one included
  while_ : Bool
  binpass : Bool
  deriving DecidableEq, Repr

/-- A sequencer pointer (R100): its next word and its open loops, innermost first. -/
structure Ptr where
  word : Nat
  loops : List LoopSt
  fin : Bool
  deriving DecidableEq, Repr

/-- A result in a unit's pipeline (Table 4.1, Table 5.8). -/
inductive Effect where
  | vreg (f r : Nat) (mask : BitVec 64) (lanes : List (BitVec 32))
  | pred (f : Nat) (mask bits : BitVec 64)
  | store (f addr : Nat) (bytes : List Byte)
  | base (f r v : Nat)
  | arrive (f : Nat) (bytes : List Byte)
  | bbuf (f fmt : Nat) (bytes scales : List Byte)
  | slab (addr : Nat) (bytes : List Byte)
  | tag (t : Nat)
  deriving DecidableEq, Repr

structure Pipe where
  due : Nat                              -- call cycle, slips not counted
  mover : Bool                           -- a mover-port write, applied before unit writes of its cycle (R63)
  eff : Effect
  deriving DecidableEq, Repr

/-- A planned read whose granule is on its way to the stores (R211). -/
structure Landing where
  pc : Nat
  at_ : Nat
  cmd : PlannedCmd
  data : List Byte
  deriving DecidableEq, Repr

/-- A sync-slot operation of the running call (R103): its operand's place and, once it has taken effect, its result. -/
structure SlotOp where
  key : Nat
  obj : Nat
  sop : Nat
  frond : Nat
  addr : Nat
  operand : List Word64
  due : Nat                              -- call cycle in which it is due, slips not counted
  result : Option (List Word64)          -- Q0 to Q7 and the status word, once it has taken effect
  deriving DecidableEq, Repr

/-- One logical frond's state within a call (R61). -/
structure Frond where
  store : Mem
  valid : List Nat                       -- written 256-byte blocks (R64)
  base : List Nat                        -- 16 base registers
  vregs : NMap (List (BitVec 32))
  preds : BitVec 64
  acc : NMap (List (BitVec 32))
  bfmt : Nat
  bbuf : List Byte
  bscale : List Byte
  draw : Nat
  flags : BitVec 16
  arrived : List Byte
  deriving DecidableEq, Repr

/-- The running call, from CALL_START on (R97 to R105). Cycles are call cycles, slips left out. -/
structure Run where
  key : Nat
  cyc : Nat                              -- call cycles issued
  slip : Nat                             -- slipped cycles so far
  leadIn : Nat                           -- cycles that the main pointer still waits: the lead-in, then re-base slips
  stall : Nat                            -- of these, cycles of a re-base slip (R51)
  lead : Nat
  rp : Ptr
  mp : Ptr
  words : Nat                            -- words the main pointer has issued
  tags : NMap Nat                        -- commands and effects not yet landed, by tag
  arR : NMap Nat                         -- read-set AREG, key 16 * mover + register
  arM : NMap Nat
  sarR : NMap Nat
  sarM : NMap Nat
  pipe : List Pipe
  undo : List (Nat × Nat × Nat × List Byte) -- store writes of the last 12 cycles: cycle, frond, address, old bytes
  ops : List SlotOp
  skips : Nat
  passes : Nat
  clamp : Bool
  binOver : Nat
  poisoned : Bool
  leadStart : Nat                        -- the lead at the call's start
  durable : Option (Nat × Nat)           -- set and record of its last change of a DURABLE object (R200)
  inCycle : Bool                         -- a call cycle is under way, which `cyc` does not count yet
  deriving DecidableEq, Repr

structure Seq where
  plans : NMap Plan
  gens : NMap Nat                        -- generation of the last commit at an index
  alive : NMap Nat                       -- last accepted alive counter of each tenant
  commits : List Commit
  calls : List CallRec                   -- in call-queue order, the running one included
  run : Option Run
  fronds : NMap Frond                    -- by logical number
  slab : Mem
  slabValid : List Nat                   -- written 4 KiB blocks
  landings : List Landing
  deriving DecidableEq, Repr

/-- A physical frond (R92): `st` 0 ACTIVE, 1 SPARE, 2 RETIRING, 3 RETIRED; logical 127 none. -/
structure Phys where
  st : Nat
  logical : Nat
  ce : Nat
  ue : Nat
  deriving DecidableEq, Repr

/-! ### The prefix index and arenas (chapter 8) -/

/-- A block that is not FREE (Table 8.1): `st` 1 STAGED, 2 PUBLISHED, 3 RETIRED. -/
structure Block where
  st : Nat
  owner : Nat
  deriving DecidableEq, Repr

/-- One entry of the prefix index. -/
structure PfxEntry where
  tenant : Nat
  key : BitVec 128
  block : Nat
  version : Nat
  stamp : Nat
  deriving DecidableEq, Repr

/-- One pin (R175). -/
structure Pin where
  holder : Nat
  block : Nat
  ends : Nat
  deriving DecidableEq, Repr

/-- A ring operator in progress at the root (R184 to R186): its members' device indices in list order; the finished chunks
that have come, with the element each begins at, and how many elements have been written; its end, once it has come; and
whether its work waits for a write queue or another device. -/
structure RingOp where
  key : Nat
  req : Req
  members : List (Nat × Nat × Nat)       -- device, handle, offset
  started : Nat
  chunks : List (Nat × List Nat)
  done : Nat
  ending : Option (Nat × Nat × List (List Word64))
  busy : Bool
  deriving DecidableEq, Repr

/-- This device's part in a ring operator of another root: the message that asks for it, and whether a list's pointers have
been written and its count word is under way. -/
structure RingPart where
  key : Nat
  msg : RingMsg
  counting : Bool
  deriving DecidableEq, Repr

structure Pfx where
  blocks : NMap Block                    -- by block handle
  entries : List PfxEntry
  pins : List Pin
  stamp : Nat
  ring : List RingOp
  parts : List RingPart
  partEnds : List (Nat × Ans)            -- what the parts have come to, oldest first
  deriving DecidableEq, Repr

/-! ### Synchronisation objects (chapter 9) -/

/-- The state and descriptor of one object (R190). -/
structure SyncObj where
  typ : Nat
  durable : Bool
  faulted : Bool
  full : Bool
  crc : BitVec 32
  w : List Word64
  deriving DecidableEq, Repr

/-- One entry of the waiter table (R196); `q` keeps Q0 and Q1 of a B_ARRIVE or T_TAKE. -/
structure SyncWaiter where
  obj : Nat
  sop : Nat
  req : Req
  a : List Word64
  q : List Word64
  due : Option Nat
  deriving DecidableEq, Repr

structure Syn where
  objs : NMap SyncObj                    -- absent: TYPE NONE
  waiters : List SyncWaiter              -- in registration order
  deriving DecidableEq, Repr

/-! ### Ring and symbiont links (chapter 13) -/

/-- A packet in the device's buffers for an output link: the payloads of its cells that are here and have not left, how many cells
are still to come, and whether its head cell has left (R285). `inLink` 9 is local injection. -/
structure NetPkt where
  out : Nat
  vc : Nat
  inLink : Nat
  inVc : Nat
  hdr : RouteHdr
  cells : List (List Byte)
  left : Nat
  started : Bool
  deriving DecidableEq, Repr

/-- One ring or symbiont link (Table 13.5): `st` 0 DOWN, 1 TRAINING, 2 UP, 3 RETRAIN, 4 MISCABLED. -/
structure Link where
  st : Nat
  since : Nat
  stepDown : Nat
  stepSpeed : Nat
  txSeq : Nat
  rxSeq : Nat
  replay : List TxCell
  ackAt : Nat                            -- when the unacknowledged cells last saw progress
  replayed : Option (Nat × Nat)          -- ACK and time of the latest replay
  nakAt : Option Nat                     -- the receiver waits, and last sent its NAK at this time
  sent : NMap Nat                        -- cells sent, by VC
  known : NMap Nat                       -- freed counts the neighbour has reported
  cred : NMap Nat                        -- credits the neighbour configured
  freed : NMap Nat                       -- cells freed here, by VC
  told : NMap Nat                        -- freed counts reported
  ackTold : Nat
  retVc : Nat
  rx : NMap (RouteHdr × List Byte × Nat) -- packet for this device arriving on a VC: header, payload so far, cells
  req : Nat                              -- own outstanding request: 0 none, 1 RETRAIN, 2 RESET
  lastLink : Nat
  ctl : List (List Byte)                 -- control cells that wait for credit or replay room, oldest first
  rot : Nat                              -- the rotating priorities over VCs and over sources (R286)
  fec : List (Nat × Nat × Nat)           -- of the last 10 ms: time, corrected symbols, uncorrectable codewords (R288)
  deriving DecidableEq, Repr

/-- A message being reassembled (R298). -/
structure Reasm where
  src : Nat
  msgId : Nat
  at_ : Nat
  parts : NMap (List Byte)
  count : Option Nat
  deriving DecidableEq, Repr

structure Net where
  links : NMap Link                      -- absent: as at reset
  queue : List NetPkt                    -- packets on their way to an output link, oldest first
  inbox : List (Nat × Nat × RouteHdr × List Byte) -- whole packets for this device: link, VC, header, data
  lsdb : NMap Nat                        -- device to the four reported link states
  usable : NMap Nat                      -- device to the directions that new packets may use (R300)
  upAt : NMap Nat                        -- key 4 * device + direction: since when it is reported up
  seqs : NMap Nat                        -- origin to the sequence number last applied
  mySeq : Nat
  noticeAt : Nat
  reasm : List Reasm
  msgId : Nat
  rot : Nat
  delivered : List (Nat × List Byte)     -- whole messages delivered: source and bytes
  deriving DecidableEq, Repr

/-! ### Lumyan (chapter 17) -/

/-- An operator slot (R378): role 0 READER, 1 OPERATOR, 2 ADMIN. -/
structure OpSlot where
  digest : BitVec 384
  role : Nat
  enabled : Bool
  deriving DecidableEq, Repr

/-- An image that stands in a flash slot (Table 17.7). -/
structure Image where
  svn : Nat
  load : Nat
  entry : Nat
  body : List Byte
  deriving DecidableEq, Repr

structure Lmc where
  mem : Mem                              -- bytes of the address map of Table 17.1 outside the register window
  mie : NMap Nat                         -- mstatus.MIE of a core where it is 0 (absent: 1)
  pend : List Nat                        -- edge sources pending
  act : List Nat                         -- sources active
  lines : List Nat                       -- sources 516 to 520 whose lines are asserted
  holdoff : NMap Nat                     -- group to the end of its timer
  kicked : NMap Nat                      -- core to the start of its watchdog period
  slots : NMap OpSlot                    -- operator slots
  tls : NMap Nat                         -- open TLS connection to the role it was granted
  images : NMap Image                    -- the image in slot 0 (A) or 1 (B)
  activating : Bool                      -- ACTIVATE has asked for the reset that boots the PENDING slot
  trialAt : Option Nat                   -- start of a trial (R381)
  entry : Nat                            -- address at which the boot ROM started the cores
  former : Nat
  inRecovery : Bool
  keyMade : Bool                         -- device key and certificate fixed
  keyDead : Bool
  idsFixed : Bool                        -- SEC_DBGID_w fixed (R365)
  flashLog : List (List Byte)            -- persistent log summary, oldest first
  fails : List Word64                    -- BST_FAIL records not yet read
  ppr : Option Nat                       -- pseudo-channel of the repair that runs
  uart : List Byte                       -- UART commands taken
  deriving DecidableEq, Repr

structure Thm where
  warned : Bool
  critical : Bool
  volted : Bool
  pin : List Nat                         -- the last ten input power samples, 0.1 W, newest first
  deriving DecidableEq, Repr

/-! ### Power (chapter 18) -/

structure Pwr where
  on : Bool                              -- the power-up sequence has begun and has not ended in OFF
  attempts : Nat                         -- failed attempts of R389
  latched : Bool                         -- OFF until the input is removed and restored
  inputBad : Bool                        -- an input fault, or loss of SYSCLK, is in force
  sysclk : Bool
  faultN : Bool                          -- FAULT_N driven low
  tripN : Bool                           -- THERMTRIP_N driven low
  step1 : Nat                            -- time of step 1 of Table 18.4
  step8 : Option Nat                     -- time of step 8
  cleared : Bool                         -- the clearing of R235 is complete
  timer : Bool                           -- the frame timer runs
  at7 : Nat                              -- milliseconds at L = 7 with the average above the cap
  callAt : Nat                           -- last time a call was queued or running
  accAt : NMap Nat                       -- stack to the time of its last ACCESS command
  gateWake : Option Nat                  -- time at which FROND_GATED ends
  deepExit : Option Nat                  -- time at which the exit from DEEP ends
  resetAt : Option (Nat × Nat)           -- a reset waits for handovers: its cause, and its latest time
  entered : Option Nat                   -- start of the frame at whose boundary the latest state was entered
  deriving DecidableEq, Repr

/-! ### The whole machine -/

structure State where
  pending : List Instr                   -- commands that wait, first in first out
  now : Nat                              -- CK_FT cycles (2 ns) since power-up
  frameStart : Nat                       -- the time at which the running frame began
  freeCtr : Nat                          -- the model's counter behind free values (Config)
  out : List Sent                        -- the model's log of what has left the FV8, oldest first
  regs : NMap Word64                     -- register words in force that differ from their reset word
  held : NMap Word64                     -- held copies of registers with held writes (R410)
  xlt : Xlt
  ftm : Ftm
  smc : Smc
  ecc : Ecc
  crc : NMap CrcUnit
  acc : Acc6
  prt : Prt
  qos : Qos
  parked : List Parked
  dir : Dir
  par : Par
  sec : Sec
  seq : Seq
  frd : NMap Phys                        -- physical fronds that differ from Table 4.10's reset values
  pfx : Pfx
  syn : Syn
  net : Net
  lmc : Lmc
  thm : Thm
  pwr : Pwr
  regWait : List (RegSrc × Nat × Word64) -- direct writes that wait for a block's clock (R415), oldest first
  deriving DecidableEq, Repr

/-- The outcome of a command. -/
abbrev Out := Host.Outcome State Fault Refusal

/-! ### Reset: the part as power reaches it (R397 to R399) -/

/-- A set of a device that has never been paired (Table 15.6: NONE). -/
def resetSet : ParSet := ⟨0, 0, 0, 0, [], [], [], false, false, false, none⟩

def resetXlt : Xlt := ⟨[], [], [], [], [], none, [], false, [], [], [], [], ⟨[], false, 0⟩⟩

def resetFtm : Ftm := ⟨false, [], [], none, 0, [], 0, false, none, [], [], [], [], [], [], [], []⟩

def resetSmc : Smc := ⟨[0, 0, 0, 0, 0, 0, 0, 0], [], [0, 0, 0, 0, 0, 0, 0, 0], [], [], [], [], [], [], [], []⟩

def resetEcc : Ecc := ⟨[], [], [], [], [], [], [], [], [], [], [], [], [], [], [], [], [], none, 0, 0, [], [], [], [], []⟩

def resetAcc : Acc6 := ⟨[], [], [], [], [], [], [], [], [], false, [], 0, 1, []⟩

def resetPrt : Prt := ⟨[], [], [], [], [], [], [], [], []⟩

def resetQos : Qos := ⟨[], [], [], [], 0, [], [], 0, [], [], [], [], [], [], 0, []⟩

def resetDir : Dir := ⟨[], [], [], [], [], [], [], false, 1, []⟩

def resetPar : Par := ⟨resetSet, resetSet, false, false, [], [], [], none, [], [], [], [], [], []⟩

def resetSec : Sec := ⟨[], [], [], [], [], 0, 0, 0, false, 0, 0, []⟩

def resetSeq : Seq := ⟨[], [], [], [], [], none, [], [], [], []⟩

def resetNet : Net := ⟨[], [], [], [], [], [], [], 0, 0, [], 0, 0, []⟩

def resetLmc : Lmc :=
  ⟨[], [], [], [], [], [], [], [], [], [], false, none, 0, 0, false, false, false, false, [], [], none, []⟩

def resetPwr : Pwr :=
  ⟨false, 0, false, false, true, false, false, 0, none, false, false, 0, 0, [], none, none, none, none⟩

/-- Every part at the value that the spec gives for reset; where it gives none, the value that an assumption names. -/
def State.reset : State where
  pending := []
  now := 0
  frameStart := 0
  freeCtr := 0
  out := []
  regs := []
  held := []
  xlt := resetXlt
  ftm := resetFtm
  smc := resetSmc
  ecc := resetEcc
  crc := []
  acc := resetAcc
  prt := resetPrt
  qos := resetQos
  parked := []
  dir := resetDir
  par := resetPar
  sec := resetSec
  seq := resetSeq
  frd := []
  pfx := ⟨[], [], [], 0, [], [], []⟩
  syn := ⟨[], []⟩
  net := resetNet
  lmc := resetLmc
  thm := ⟨false, false, false, []⟩
  pwr := resetPwr
  regWait := []

end Sys2Proof.Machine
end

