-- ==== Sys2Proof/Machine/Ops.lean ====
section
/-! DEFINITION. The named operations over the state that every family uses: finite maps, byte memory, register fields,
counters, events, the clamp record, time, free values. -/

namespace Sys2Proof.Machine

/-! ### Finite maps -/

/-- The value at a key. -/
def mget {α : Type} (m : NMap α) (k : Nat) : Option α :=
  match m with
  | [] => none
  | (k', v) :: t => if k' = k then some v else mget t k

/-- The value at a key, or `d`. -/
def mgetD {α : Type} (m : NMap α) (k : Nat) (d : α) : α := (mget m k).getD d

/-- The map with `v` at `k`, keys rising. -/
def mset {α : Type} (m : NMap α) (k : Nat) (v : α) : NMap α :=
  match m with
  | [] => [(k, v)]
  | (k', v') :: t => if k < k' then (k, v) :: (k', v') :: t else if k = k' then (k, v) :: t else (k', v') :: mset t k v

/-- The map without `k`. -/
def mdel {α : Type} (m : NMap α) (k : Nat) : NMap α := m.filter fun e => e.1 ≠ k

/-- The map with `v` at `k`, where an absent key reads as `d`: storing `d` removes the key. -/
def msetD {α : Type} [DecidableEq α] (m : NMap α) (k : Nat) (v d : α) : NMap α :=
  if v = d then mdel m k else mset m k v

/-- The keys of a map rise strictly. -/
def mwf {α : Type} (m : NMap α) : Bool :=
  match m with
  | [] => true
  | [_] => true
  | a :: b :: t => a.1 < b.1 && mwf (b :: t)

/-! ### Byte memory (R125: what has never been written reads as zero) -/

/-- One byte; an unlisted address reads as zero. -/
def Mem.byte (m : Mem) (a : Nat) : Byte := mgetD m a 0

/-- Store one byte, keeping the canonical form. -/
def Mem.store (m : Mem) (a : Nat) (b : Byte) : Mem := msetD m a b 0

/-- `n` bytes from address `a` upward. -/
def Mem.read (m : Mem) (a n : Nat) : List Byte := (List.range n).map fun i => m.byte (a + i)

/-- Store bytes from address `a` upward. -/
def Mem.write (m : Mem) (a : Nat) (bs : List Byte) : Mem :=
  match bs with
  | [] => m
  | b :: t => Mem.write (m.store a b) (a + 1) t

/-- The canonical form: addresses strictly rising, no zero listed. -/
def Mem.wf (m : Mem) : Bool := mwf m && m.all fun e => e.2 ≠ 0

/-! ### Lists -/

/-- Apply `f` to the elements that satisfy `p`. -/
def mapIf {α : Type} (p : α → Bool) (f : α → α) (l : List α) : List α := l.map fun x => if p x then f x else x

/-- Number the elements of a list. -/
def numbered {α : Type} (l : List α) : List (Nat × α) := (List.range l.length).zip l

/-- Quotient rounded up. -/
def ceilDiv (a b : Nat) : Nat := (a + b - 1) / b

/-- A byte list cut or filled with zeros to `n` bytes. -/
def fitBytes (n : Nat) (bs : List Byte) : List Byte := (bs.take n) ++ List.replicate (n - bs.length) 0

/-! ### Register words and fields (chapter 19) -/

/-- The word in force at a window offset. -/
def State.word (s : State) (off : Nat) : Word64 := mgetD s.regs off (resetWord off)

/-- Put a word in force. -/
def State.setWord (s : State) (off : Nat) (w : Word64) : State :=
  { s with regs := msetD s.regs off w (resetWord off) }

/-- The held word at an offset: the held copy where there is one, else the word in force (R410). -/
def State.heldWord (s : State) (off : Nat) : Word64 := mgetD s.held off (s.word off)

/-- A field's value in force. -/
def State.fld (s : State) (f : Fd) : Nat := bitsOf (s.word f.off).toNat f.lsb f.w

/-- A field's held value. -/
def State.heldFld (s : State) (f : Fd) : Nat := bitsOf (s.heldWord f.off).toNat f.lsb f.w

/-- Put a field's value in force, its low bits. -/
def State.setFld (s : State) (f : Fd) (v : Nat) : State :=
  s.setWord f.off (BitVec.ofNat 64 (setBitsOf (s.word f.off).toNat f.lsb f.w v))

/-- Replace a field of the held copy. -/
def State.setHeldFld (s : State) (f : Fd) (v : Nat) : State :=
  { s with held := mset s.held f.off (BitVec.ofNat 64 (setBitsOf (s.heldWord f.off).toNat f.lsb f.w v)) }

/-- Add to a counter that saturates at its field's largest value. -/
def State.count (s : State) (f : Fd) (n : Nat := 1) : State := s.setFld f (min (s.fld f + n) (2 ^ f.w - 1))

/-- Add to a counter that wraps. -/
def State.countWrap (s : State) (f : Fd) (n : Nat := 1) : State := s.setFld f (s.fld f + n)

/-- Record a largest value seen. -/
def State.countMax (s : State) (f : Fd) (v : Nat) : State := s.setFld f (max (s.fld f) (min v (2 ^ f.w - 1)))

/-- A field of FTM0 or FTM1 as it acts (R46): an applied change acts from its free boundary on. -/
def State.act (s : State) (f : Fd) : Nat := bitsOf (mgetD s.ftm.acting f.off (resetWord f.off)).toNat f.lsb f.w

/-! ### Updating one part of the state -/

/-- Change the part `xlt` of the state. -/
def State.xltUp (s : State) (f : Xlt → Xlt) : State := { s with xlt := f s.xlt }

/-- Change the part `ftm` of the state. -/
def State.ftmUp (s : State) (f : Ftm → Ftm) : State := { s with ftm := f s.ftm }

/-- Change the part `smc` of the state. -/
def State.smcUp (s : State) (f : Smc → Smc) : State := { s with smc := f s.smc }

/-- Change the part `ecc` of the state. -/
def State.eccUp (s : State) (f : Ecc → Ecc) : State := { s with ecc := f s.ecc }

/-- Change the part `acc` of the state. -/
def State.accUp (s : State) (f : Acc6 → Acc6) : State := { s with acc := f s.acc }

/-- Change the part `prt` of the state. -/
def State.prtUp (s : State) (f : Prt → Prt) : State := { s with prt := f s.prt }

/-- Change the part `qos` of the state. -/
def State.qosUp (s : State) (f : Qos → Qos) : State := { s with qos := f s.qos }

/-- Change the part `dir` of the state. -/
def State.dirUp (s : State) (f : Dir → Dir) : State := { s with dir := f s.dir }

/-- Change the part `par` of the state. -/
def State.parUp (s : State) (f : Par → Par) : State := { s with par := f s.par }

/-- Change the part `sec` of the state. -/
def State.secUp (s : State) (f : Sec → Sec) : State := { s with sec := f s.sec }

/-- Change the part `seq` of the state. -/
def State.seqUp (s : State) (f : Seq → Seq) : State := { s with seq := f s.seq }

/-- Change the part `pfx` of the state. -/
def State.pfxUp (s : State) (f : Pfx → Pfx) : State := { s with pfx := f s.pfx }

/-- Change the part `syn` of the state. -/
def State.synUp (s : State) (f : Syn → Syn) : State := { s with syn := f s.syn }

/-- Change the part `net` of the state. -/
def State.netUp (s : State) (f : Net → Net) : State := { s with net := f s.net }

/-- Change the part `lmc` of the state. -/
def State.lmcUp (s : State) (f : Lmc → Lmc) : State := { s with lmc := f s.lmc }

/-- Change the part `thm` of the state. -/
def State.thmUp (s : State) (f : Thm → Thm) : State := { s with thm := f s.thm }

/-- Change the part `pwr` of the state. -/
def State.pwrUp (s : State) (f : Pwr → Pwr) : State := { s with pwr := f s.pwr }

/-! ### Events (R408) -/

/-- Raise event `bit` of a page. -/
def State.raise (s : State) (page bit : Nat) : State :=
  let off := page * 0x1000 + 0x20
  s.setWord off (s.word off ||| BitVec.ofNat 64 (2 ^ bit))

/-- The event line of a page: any bit of `PG_EVT_STATUS` AND `PG_EVT_ENABLE` (R408). -/
def State.evtLine (s : State) (page : Nat) : Bool :=
  (s.word (page * 0x1000 + 0x20) &&& s.word (page * 0x1000 + 0x28)) ≠ 0

/-! ### Time and free values -/

/-- CK_FT cycles in a microsecond. -/
def usCycles : Nat := 500

/-- CK_FT cycles in a frame (R41). -/
def frameCycles : Nat := 1920

/-- `FTM_FRAME`: frames since power-up. -/
def State.frame (s : State) : Nat := s.fld R.FTM_FRAME_FRAME

/-- Move time forward to `t`, never back. -/
def State.toTime (s : State) (t : Nat) : State := { s with now := max s.now t }

/-- Whole microseconds from now until `t`, rounded up and at least 1 (R262). -/
def State.usUntil (s : State) (t : Nat) : Nat := max 1 (ceilDiv (t - s.now) usCycles)

/-- Advance the counter behind the free values. -/
def State.tick (s : State) : State := { s with freeCtr := s.freeCtr + 1 }

/-- Append to the log of what has left the FV8. -/
def State.emit (s : State) (x : Sent) : State := { s with out := s.out ++ [x] }

/-! ### Check bits of the on-chip stores (R63, R237) -/

/-- Bits in error at a place. -/
def State.sramBits (s : State) (c : SramCell) : Nat := ((s.ecc.sram.find? fun e => e.1 = c).map (·.2)).getD 0

/-- The places in `p` hold new words, or corrected ones. -/
def State.sramDrop (s : State) (p : SramCell → Bool) : State :=
  if s.ecc.sram = [] then s else s.eccUp fun e => { e with sram := e.sram.filter fun x => !p x.1 }

/-! ### Clamp records (R411, R417) -/

/-- Store clamp record words in the log of GLB1 and advance HEAD (R417). -/
def clogPush (s : State) (page field kind source : Nat) (written stored : Word64) : State :=
  let h := s.fld R.GLB_CLOG_STATUS_HEAD
  let total := s.fld R.GLB_CLOG_STATUS_TOTAL
  let base := 0x1800 + 0x20 * h
  let s := s.setWord base (BitVec.ofNat 64 (page % 4096 + field * 2 ^ 12 + kind * 2 ^ 27 + source * 2 ^ 31))
  let s := s.setWord (base + 8) (BitVec.ofNat 64 (s.frame + (s.now - s.frameStart) % frameCycles * 2 ^ 53))
  let s := s.setWord (base + 16) written
  let s := s.setWord (base + 24) stored
  let s := s.setFld R.GLB_CLOG_STATUS_HEAD ((h + 1) % 64)
  let s := s.setFld R.GLB_CLOG_STATUS_TOTAL (min (total + 1) 0xFFFFFFFF)
  if 64 ≤ total ∧ s.fld R.GLB_CLOG_STATUS_WRAPPED = 0 then
    (s.setFld R.GLB_CLOG_STATUS_WRAPPED 1).raise 0 8
  else s

/-- Who a clamp record names as its source: a core, the in-band path, or APPLY (Table 19.8). -/
def srcCode : RegSrc → Nat
  | .core n => n % 4
  | .inband => 4

/-- Record a clamp: the page's clamp registers, its CLAMP event, and the clamp log (R411). For a stray write outside
every page of Table 19.1 only the log is written (R406). -/
def recordClamp (s : State) (page fieldNo kind source : Nat) (written stored : Word64) : State :=
  let s := clogPush s page fieldNo kind source written stored
  if (pageInfo page).isNone then s else
  let b := page * 0x1000
  let s := s.setFld (R.PG_CLAMP_INFO_FIELD.at b) fieldNo
  let s := s.setFld (R.PG_CLAMP_INFO_KIND.at b) kind
  let s := s.count (R.PG_CLAMP_INFO_COUNT.at b)
  let s := s.setWord (b + 0x40) written
  let s := s.setWord (b + 0x48) stored
  s.raise page 0

/-- The FIELD number of a clamp record: (offset within the page ÷ 8) × 64 + lowest bit (Table 19.3). -/
def fieldNo (f : Fd) : Nat := f.off % 0x1000 / 8 * 64 + f.lsb

/-! ### Power and mode views used everywhere -/

/-- Whether the stacks' and schedulers' mode in effect is strict (R46, `FTM_CTRL.MODE`). -/
def State.strict (s : State) : Bool := s.act R.FTM_CTRL_MODE = 1

/-- The device is in service (`PWR_STATUS.PHASE` SERVICE, R398). -/
def State.inService (s : State) : Bool := s.fld R.PWR_STATUS_PHASE = 4

/-- DEEP is in force. -/
def State.deep (s : State) : Bool := s.fld R.PWR_STATUS_DEEP = 1

/-- Σ ACC_WEIGHT over all tenants. -/
def State.accWeight (s : State) (t : Nat) : Nat := s.fld (R.QOS_TCFG_ACC_WEIGHT.at (0x10 * t))

/-- EGR_WEIGHT of a tenant. -/
def State.egrWeight (s : State) (t : Nat) : Nat := s.fld (R.QOS_TCFG_EGR_WEIGHT.at (0x10 * t))

/-- The sum of `w` over the 64 tenants. -/
def sumTenants (w : Nat → Nat) : Nat := ((List.range 64).map w).sum

/-- A tenant's share of a table in strict mode (R363): ⌊total × ACC_WEIGHT ÷ Σ ACC_WEIGHT⌋, at least 1. -/
def State.strictShare (s : State) (total t : Nat) : Nat :=
  max 1 (total * s.accWeight t / sumTenants s.accWeight)

/-- A tenant finds a table of the directory full: the table itself, or in strict mode its share of it (R363). -/
def State.tableFull (s : State) (total used own t : Nat) : Bool :=
  total ≤ used || (s.strict && s.strictShare total t ≤ own)

/-! ### The weighted sequence of strict mode (R314) -/

/-- The first index of the largest element of a list, the elements at which `ok` is false left out. -/
def maxAt (ok : Nat → Bool) (l : List Int) : Nat :=
  ((l.foldl (fun (acc : Nat × Option (Nat × Int)) x =>
    (acc.1 + 1, match acc.2 with
      | some (i, m) => if ok acc.1 ∧ m < x then some (acc.1, x) else some (i, m)
      | none => if ok acc.1 then some (acc.1, x) else none)) (0, none)).2.map (·.1)).getD 64

/-- `n` steps of smooth weighted round-robin over weights: each step adds its weight to every tenant's counter, takes the
tenant with the largest, the lowest number first, and takes the total from it. -/
def wrrGo (w : List Nat) (total : Nat) : Nat → List Int → List Nat
  | 0, _ => []
  | n + 1, cur =>
    let cur := List.zipWith (fun (a : Int) (b : Nat) => a + b) cur w
    let t := maxAt (fun i => w.getD i 0 ≠ 0) cur
    t :: wrrGo w total n (cur.set t (cur.getD t 0 - total))

/-- The sequence of 256 turns over the ACC_WEIGHT of every tenant; 64, no tenant, where every weight is 0. -/
def State.wrrSeq (s : State) : List Nat :=
  let w := (List.range 64).map s.accWeight
  wrrGo w w.sum 256 (List.replicate 64 0)

end Sys2Proof.Machine
end

