-- ==== Sys2Proof/Machine/Code.lean ====
section
/-! DEFINITION. The granule code (R225, R227): the Reed–Solomon code RS(72,66) over GF(2^8) with field polynomial
x^8 + x^4 + x^3 + x^2 + 1 and generator roots α^0 to α^5, its check symbols and its decoder for up to two symbol errors. The
spec does not say which byte holds which coefficient; the model lays byte i on x^(71 - i) (entry 55). -/

namespace Sys2Proof.Machine

/-! ### The field -/

/-- The product by α = 0x02. -/
def gfTwice (a : Nat) : Nat := if a < 128 then 2 * a else (2 * a) ^^^ 0x11D

/-- The product of two symbols. -/
def gfMul (a b : Nat) : Nat :=
  (List.range 8).foldr (fun i acc => gfTwice acc ^^^ (if b.testBit i then a else 0)) 0

/-- The powers of α from `a` on. -/
def gfRun (a : Nat) : Nat → List Nat
  | 0 => []
  | n + 1 => a :: gfRun (gfTwice a) n

/-- The inverse of a symbol other than 0: its 254th power. -/
def gfInv (a : Nat) : Nat := ((List.range 254).foldl (fun x _ => gfMul x a) 1)

/-! ### Encoding -/

/-- A polynomial, highest coefficient first, times x + r. -/
def timesRoot (p : List Nat) (r : Nat) : List Nat :=
  List.zipWith (· ^^^ ·) (p ++ [0]) (0 :: p.map (gfMul r))

/-- The generator polynomial without its leading 1. -/
def rsGen : List Nat := ((gfRun 1 6).foldl timesRoot [1]).drop 1

/-- One step of the division by the generator: the remainder so far and the next symbol. -/
def rsStep (rem : List Nat) (d : Nat) : List Nat :=
  let f := rem.headD 0 ^^^ d
  List.zipWith (· ^^^ ·) (rem.drop 1 ++ [0]) (rsGen.map (gfMul f))

/-- The six check symbols of a word's first 66 bytes. -/
def rsChecks (bs : List Byte) : List Byte :=
  (bs.foldl (fun rem b => rsStep rem b.toNat) (List.replicate 6 0)).map fun x => BitVec.ofNat 8 x

/-- The 72-byte word of 66 bytes (Table 11.1). -/
def rsWord (bs : List Byte) : List Byte := bs ++ rsChecks bs

/-! ### Decoding -/

/-- The word's value as a polynomial at `x`. -/
def rsEval (w : List Byte) (x : Nat) : Nat := w.foldl (fun acc b => gfMul acc x ^^^ b.toNat) 0

/-- The six syndromes. -/
def rsSyndromes (w : List Byte) : List Nat := (gfRun 1 6).map (rsEval w)

/-- The word with symbol `i` changed by `e`. -/
def flipByte (w : List Byte) (i e : Nat) : List Byte := w.set i (w.getD i 0 ^^^ BitVec.ofNat 8 e)

/-- The corrections of at most two symbols whose syndromes are given: (position, value), none when there are no such. A
recurrence of order one or two fixes the locators, and the last syndromes check it. -/
def rsLocate (s : List Nat) : Option (List (Nat × Nat)) :=
  let at_ := fun (i : Nat) => s.getD i 0
  if s.all (· = 0) then some []
  else
    let locs := numbered (gfRun 1 72)
    match locs.find? fun e => at_ 0 ≠ 0 && (List.range 5).all fun i => gfMul (at_ i) e.2 = at_ (i + 1) with
    | some e => some [(71 - e.1, at_ 0)]
    | none =>
      let det := gfMul (at_ 1) (at_ 1) ^^^ gfMul (at_ 0) (at_ 2)
      if det = 0 then none
      else
        let inv := gfInv det
        let a := gfMul inv (gfMul (at_ 1) (at_ 2) ^^^ gfMul (at_ 0) (at_ 3))
        let b := gfMul inv (gfMul (at_ 1) (at_ 3) ^^^ gfMul (at_ 2) (at_ 2))
        if (List.range 2).any fun i => at_ (i + 4) ≠ gfMul a (at_ (i + 3)) ^^^ gfMul b (at_ (i + 2)) then none
        else
          match locs.filter fun e => gfMul e.2 (e.2 ^^^ a) = b with
          | [x, y] =>
            let v := gfMul (gfInv (x.2 ^^^ y.2)) (at_ 1 ^^^ gfMul y.2 (at_ 0))
            some [(71 - x.1, v), (71 - y.1, v ^^^ at_ 0)]
          | _ => none

/-- The word with up to two symbol errors corrected; none when it is uncorrectable. -/
def rsDecode (w : List Byte) : Option (List Byte) :=
  (rsLocate (rsSyndromes w)).map fun l => l.foldl (fun w e => flipByte w e.1 e.2) w

end Sys2Proof.Machine
end

