-- ==== Sys2Proof/Machine/Wire.lean ====
section
/-! DEFINITION. What IPT puts on the wire: status codes (Table 0.4), opcodes and request bodies (Table 12.3), the CRC
algorithms of Table 11.6, and which requests are replay-cached (R143). -/

namespace Sys2Proof.Machine

/-! ### Status codes (Table 0.4) -/

def Status.ok : Nat := 0x00
def Status.retryAfter : Nat := 0x01
def Status.notHolder : Nat := 0x02
def Status.notReady : Nat := 0x03
def Status.noRights : Nat := 0x04
def Status.unmapped : Nat := 0x05
def Status.revoked : Nat := 0x06
def Status.poisoned : Nat := 0x07
def Status.exists_ : Nat := 0x08
def Status.conflict : Nat := 0x09
def Status.overContract : Nat := 0x0A
def Status.membershipLost : Nat := 0x0B
def Status.busyLine : Nat := 0x0C
def Status.binOverflow : Nat := 0x0D
def Status.callFault : Nat := 0x0E
def Status.internalError : Nat := 0x0F

/-- The statuses whose completion places a fault entry (R38). -/
def Status.faults (st : Nat) : Bool :=
  st = 4 || st = 5 || st = 6 || st = 7 || st = 0xB || st = 0xD || st = 0xE || st = 0xF

/-- The statuses that report that nothing was executed, and are not cached (R143). -/
def Status.uncached (st : Nat) : Bool := st = 0xA || st = 1 || st = 3 || st = 2 || st = 0xC

/-! ### CRC algorithms (R249, Table 11.6) -/

/-- One step of a reflected CRC register: the low bit goes out. -/
def crcBitR {w : Nat} (poly r : BitVec w) : BitVec w := if r.getLsbD 0 then (r >>> 1) ^^^ poly else r >>> 1

/-- One step of an unreflected CRC register: the high bit goes out. -/
def crcBit {w : Nat} (poly r : BitVec w) : BitVec w := if r.getMsbD 0 then (r <<< 1) ^^^ poly else r <<< 1

/-- `n` steps of a function. -/
def iter {α : Type} (n : Nat) (f : α → α) (x : α) : α :=
  match n with
  | 0 => x
  | k + 1 => iter k f (f x)

/-- A reflected CRC over bytes: `poly` is the reversed polynomial. -/
def crcR {w : Nat} (poly init : BitVec w) (bs : List Byte) : BitVec w :=
  bs.foldl (fun r b => iter 8 (crcBitR poly) (r ^^^ b.setWidth w)) init

/-- An unreflected CRC over bytes, `w` at least 8. -/
def crcN {w : Nat} (poly init : BitVec w) (bs : List Byte) : BitVec w :=
  bs.foldl (fun r b => let x : BitVec w := b.setWidth w; iter 8 (crcBit poly) (r ^^^ (x <<< (w - 8)))) init

/-- CRC-32C: polynomial 0x1EDC_6F41, reflected. -/
def crc32c (bs : List Byte) : BitVec 32 := crcR (0x82F63B78 : BitVec 32) 0xFFFFFFFF bs ^^^ 0xFFFFFFFF

/-- CRC-32 of IEEE 802.3: polynomial 0x04C1_1DB7, reflected. -/
def crc32 (bs : List Byte) : BitVec 32 := crcR (0xEDB88320 : BitVec 32) 0xFFFFFFFF bs ^^^ 0xFFFFFFFF

/-- CRC-64/ECMA-182. -/
def crc64 (bs : List Byte) : BitVec 64 := crcN (0x42F0E1EBA9EA3693 : BitVec 64) 0 bs

/-- CRC-16/CCITT. -/
def crc16 (bs : List Byte) : BitVec 16 := crcN (0x1021 : BitVec 16) 0xFFFF bs

/-- The algorithm of code `alg` (Table 11.6), as a number. -/
def crcAlg (alg : Nat) (bs : List Byte) : Nat :=
  match alg with
  | 0 => (crc32c bs).toNat
  | 1 => (crc32 bs).toNat
  | 2 => (crc64 bs).toNat
  | _ => (crc16 bs).toNat

end Sys2Proof.Machine

namespace Sys2Proof

open Machine

/-! ### Opcodes and bodies (R261, Table 12.3) -/

/-- The opcode of a request. -/
def ReqOp.code : ReqOp → Nat
  | .read _ => 0x01 | .write _ _ => 0x02 | .swap _ _ => 0x03 | .cas _ _ _ => 0x04 | .fetchAdd _ _ => 0x05
  | .fetchAnd _ _ => 0x06 | .fetchOr _ _ => 0x07 | .fetchXor _ _ => 0x08 | .fetchSmin _ _ => 0x09
  | .fetchSmax _ _ => 0x0A | .fetchUmin _ _ => 0x0B | .fetchUmax _ _ => 0x0C | .accum _ _ => 0x0D
  | .accumRc _ _ _ => 0x0E | .move _ _ _ _ _ _ => 0x0F | .hint _ _ => 0x10 | .fence => 0x11
  | .rdS _ => 0x20 | .rdX _ => 0x21 | .upg _ => 0x22 | .rdNa _ => 0x23 | .wb _ _ => 0x24
  | .cohJoin _ => 0x25 | .cohLeave => 0x26 | .kvAlloc _ => 0x40 | .kvFree _ _ => 0x41 | .publish _ _ _ => 0x42
  | .republish _ _ _ _ => 0x43 | .unpublish _ _ => 0x44 | .lookup _ => 0x45 | .unpin _ => 0x46
  | .ringReduce _ _ _ _ _ _ _ _ => 0x47 | .ringRoute _ _ => 0x48 | .call _ => 0x50 | .planLoad _ _ _ => 0x51
  | .planCommit _ _ _ _ => 0x52 | .planUnload _ => 0x53 | .sync _ _ => 0x58 | .invalidate _ _ _ => 0x60
  | .faultPop _ => 0x61 | .latencyTol _ => 0x62 | .qpCreate _ => 0x63 | .qpDestroy _ => 0x64 | .spdm _ => 0x68
  | .sessionBind _ => 0x69 | .undefined c => c.toNat

/-- The little-endian bytes of a bit vector (fields in a body are bytes of pool memory, R260). -/
def bvBytes {w : Nat} (n : Nat) (v : BitVec w) : List Byte := leBytes n v.toNat

/-- The 16 bytes of an address block. -/
def Addr.bytes (a : Addr) : List Byte := bvBytes 4 a.handle ++ bvBytes 4 a.length ++ bvBytes 8 a.offset

def bit01 (b : Bool) (v : Nat) : Nat := if b then v else 0

/-- The fields of a request's body, in the order of Table 12.3. An SPDM message and an undefined opcode have none: their bodies are
what `Pkt.tail` holds. -/
def ReqOp.body : ReqOp → List Byte
  | .read a | .rdS a | .rdX a | .upg a | .rdNa a => a.bytes
  | .write a d | .wb a d => a.bytes ++ d
  | .swap a x | .fetchAdd a x | .fetchAnd a x | .fetchOr a x | .fetchXor a x | .fetchSmin a x | .fetchSmax a x
  | .fetchUmin a x | .fetchUmax a x | .accum a x => a.bytes ++ x
  | .cas a c w => a.bytes ++ c ++ w
  | .accumRc a sh x => a.bytes ++ sh.bytes ++ x
  | .move sr ds rl rows ss dss =>
    sr.bytes ++ ds.bytes ++ bvBytes 4 rl ++ bvBytes 4 rows ++ bvBytes 8 ss ++ bvBytes 8 dss
  | .hint a b => a.bytes ++ [b]
  | .fence | .cohLeave => []
  | .cohJoin c => bvBytes 2 c
  | .kvAlloc h => bvBytes 4 h
  | .kvFree h b => bvBytes 4 h ++ bvBytes 4 b
  | .publish h b k => bvBytes 4 h ++ bvBytes 4 b ++ bvBytes 16 k
  | .republish h b k v => bvBytes 4 h ++ bvBytes 4 b ++ bvBytes 16 k ++ bvBytes 4 v
  | .unpublish k v => bvBytes 16 k ++ bvBytes 4 v
  | .lookup k => bvBytes 16 k
  | .unpin b => bvBytes 4 b
  | .ringReduce l e mx sc ez bl sa d =>
    l.bytes ++ bvBytes 4 e ++ [BitVec.ofNat 8 (bit01 mx 1), BitVec.ofNat 8 (bit01 sc 1 + bit01 ez 2), 0, 0] ++
      bvBytes 4 bl ++ sa.bytes ++ d.bytes
  | .ringRoute p t => p.bytes ++ t.bytes
  | .call c =>
    bvBytes 4 c.plan ++ bvBytes 4 c.callId ++ [c.nslots, c.nscalars, BitVec.ofNat 8 (bit01 c.joint 1), 0] ++
      (c.slots.flatMap fun x => [x.tenant, 0, 0, 0] ++ bvBytes 4 x.handle ++ bvBytes 8 x.offset ++
        bvBytes 4 x.rowLen ++ bvBytes 4 x.rows ++ bvBytes 8 x.stride) ++
      c.scalars.flatMap (bvBytes 8)
  | .planLoad i o ch => bvBytes 2 i ++ leBytes 2 (ch.length - 1) ++ bvBytes 4 o ++ ch
  | .planCommit i al len crc => bvBytes 2 i ++ bvBytes 2 al ++ bvBytes 4 len ++ bvBytes 4 crc
  | .planUnload i => bvBytes 2 i
  | .sync sop x =>
    [sop, BitVec.ofNat 8 (bit01 x.wait 1)] ++ bvBytes 2 x.timeout ++ bvBytes 2 x.obj ++ [0, 0] ++
      fitBytes 64 (x.a.flatMap (bvBytes 8))
  | .invalidate sc k v => [sc, BitVec.ofNat 8 (bit01 k 1), 0, 0] ++ bvBytes 4 v
  | .faultPop c => [BitVec.ofNat 8 (bit01 c 1)]
  | .latencyTol u => bvBytes 4 u
  | .qpCreate q =>
    bvBytes 4 q.remoteQpn ++ bvBytes 16 q.remoteIp ++ bvBytes 2 q.udp ++ [q.mtu, 0] ++ bvBytes 4 q.recvPsn ++
      bvBytes 4 q.sendPsn ++ [q.ackTimeout, q.retries, q.rnrRetries, 0]
  | .qpDestroy q => bvBytes 4 q
  | .spdm _ => []
  | .sessionBind v => bvBytes 4 v
  | .undefined _ => []

/-- The bytes of a request's body on the wire: behind the fields of its opcode those that the packet has beyond them; an SPDM
message and an undefined opcode have no fields (R252, R260). -/
def ReqOp.wire (op : ReqOp) (tail : List Byte) : List Byte :=
  match op with
  | .spdm _ | .undefined _ => tail
  | op => op.body ++ tail

/-- Bytes that a READ-like request asks for: LENGTH holds the number less 1 (R261). -/
def Addr.rwLen (a : Addr) : Nat := bitsOf a.length.toNat 0 12 + 1

/-- The address blocks of a request, in the order in which its ranges are checked (R32). -/
def ReqOp.firstAddr : ReqOp → Option Addr
  | .read a | .write a _ | .swap a _ | .cas a _ _ | .fetchAdd a _ | .fetchAnd a _ | .fetchOr a _ | .fetchXor a _
  | .fetchSmin a _ | .fetchSmax a _ | .fetchUmin a _ | .fetchUmax a _ | .accum a _ | .accumRc a _ _
  | .move a _ _ _ _ _ | .hint a _ | .rdS a | .rdX a | .upg a | .rdNa a | .wb a _ | .ringReduce a _ _ _ _ _ _ _
  | .ringRoute a _ => some a
  | .kvAlloc h | .kvFree h _ | .publish h _ _ | .republish h _ _ _ => some ⟨h, 0, 0⟩
  | _ => none

/-- The operations of the SYNC table that change an object (Table 9.2): SOP 3 to 12 and INIT. -/
def sopChanges (sop : Nat) : Bool := (3 ≤ sop && sop ≤ 12) || sop = 16

/-- Requests that are replay-cached (Table 6.1, R143, R177, R186, R192). -/
def ReqOp.cached : ReqOp → Bool
  | .swap _ _ | .cas _ _ _ | .fetchAdd _ _ | .fetchAnd _ _ | .fetchOr _ _ | .fetchXor _ _ | .fetchSmin _ _
  | .fetchSmax _ _ | .fetchUmin _ _ | .fetchUmax _ _ | .accum _ _ | .accumRc _ _ _ | .move _ _ _ _ _ _ => true
  | .kvAlloc _ | .kvFree _ _ | .publish _ _ _ | .republish _ _ _ _ | .unpublish _ _ => true
  | .ringReduce _ _ _ _ _ _ _ _ | .ringRoute _ _ => true
  | .call _ | .planCommit _ _ _ _ | .faultPop _ => true
  | .sync sop _ => sopChanges sop.toNat
  | _ => false

/-- The ingress cost of an IPT request whose body has `len` bytes (Table 14.1). -/
def ReqOp.cost (op : ReqOp) (len : Nat) : Nat :=
  match op with
  | .read a => 64 + len + a.rwLen
  | .rdNa a => 64 + len + (bitsOf a.length.toNat 0 7 + 1)
  | .rdS _ | .rdX _ => 64 + len + 128
  | _ => 64 + len

end Sys2Proof

namespace Sys2Proof.Machine

/-! ### CRC units (R250, R251) -/

/-- A unit compares a computed value with an expected one: both are shown, and a mismatch is counted and raised. -/
def State.crcCompare (s : State) (u expect result : Nat) : State :=
  let d := 0x40 * u
  let s := s.setWord (0x19208 + d) (BitVec.ofNat 64 expect)
  let s := s.setWord (0x19210 + d) (BitVec.ofNat 64 result)
  if expect = result then s else (s.count (R.CRC_STAT_MISMATCH.at d)).raise 25 8

/-- A unit checks an alive counter against the last accepted one: the flag tells whether it is accepted. -/
def aliveAccepts (last n : Nat) : Bool := n % 65536 = (last + 1) % 65536

/-- A rejected alive counter is counted and raised (R251). -/
def State.aliveReject (s : State) (u : Nat) : State := (s.count (R.CRC_STAT_ALIVE_REJ.at (0x40 * u))).raise 25 9

/-- The egress cost of a packet (Table 14.1): 64 B and its body or payload. -/
def egressCost (bodyLen : Nat) : Nat := 64 + bodyLen

end Sys2Proof.Machine
end

