-- ==== Sys2Proof/Machine/PairBase.lean ====
section
/-! DEFINITION. What every family needs of the lichen pair: which set a thing belongs to, whether this device serves it,
the log of the running frame's epoch record, and requests sent on the pair and peer connections (chapter 15). -/

namespace Sys2Proof.Machine

/-- Pairing is enabled (R320). -/
def State.paired (s : State) : Bool := s.fld R.PAR_CFG_PAIR_EN = 1

/-- One of the two sets. -/
def State.pset (s : State) (k : Nat) : ParSet := if k = 0 then s.par.set0 else s.par.set1

def State.setPset (s : State) (k : Nat) (p : ParSet) : State :=
  if k = 0 then { s with par := { s.par with set0 := p } } else { s with par := { s.par with set1 := p } }

/-- The set of an extent index: bit 17 (R320). -/
def setOfIndex (i : Nat) : Nat := i / 2 ^ 17 % 2

/-- The set of a sync object: bit 15 (R320). -/
def setOfObj (o : Nat) : Nat := o / 2 ^ 15 % 2

/-- This device holds the set: always when pairing is off, else in SOLE and HOLDER (R320, Table 15.6). -/
def State.holds (s : State) (k : Nat) : Bool := !s.paired || (s.pset k).st = 1 || (s.pset k).st = 2

/-- The set is in TAKING at this device (R334). -/
def State.taking (s : State) (k : Nat) : Bool := s.paired && (s.pset k).st = 6

/-- The set has a standby that answers its records. -/
def State.standby (s : State) (k : Nat) : Bool := s.paired && (s.pset k).st = 2

/-- The set's changes must reach the partner: from the base image on, while this device holds it (R324, R337). -/
def State.logs (s : State) (k : Nat) : Bool := s.paired && s.par.formed && ((s.pset k).st = 1 || (s.pset k).st = 2)

/-- Append an entry to the running frame's record of set `k`. -/
def State.logEntry (s : State) (k : Nat) (e : EpochEntry) : State :=
  if s.logs k then let p := s.pset k; s.setPset k { p with log := p.log ++ [e] } else s

/-- The units of an entry (Table 15.3). -/
def entryUnits : EpochEntry → Nat
  | .extent .. => 2 | .grant .. => 1 | .dir .. => 1 | .member .. => 1 | .sync .. => 3 | .waiter .. => 3
  | .replay _ _ _ _ _ body => min 4 (1 + ceilDiv body.length 32) | .mark .. => 1 | .pfx .. => 2 | .pin .. => 1
  | .block .. => 1

/-- The units of the running frame's record (R325). -/
def recordUnits (l : List EpochEntry) : Nat := (l.map entryUnits).sum

/-- Units that a record holds at most (R325). -/
def State.recordLimit (s : State) : Nat := if s.par.alt then 2048 else 16384

/-- The records that entries fill, one at least. -/
def recordsOf (limit : Nat) (l : List EpochEntry) : Nat :=
  (l.foldl (fun (acc : Nat × Nat) e =>
    if acc.2 + entryUnits e ≤ limit then (acc.1, acc.2 + entryUnits e) else (acc.1 + 1, entryUnits e)) (1, 0)).1

/-- The alive counter of the record that will carry the last change of set `k` that the running frame has seen: the next
one, or, behind a base image of several records, the last of them (R324, R325, R337). -/
def State.nextRecord (s : State) (k : Nat) : Nat := (s.pset k).alive + recordsOf s.recordLimit (s.pset k).log

/-- A formed pair whose records of set `k` the partner acknowledges: the set has a standby, or its base image is under way
(R200, R337). -/
def State.recorded (s : State) (k : Nat) : Bool :=
  s.standby k || (s.paired && s.par.formed && (s.pset k).st = 1 && (s.pset k).filling)

/-- Give the next free key of the model's own numbering of things in progress. -/
def State.newKey (s : State) : Nat × State :=
  (s.acc.nextKey, { s with acc := { s.acc with nextKey := s.acc.nextKey + 1 } })

/-- Remember a request on the pair or a peer connection until it is answered (R266). -/
def State.peerOwe (s : State) (peer : Nat) (kind : PeerKind) (off : Nat) (msg : Sent) : State :=
  let (k, s) := s.newKey
  { s with par := { s.par with reqs := s.par.reqs ++ [⟨k, peer, kind, s.now, 0, off, msg⟩] } }

/-- Send a request on the pair or a peer connection and remember it until it is answered (R266). Peer 256 is the
partner on the pair connection. -/
def State.peerSend (s : State) (peer : Nat) (kind : PeerKind) (off : Nat) (msg : Sent) : State :=
  (s.peerOwe peer kind off msg).emit msg

/-- The cells of a mirrored record on the symbiont link (R297): route header, IPT header, packet number, tag, MIRROR's fields,
and its data and replay entry. -/
def recordCells (data : List Byte) (replay : Option EpochEntry) : Nat :=
  ceilDiv (16 + 32 + 8 + 16 + 16 + data.length + 32 * (match replay with | some e => entryUnits e | none => 0)) 248

/-- The cells of a request, when it is a mirrored record. -/
def PeerReq.cells (q : PeerReq) : Nat :=
  match q.kind, q.msg with
  | .mirror _, .mirror _ _ _ _ data replay => recordCells data replay
  | _, _ => 0

/-- The symbiont link is UP. -/
def State.symbiontUp (s : State) : Bool := match mget s.net.links 8 with | some l => l.st = 2 | none => false

/-- The symbiont link takes a mirrored record of `n` cells: it is UP, and its VC 0 has credit for the record beside those
that await the partner's answer. Over the ring links nothing bounds it (R19, R322). DESIGN CHOICE (entry 65): the cells of
an answered record count as freed. -/
def State.mirrorRoom (s : State) (n : Nat) : Bool :=
  s.par.alt ||
    match mget s.net.links 8 with
    | some l => l.st = 2 && ((s.par.reqs.filter fun q => !s.par.unsent.contains q.key).map PeerReq.cells).sum + n ≤ mgetD l.cred 0 0
    | none => false

/-- Send held mirrored records, oldest first, while the symbiont link takes them (R19). -/
def State.drainMirrors (s : State) : List Nat → State
  | [] => { s with par := { s.par with unsent := [] } }
  | k :: t =>
    match s.par.reqs.find? fun q => q.key = k with
    | none => s.drainMirrors t
    | some q =>
      if s.mirrorRoom q.cells then
        let s : State := { s with par := { s.par with
          unsent := t, reqs := mapIf (fun y => y.key = k) (fun y => { y with sentAt := s.now }) s.par.reqs } }
        (s.emit q.msg).drainMirrors t
      else { s with par := { s.par with unsent := k :: t } }

/-- Send what the symbiont link takes of the mirrored records that wait for it. -/
def State.mirrorDrain (s : State) : State := if s.par.formed then s.drainMirrors s.par.unsent else s

/-- Send a mirrored record to the partner once the symbiont link takes it, behind those that wait, and remember it until it
is answered. -/
def State.mirrorOut (s : State) (park off : Nat) (msg : Sent) : State :=
  let key := s.acc.nextKey
  let s := s.peerOwe 256 (.mirror park) off msg
  ({ s with par := { s.par with unsent := s.par.unsent ++ [key] } } : State).mirrorDrain

/-- The peer number that stands for the partner on the pair connection. -/
def partnerPeer : Nat := 256

end Sys2Proof.Machine
end

