-- ==== Sys2Proof/Machine/Respond.lean ====
section
/-! DEFINITION. Completing requests: fault queues (R38, R39), egress queues and their finish tags (R310, R311),
MESSAGEs (R267), RoCEv2 outcomes (Table 12.5), the replay cache's record (R143), and parked answers. -/

namespace Sys2Proof.Machine

/-! ### Egress queues (R310, R311) -/

def subKey (port sub : Nat) : Nat := 4 * port + sub

/-- The tag arithmetic of R311: the start and finish tags of an item of cost `c` that reaches the head of a queue with
finish tag `f`, when virtual time is `v`; `fresh` when the queue was empty, `b` its credit limit in bytes. -/
def headTags (v f b w c : Nat) (fresh : Bool) : Nat × Nat :=
  let st := if fresh then max f (v - b * 256 / w) else f
  (st, st + c * 256 / w)

/-- Credit limit B_q of a tenant's egress queues: taken as 0 in strict mode (R314). -/
def State.egrCredit (s : State) (t : Nat) : Nat :=
  if s.strict then 0 else s.fld (R.QOS_TCFG_EGR_BURST_KIB.at (0x10 * t)) * 1024

/-- Tag the head of an egress queue. -/
def State.egHead (s : State) (sk t cost : Nat) (fresh : Bool) : State :=
  let q := 64 * sk + t
  let (st, fi) := headTags (mgetD s.qos.vEgr sk 0) (mgetD s.qos.fEgr q 0) (s.egrCredit t) (s.egrWeight t) cost fresh
  { s with qos := { s.qos with sEgr := mset s.qos.sEgr q st, fEgr := mset s.qos.fEgr q fi } }

/-- Whether an egress item belongs to the queue of tenant `t` at a sub-port (`none`: its control queue). -/
def EgItem.inQueue (e : EgItem) (port sub : Nat) (t : Option Nat) : Bool :=
  e.port = port && e.sub = sub && e.tenant = t

/-- Put a packet into an egress queue. -/
def State.egPush (s : State) (port sub : Nat) (t : Option Nat) (reqBytes bound : Option Nat) (bodyLen : Nat)
    (pkt : OutPkt) : State :=
  let fresh := !(s.qos.egr.any fun e => e.inQueue port sub t)
  let cost := egressCost bodyLen
  let s := { s with qos := { s.qos with egr := s.qos.egr ++ [⟨port, sub, t, cost, s.now, reqBytes, bound, pkt⟩] } }
  match t with
  | none => s
  | some t => if fresh then s.egHead (subKey port sub) t cost true else s

/-- An item leaves its egress queue without being sent; the item behind it, if any, comes to the head. -/
def State.egTake (s : State) (e : EgItem) : State :=
  let mine := fun (y : EgItem) => y.inQueue e.port e.sub e.tenant
  let head := s.qos.egr.find? mine = some e
  let s : State := { s with qos := { s.qos with egr := s.qos.egr.erase e } }
  match e.tenant, s.qos.egr.find? mine with
  | some t, some y => if head then s.egHead (subKey e.port e.sub) t y.cost false else s
  | _, _ => s

/-- The egress items that satisfy `p` go unsent. -/
def State.egDrop (s : State) (p : EgItem → Bool) : State := (s.qos.egr.filter p).foldl (fun s e => s.egTake e) s

/-! ### Access queues (R310, R311) -/

/-- Credit limit B_q of a tenant's access queue. -/
def State.accCredit (s : State) (t : Nat) : Nat :=
  if s.strict then 0 else s.fld (R.QOS_TCFG_ACC_BURST_KIB.at (0x10 * t)) * 1024

/-- Tag the head of an access queue. -/
def State.acqHead (s : State) (t cost : Nat) (fresh : Bool) : State :=
  let (st, fi) := headTags s.qos.vAcc (mgetD s.qos.fAcc t 0) (s.accCredit t) (s.accWeight t) cost fresh
  { s with qos := { s.qos with sAcc := mset s.qos.sAcc t st, fAcc := mset s.qos.fAcc t fi } }

/-- Put an item into its tenant's access queue. -/
def State.acqPush (s : State) (x : AccItem) : State :=
  let fresh := !(s.qos.acq.any fun y => y.tenant = x.tenant)
  let s : State := { s with qos := { s.qos with acq := s.qos.acq ++ [x] } }
  if fresh then s.acqHead x.tenant x.cost true else s

/-- An item leaves its tenant's access queue; the item behind it, if any, comes to the head. -/
def State.acqTake (s : State) (x : AccItem) : State :=
  let head := match s.qos.acq.find? (fun y => y.tenant = x.tenant) with | some y => y.key = x.key | none => false
  let s : State := { s with qos := { s.qos with acq := s.qos.acq.erase x } }
  if !head then s
  else match s.qos.acq.find? (fun y => y.tenant = x.tenant) with
    | some y => s.acqHead y.tenant y.cost false
    | none => s

/-! ### Connections and MESSAGEs -/

/-- An open connection. -/
def State.conn (s : State) (c : Nat) : Option Conn := mget s.prt.conns c

def State.setConn (s : State) (c : Nat) (x : Conn) : State :=
  { s with prt := { s.prt with conns := mset s.prt.conns c x } }

/-- The lowest-numbered open connection of a holder (R39, R334). DESIGN CHOICE (entry 66): one that is still in SETUP is none. -/
def State.connOf (s : State) (holder : Nat) : Option Nat :=
  (s.prt.conns.find? fun e => e.2.holder = holder && !e.2.setup).map (·.1)

/-- Send a MESSAGE on a connection; it is kept for resending until MSG_ACK (R267), unless it is a snoop, which DIR
repeats itself (R163). -/
def State.message (s : State) (c opcode status : Nat) (reqId : BitVec 48) (aux : Word64) (body : List Byte)
    (e2e keep : Bool) (bound : Option Nat := none) : State :=
  match s.conn c with
  | none => s
  | some x =>
    let seq := BitVec.ofNat 32 x.txSeq
    let crc := if e2e then some (crc32c body) else none
    let pkt := OutPkt.ipt 2 opcode status c seq reqId 0 0 aux body crc x.session.isSome x.src
    let msgs := if keep then x.msgs ++ [⟨seq, s.now, 0, pkt⟩] else x.msgs
    let s := s.setConn c { x with txSeq := x.txSeq + 1, msgs := msgs }
    s.egPush x.src.port x.src.sub (some x.tenant) none bound body.length pkt

/-! ### Fault queues (R38, R39) -/

/-- Put an entry into a fault queue, or count it as lost (R39). -/
def FaultQ.push (q : FaultQ) (e : FaultEntry) : FaultQ :=
  if q.entries.length < 1024 then { q with entries := q.entries ++ [e] }
  else { q with lost := true, overflow := min (q.overflow + 1) 0xFFFFFFFF }

def emptyFq : FaultQ := ⟨[], false, 0⟩

def State.fq (s : State) (t : Nat) : FaultQ := mgetD s.xlt.fq t emptyFq

/-- Put an entry into the management fault queue (R38). -/
def State.mgmtFault (s : State) (e : FaultEntry) : State :=
  let s : State := { s with xlt := { s.xlt with mfq := s.xlt.mfq.push e } }
  s.raise 19 10

/-- Place a tenant's fault entry: its queue, the NOTIFY of an empty queue that fills (R39), and the management copy
with HANDLE and OFFSET zero (R38). DESIGN CHOICE (entry 66): the copy is placed also where the tenant's queue is full and
discards the entry. -/
def State.tenantFault (s : State) (e : FaultEntry) : State :=
  let q := s.fq e.tenant
  let s := { s with xlt := { s.xlt with fq := mset s.xlt.fq e.tenant (q.push e) } }
  let cfg := 0x10 * e.tenant
  let s := if q.entries = [] ∧ s.fld (R.XLT_TCFG_FAULT_NOTIFY.at cfg) = 1 then
      match s.connOf (s.fld (R.XLT_TCFG_FAULT_AGENT.at cfg)) with
      | none => s
      | some c => s.message c 0x59 0 0 0 [1] false true
    else s
  s.mgmtFault { e with handle := 0, offset := 0 }

/-- An asynchronous fault charged to a tenant (R38). -/
def State.asyncFault (s : State) (tenant status handle offset detail : Nat) : State :=
  s.tenantFault ⟨(s.now - s.frameStart) % frameCycles, s.frame, status, 0xFF, 0, tenant, true, handle, detail, offset⟩

/-- The fault entry of a completed request. -/
def State.reqFault (s : State) (r : Req) (a : Ans) : State :=
  s.tenantFault ⟨(s.now - s.frameStart) % frameCycles, s.frame, a.status, r.op.code, r.holder, r.tenant, false,
    a.handle, a.detail % 2 ^ 32, a.off % 2 ^ 40⟩

/-! ### Answers -/

/-- The plain answer to an operation: the handle and offset of its first range stand in the fault entry. -/
def mkAns (op : ReqOp) (status : Nat) (aux : Nat := 0) (body : List Byte := []) : Ans :=
  match op.firstAddr with
  | some a => ⟨status, aux, body, a.handle.toNat, a.offset.toNat, 0⟩
  | none => ⟨status, aux, body, 0, 0, 0⟩

/-- UNMAPPED or POISONED at a carried offset of operand `n` (Table 12.4). -/
def carriedAns (status handle off n : Nat) : Ans := ⟨status, off % 2 ^ 40 + n * 2 ^ 40, [], handle, off, n⟩

/-- The replay cache's key for a request beside its tenant: holder and REQ_ID, or, for a RoCEv2 atomic, its queue pair
and PSN under numbers that no holder has (R143, R145). -/
def Req.keyHolder (r : Req) : Nat := match r.via with | .rdma _ _ => 4096 + r.holder | _ => r.holder

/-- See `Req.keyHolder`. -/
def Req.keyId (r : Req) : BitVec 48 :=
  match r.via with
  | .rdma qpn psn => BitVec.ofNat 48 (qpn * 2 ^ 24 + psn)
  | _ => r.reqId

/-- A held request and another record of it: one that waits for several lines stands in a transaction of each. -/
def Req.same (a b : Req) : Bool := a.via = b.via && a.conn = b.conn && a.seq = b.seq && a.reqId = b.reqId

/-- Record the answer of a replay-cached request: codes that report that nothing was executed free the entry, any
other answer is kept for 64 µs (R143). -/
def State.replayDone (s : State) (r : Req) (a : Ans) : State :=
  let mine := fun (e : ReplayEntry) => e.tenant = r.tenant && e.holder = r.keyHolder && e.reqId = r.keyId && e.ans.isNone
  if Status.uncached a.status then
    { s with acc := { s.acc with replay := s.acc.replay.filter fun e => !mine e } }
  else
    { s with acc := { s.acc with
        replay := mapIf mine (fun e => { e with
          ans := some a, expires := some (s.now + 64 * usCycles), accepted := r.accepted }) s.acc.replay } }

/-- The requests that Table 6.5 excludes from the response bound. -/
def ReqOp.unbound : ReqOp → Bool
  | .move .. | .fence | .call _ | .planCommit .. | .invalidate .. | .ringReduce .. | .ringRoute .. => true
  | _ => false

/-- An access-queue item is a request or a chunk of the queue pair (R132). -/
def State.ofQp (s : State) (qpn : Nat) (x : AccItem) : Bool :=
  let mine := fun (r : Req) => match r.via with | .rdma q _ => q = qpn | _ => false
  match x.kind with
  | .req r => mine r
  | .rdma k => s.acc.rdma.any fun y => y.key = k && mine y.req
  | .move _ => false

/-- The waiting requests of a queue pair, and the rest of its RDMA READs, go without an answer. -/
def State.qpFlush (s : State) (qpn : Nat) : State :=
  let s := (s.qos.acq.filter (s.ofQp qpn)).foldl (fun s x => s.acqTake x) s
  { s with acc := { s.acc with rdma := s.acc.rdma.filter fun y =>
      match y.req.via with | .rdma q _ => q ≠ qpn | _ => true } }

/-- Change a queue pair. -/
def State.qpUp (s : State) (qpn : Nat) (f : Qp → Qp) : State :=
  { s with prt := { s.prt with qps := (match mget s.prt.qps qpn with
      | none => s.prt.qps
      | some q => mset s.prt.qps qpn (f q)) } }

/-- Take a queue pair to the error state: its requests go without an answer, and its completions are discarded (R272, R274). -/
def State.qpError (s : State) (qpn : Nat) : State :=
  let s := (s.qpUp qpn fun q => { q with error := true, unacked := [], rnrWait := false }).qpFlush qpn
  s.egDrop fun e => match e.pkt with | .send _ n .. => n = qpn | _ => false

/-- The path MTU of a queue pair, in bytes. -/
def State.mtuOf (s : State) (qpn : Nat) : Nat := match mget s.prt.qps qpn with | some q => 128 * 2 ^ q.mtu | none => 4096

/-- Packets of a message of `n` bytes. -/
def packetCount (mtu n : Nat) : Nat := max 1 (ceilDiv n mtu)

/-- Send `n` read-response packets of a message from `psn` on (R272). -/
def State.readPackets (s : State) (r : Req) (qpn psn mtu n : Nat) (first last : Bool) (bs : List Byte) : State :=
  (List.range n).foldl (fun s i =>
    let d := (bs.drop (mtu * i)).take mtu
    s.egPush r.src.port r.src.sub (some r.tenant) none none d.length
      (.roceRead r.src qpn ((psn + i) % 2 ^ 24) (first && i = 0) (last && i + 1 = n) d)) s

/-- Data of an RDMA READ, whole or a chunk of it: packets leave in offset order, filled to the path MTU across chunks, and
the next chunk waits in the access queue (R124, R307). -/
def State.roceRead (s : State) (r : Req) (qpn psn : Nat) (bs : List Byte) : State :=
  let mtu := s.mtuOf qpn
  match s.acc.rdma.find? fun x => x.req.via = r.via with
  | none => s.readPackets r qpn psn mtu (packetCount mtu bs.length) true true bs
  | some x =>
    let bs := x.carry ++ bs
    let first := x.psn = psn
    if x.left = 0 then
      let s : State := { s with acc := { s.acc with rdma := s.acc.rdma.erase x } }
      s.readPackets r qpn x.psn mtu (packetCount mtu bs.length) first true bs
    else
      let n := bs.length / mtu
      let y := { x with psn := (x.psn + n) % 2 ^ 24, carry := bs.drop (mtu * n) }
      let s : State := { s with acc := { s.acc with rdma := mapIf (fun z => z.key = x.key) (fun _ => y) s.acc.rdma } }
      let s := s.readPackets r qpn x.psn mtu n first false bs
      s.acqPush ⟨x.key, r.tenant, 4096, s.now, .rdma x.key⟩

/-- The RNR NAK timers in rising order: code and time in µs. PRESUMED from the InfiniBand Architecture, which the spec does not
restate (entry 73). -/
def rnrTimers : List (Nat × Nat) :=
  [(1, 10), (2, 20), (3, 30), (4, 40), (5, 60), (6, 80), (7, 120), (8, 160), (9, 240), (10, 320), (11, 480), (12, 640), (13, 960),
   (14, 1280), (15, 1920), (16, 2560), (17, 3840), (18, 5120), (19, 7680), (20, 10240), (21, 15360), (22, 20480), (23, 30720),
   (24, 40960), (25, 61440), (26, 81920), (27, 122880), (28, 163840), (29, 245760), (30, 327680), (31, 491520), (0, 655360)]

/-- The smallest RNR timer at or above a hint (Table 12.5); the largest where none is. -/
def rnrCode (hintUs : Nat) : Nat :=
  match rnrTimers.find? fun t => hintUs ≤ t.2 with
  | some t => t.1
  | none => 0

/-- The RoCEv2 outcome of a status (Table 12.5). After an RNR NAK the requester sends again from its PSN on, and what came
behind it is discarded. -/
def State.roceOutcome (s : State) (r : Req) (qpn psn : Nat) (a : Ans) : State :=
  let push := fun (s : State) (len : Nat) (p : OutPkt) => s.egPush r.src.port r.src.sub (some r.tenant) none none len p
  if a.status = Status.ok then
    match r.op with
    | .read _ => s.roceRead r qpn psn a.body
    | .cas .. | .fetchAdd .. => push s 8 (.roceAtomic r.src qpn psn (BitVec.ofNat 64 (leNat a.body)))
    | _ => push s 0 (.roceAck r.src qpn ((psn + packetCount (s.mtuOf qpn) r.bodyLen - 1) % 2 ^ 24))
  else if a.status = Status.retryAfter ∨ a.status = Status.notReady ∨ a.status = Status.busyLine then
    ((push s 0 (.roceRnr r.src qpn psn (rnrCode (a.aux % 2 ^ 32)))).qpFlush qpn).qpUp qpn fun q => { q with rxPsn := psn }
  else if a.status = Status.noRights ∨ a.status = Status.unmapped ∨ a.status = Status.revoked then
    (push s 0 (.roceNak r.src qpn psn 3)).qpError qpn
  else if a.status = Status.overContract then s
  else (push s 0 (.roceNak r.src qpn psn 4)).qpError qpn

end Sys2Proof.Machine

namespace Sys2Proof

/-- The opcode of a completing MESSAGE: NOTIFY for a waiting SYNC (R267). -/
def ReqOp.msgCode : ReqOp → Nat
  | .sync _ _ => 0x59
  | op => op.code

/-- The body of a completing MESSAGE: that of NOTIFY begins with KIND 0 and 7 reserved bytes (Table 12.3). -/
def ReqOp.msgBody (op : ReqOp) (b : List Byte) : List Byte :=
  match op with
  | .sync _ _ => List.replicate 8 0 ++ b
  | _ => b

end Sys2Proof

namespace Sys2Proof.Machine

/-- Log the replay entry of a request for set `k` beside the change it has made (Table 15.3). -/
def State.logReplay (s : State) (k : Nat) (r : Req) (a : Ans) : State :=
  if r.op.cached then
    s.logEntry k (.replay r.tenant r.keyHolder r.keyId a.status (BitVec.ofNat 64 a.aux) (a.body.take 96))
  else s

/-- The answer of a MOVE that ends after the chunks copied so far: AUX carries the bytes moved with OK and REVOKED, DETAIL
of its fault entry with any status (R36, R128, Table 12.4). -/
def Move.answer (m : Move) (status : Nat) : Ans :=
  let aux := if status = Status.ok ∨ status = Status.revoked then m.moved else 0
  { mkAns m.req.op status aux with detail := min m.moved 0xFFFFFFFF }

/-- A chunk of a bulk move that cannot go on yet waits in its tenant's access queue again. -/
def State.requeueChunk (s : State) (key : Nat) : State :=
  match s.acc.moves.find? (fun m => m.key = key) with
  | none => s
  | some m =>
    if m.fate.isSome ∨ s.qos.acq.any (fun x => x.kind = .move key) then s
    else if m.stop.isSome ∧ m.held.isNone then
      -- R34, R36: it was stopped while the chunk before awaited its acknowledgements
      let ends := fun (y : Move) => match y.stop with | some st => { y with fate := some (y.answer st) } | none => y
      { s with acc := { s.acc with moves := mapIf (fun y => y.key = key) ends s.acc.moves } }
    else
      let left := match m.req.op with | .move _ _ rl _ _ _ => rl.toNat + 1 - m.done | _ => 0
      s.acqPush ⟨key, m.req.tenant, 64 + min 4096 left, s.now, .move key⟩

/-- The time from which R146 bounds the answer of a request: not that of a request of Table 6.5, nor a completing MESSAGE
but that of a request with the FENCE flag, which is bound from its release. -/
def Req.boundFrom (r : Req) : Option Nat :=
  if ReqOp.unbound r.op || (r.accepted && !r.fence) then none else r.bound

/-- A packet of type `typ` for a request that came as a SEND returns on its queue pair: a RESPONSE or ACCEPT to the request's own
addresses, a MESSAGE to those of the pair's latest packet (R256, R274). A closed connection and a queue pair in error send
none. -/
def State.sendBack (s : State) (r : Req) (qpn typ code status : Nat) (reqBytes bound : Option Nat) (aux : Word64)
    (body : List Byte) : State :=
  match mget s.prt.qps qpn, s.conn r.conn with
  | some q, some x =>
    if q.error then s
    else
      let dst := if typ = 2 then q.src else r.src
      let seq := if typ = 2 then BitVec.ofNat 32 x.txSeq else r.seq
      let s := if typ = 2 then s.setConn r.conn { x with txSeq := x.txSeq + 1 } else s
      s.egPush dst.port dst.sub (some r.tenant) reqBytes bound body.length
        (.send dst qpn none typ code status seq r.reqId 0 0 aux body (if r.e2e then some (crc32c body) else none) r.enc)
  | _, _ => s

/-- Send an answer: a RESPONSE, or the completing MESSAGE of a request that has had ACCEPT (R267). When its connection
has closed, the answer is discarded (R268). -/
def State.sendAnswer (s : State) (r : Req) (a : Ans) : State :=
  match r.via with
  | .ring key => s.pfxUp fun p => { p with partEnds := p.partEnds ++ [(key, a)] }
  | .rdma qpn psn => s.roceOutcome r qpn psn a
  | .send qpn =>
    if r.accepted then
      s.sendBack r qpn 2 r.op.msgCode a.status none r.boundFrom (BitVec.ofNat 64 a.aux) (r.op.msgBody a.body)
    else s.sendBack r qpn 1 r.op.code a.status (some r.bodyLen) r.boundFrom (BitVec.ofNat 64 a.aux) a.body
  | .ipt =>
    match s.conn r.conn with
    | none => s
    | some _ =>
      if r.accepted then s.message r.conn r.op.msgCode a.status r.reqId (BitVec.ofNat 64 a.aux) (r.op.msgBody a.body) r.e2e true
        r.boundFrom
      else
        s.egPush r.src.port r.src.sub (some r.tenant) (some r.bodyLen)
          r.boundFrom a.body.length
          (.ipt 1 r.op.code a.status r.conn r.seq r.reqId 0 0 (BitVec.ofNat 64 a.aux) a.body
            (if r.e2e then some (crc32c a.body) else none) r.enc r.src)

/-- A ring operator that ends other than OK is counted and raised (Table 8.6, R188). -/
def State.ringFailed (s : State) (r : Req) (a : Ans) : State :=
  match r.op with
  | .ringReduce .. | .ringRoute .. => if a.status = Status.ok then s else (s.count R.PFX_COUNTS_RING_FAIL).raise 22 10
  | _ => s

/-- Complete a request with exactly one status (R4): its fault entry (R38), its replay record (R143), and its answer. -/
def State.respond (s : State) (r : Req) (a : Ans) : State :=
  match r.chunk with
  | some key => s.requeueChunk key
  | none =>
    let s := s.ringFailed r a
    let s := if Status.faults a.status then s.reqFault r a else s
    let s := if r.op.cached then s.replayDone r a else s
    s.sendAnswer r a

/-- Complete a request with a status and no more. -/
def State.refuse (s : State) (r : Req) (status : Nat) (aux : Nat := 0) : State := s.respond r (mkAns r.op status aux)

/-- Send ACCEPT for a request that will complete later, once (R267); none on a connection that has closed (R268). -/
def State.accept (s : State) (r : Req) : State :=
  if r.accepted then s else
  match r.via with
  | .rdma _ _ | .ring _ => s
  | .send qpn => s.sendBack r qpn 5 r.op.code 0 (some r.bodyLen) none 0 []
  | .ipt => if (s.conn r.conn).isNone then s else
    s.egPush r.src.port r.src.sub (some r.tenant) (some r.bodyLen) none 0
      (.ipt 5 r.op.code 0 r.conn r.seq r.reqId 0 0 0 [] (if r.e2e then some (crc32c []) else none) r.enc r.src)

/-! ### Parked answers -/

/-- Keep an answer until `waits` events have come and, when `record` names one, its epoch record is acknowledged. -/
def State.park (s : State) (key : Nat) (r : Req) (a : Ans) (waits : Nat) (mirror : Bool) (set : Nat)
    (record : Option Nat) : State :=
  { s with parked := s.parked ++ [⟨key, r, a, waits, mirror, set, record, false⟩] }

/-- A grant that was held back is sent: its time without ACK runs from now (R155). -/
def State.grantSent (s : State) (r : Req) : State :=
  let now := fun (t : Txn) => { t with grant := t.grant.map fun g => (g.1, s.now, g.2.2) }
  s.dirUp fun d => { d with txns := mapIf (fun t => t.req = some r) now d.txns }

/-- Send every parked answer that waits for nothing more. -/
def State.releaseParked (s : State) : State :=
  let ready := s.parked.filter fun p => p.waits = 0 && p.record.isNone
  let s := { s with parked := s.parked.filter fun p => !(p.waits = 0 && p.record.isNone) }
  ready.foldl (fun s p => if p.toAccept then s.accept p.req else (s.grantSent p.req).respond p.req p.ans) s

/-- What the answer kept under `key` still waits for: the partner's acknowledgement of its mirrored records (R18), the answers to
its parity updates (R340), and those of its writes that follow a read of their granule, or wait for a write queue (R123, R209). -/
def State.acksOf (s : State) (key : Nat) : Nat :=
  (s.par.reqs.filter fun q => match q.kind with | .mirror k => k = key | .rpUpdate k _ => k = key | _ => false).length +
    (s.smc.pcs.map fun x => (x.2.rq.filter fun e => e.key = key).length).sum +
    (s.smc.heldReads.filter fun e => e.key = key).length +
    (s.smc.waits.filter fun w => match w.who with | .entry e => e.key = key | .req _ => false).length

/-- Something that the parked answer `key` awaits has come. -/
def State.unpark (s : State) (key : Nat) : State :=
  if key = 0 then s
  else
    let s : State :=
      { s with parked := mapIf (fun p => p.key = key) (fun p => { p with waits := s.acksOf key }) s.parked }
    s.releaseParked

/-- Things that parked answers may have awaited have gone: each is counted again. -/
def State.recount (s : State) : State :=
  let s : State := { s with parked := mapIf (fun p => p.waits ≠ 0) (fun p => { p with waits := s.acksOf p.key }) s.parked }
  s.releaseParked

/-- Change the answer of a parked request. -/
def State.parkFail (s : State) (key status : Nat) : State :=
  { s with parked := mapIf (fun p => p.key = key) (fun p => { p with ans := mkAns p.req.op status }) s.parked }

/-- Answer a request; where `held`, once the record that carries the changes of set `k` so far is acknowledged. -/
def State.respondHeld (s : State) (held : Bool) (k : Nat) (r : Req) (a : Ans) : State :=
  let s := s.logReplay k r a
  if held then
    let (key, s) := s.newKey
    s.park key r a 0 false k (some (s.nextRecord k))
  else s.respond r a

/-- Answer a request, held back until the record of set `k`'s running frame is acknowledged when the set has a standby
(R178, R328). -/
def State.respondRecorded (s : State) (k : Nat) (r : Req) (a : Ans) : State := s.respondHeld (s.standby k) k r a

end Sys2Proof.Machine
end

