-- ==== Sys2Proof/Machine/Stack.lean ====
section
/-! DEFINITION. The stacks: the address map (R203), validity (R233 to R236), stored granules and their metadata (R225 to
R232), STACK_PARITY groups (R243 to R247), write queues (R209), remap and retirement requests (R221, R230, R231).

`Ecc.mem` holds the plaintext of each granule as its write queue and its cushion line would serve it: the value of a
write from its visibility point on (R123). The stored words of pool data are functions of it and of the metadata; those of
parity granules and of the map are held in `Ecc.words`. -/

namespace Sys2Proof.Machine

/-! ### The address map (Table 10.1) -/

/-- Pseudo-channel of a physical byte address. -/
def pcOf (a : Nat) : Nat := bitsOf a 8 9 ^^^ bitsOf a 25 9

/-- Bank group, bank and stack ID. -/
def bgOf (a : Nat) : Nat := bitsOf a 19 2
def bkOf (a : Nat) : Nat := bitsOf a 21 2
def sidOf (a : Nat) : Nat := bitsOf a 23 2

/-- Bank k = 16i + 4g + b (R203). -/
def bankOf (a : Nat) : Nat := 16 * sidOf a + 4 * bgOf a + bkOf a

def rowOf (a : Nat) : Nat := bitsOf a 25 15
def colOf (a : Nat) : Nat := bitsOf a 6 2 + 4 * bitsOf a 17 2

/-- Stack of a pseudo-channel. -/
def stackOfPc (p : Nat) : Nat := p / 64

/-- The stack number of an address: a[16:14] XOR a[33:31] (R244). -/
def stackOf (a : Nat) : Nat := bitsOf a 14 3 ^^^ bitsOf a 31 3

/-- The byte address that Table 10.1 maps to a pseudo-channel, bank, row and column. -/
def addrOf (p bank row col : Nat) : Nat :=
  bitsOf col 0 2 * 2 ^ 6 + (p ^^^ bitsOf row 0 9) % 512 * 2 ^ 8 + bitsOf col 2 2 * 2 ^ 17 +
    bitsOf bank 2 2 * 2 ^ 19 + bitsOf bank 0 2 * 2 ^ 21 + bitsOf bank 4 2 * 2 ^ 23 + row % 2 ^ 15 * 2 ^ 25

/-- Where the model keeps the place of a granule of another ring-parity member, beyond every pool address: that of a
lost member's extents, which its partner serves by reconstruction (R341). -/
def awayBase : Nat := 2 ^ 41

/-- First byte beyond the pool space (R21). -/
def poolEnd : Nat := 0xFF40000000

/-- 64 KiB units of the pool space. -/
def poolUnits : Nat := 16728064

/-! ### Pseudo-channels -/

/-- A pseudo-channel before training. -/
def resetPc : Pc := ⟨0, 0, 0, 0, 0, [], [], false, [], [], [], [], [], [], [], false, [], false, 0, []⟩

def State.pc (s : State) (p : Nat) : Pc := mgetD s.smc.pcs p resetPc

def State.setPc (s : State) (p : Nat) (x : Pc) : State := { s with smc := { s.smc with pcs := mset s.smc.pcs p x } }

/-- State of a stack (Table 10.7): 0 TRAINING to 5 RETIRED. -/
def State.stackSt (s : State) (n : Nat) : Nat := s.smc.stackSts.getD n 0

/-- The pseudo-channel is retired (R221). -/
def State.pcRetired (s : State) (p : Nat) : Bool := (s.pc p).state = 2

/-- The stack takes no ACCESS command: it enters, is in, or leaves self-refresh, or DEEP is in force (R219, R220). -/
def State.stackNapping (s : State) (n : Nat) : Bool :=
  s.stackSt n = 2 || s.stackSt n = 3 || s.stackSt n = 4 || s.deep

/-- The SMC may issue commands at the pseudo-channel (R42). -/
def State.pcActive (s : State) (p : Nat) : Bool :=
  !s.pcRetired p && s.stackSt (stackOfPc p) ≠ 3 && s.stackSt (stackOfPc p) ≠ 4 && !s.deep

/-- The largest read latency of the in-service pseudo-channels plus 2 (R51). -/
def State.latNeeded (s : State) : Nat :=
  s.smc.pcs.foldl (fun m e => if e.2.state = 1 then max m (e.2.rdLat + 2) else m) 0

/-- A demand for a stack in or entering self-refresh. -/
def State.demandStack (s : State) (n : Nat) : State :=
  if (s.stackSt n = 2 ∨ s.stackSt n = 3) ∧ s.smc.demand.contains n = false then
    { s with smc := { s.smc with demand := s.smc.demand ++ [n] } }
  else s

/-! ### Retirement requests (R221, R231) -/

/-- The rank of fault causes that arise in one frame: TRAINING, INTEGRITY, CALIBRATION (R221). -/
def causeRank (c : Nat) : Nat := if c = 1 then 0 else if c = 4 then 1 else 2

/-- Ask for a fault retirement at the next frame boundary; the cause recorded is the first in the order of R221. -/
def State.retireFault (s : State) (p cause : Nat) : State :=
  if s.pcRetired p || s.smc.retireNow.any (fun e => e.1 = p) then s else
  match s.smc.retiring.find? (fun e => e.1 = p) with
  | none => { s with smc := { s.smc with retiring := s.smc.retiring ++ [(p, cause)] } }
  | some e =>
    if causeRank cause < causeRank e.2 then
      { s with smc := { s.smc with retiring := mapIf (fun e => e.1 = p) (fun _ => (p, cause)) s.smc.retiring } }
    else s

/-- A fault has asked for the pseudo-channel's retirement, which its boundary brings (R221). -/
def State.faultRetiring (s : State) (p : Nat) : Bool :=
  (s.smc.retiring ++ s.smc.retireNow).any fun e => e.1 = p

/-! ### Tenant keys as the stacks see them (R345) -/

def emptyTenant : Tenant := ⟨0, 0, 0, none, none, none, 0, 0⟩

def State.tenant (s : State) (t : Nat) : Tenant := mgetD s.sec.tenants t emptyTenant

def State.setTenant (s : State) (t : Nat) (x : Tenant) : State :=
  { s with sec := { s.sec with tenants := mset s.sec.tenants t x } }

def State.admitted (s : State) (t : Nat) : Bool := (s.tenant t).st = 2

/-- Some key slot of the tenant has this generation. -/
def Tenant.hasGen (t : Tenant) (g : Nat) : Bool :=
  t.st = 2 && (t.curGen = g || (match t.prev with | some (_, pg) => pg = g | none => false))

/-! ### Metadata (Table 11.2) -/

/-- ATAG of a physical address. -/
def atagOf (a : Nat) : Nat := bitsOf a 6 9 ^^^ bitsOf a 15 9 ^^^ bitsOf a 24 9 ^^^ bitsOf a 33 7

/-- Metadata word. -/
def mkMeta (residual poison : Bool) (gen mode a : Nat) : BitVec 16 :=
  BitVec.ofNat 16 (bit01 residual 1 + bit01 poison 2 + gen % 4 * 4 + mode % 8 * 16 + atagOf a * 128)

def State.gmeta (s : State) (g : Nat) : BitVec 16 := mgetD s.ecc.gmeta g 0

def metaResidual (m : BitVec 16) : Bool := m.getLsbD 0
def metaPoison (m : BitVec 16) : Bool := m.getLsbD 1
def metaGen (m : BitVec 16) : Nat := bitsOf m.toNat 2 2
def metaMode (m : BitVec 16) : Nat := bitsOf m.toNat 4 3
def metaAtag (m : BitVec 16) : Nat := bitsOf m.toNat 7 9

/-! ### Extents by address -/

/-- The extent index's data lies at this device: pairing is off, this device holds its set, or the extent is mirrored
(R321). -/
def State.dataHere (s : State) (i : Nat) (e : Extent) : Bool :=
  s.holds (setOfIndex i) || s.taking (setOfIndex i) || e.prot = 2 || e.prot = 4

/-- The extent in use here whose range holds a byte address. -/
def State.extentAt (s : State) (a : Nat) : Option (Nat × Extent) :=
  s.xlt.extents.find? fun e =>
    e.2.state ≠ .quarantined && s.dataHere e.1 e.2 && e.2.start * 65536 ≤ a && a < (e.2.start + e.2.len) * 65536

/-! ### Write queues (R209, R210) -/

/-- Write queue capacity in granules. -/
def wqDepth : Nat := 64

/-- Writes lose their precedence once the queue holds `WQ_LOW` entries or fewer (R209). -/
def Pc.settle (x : Pc) (low : Nat) : Pc := { x with wqFull := x.wqFull && low < x.wq.length }

/-- `WQ_LOW` of a pseudo-channel's controller. -/
def State.wqLow (s : State) (p : Nat) : Nat := s.fld (R.SMC_CFG_WQ_LOW.at (stackOfPc p * 0x1000))

/-- Room for `n` entries in the pseudo-channel's write queue. -/
def State.wqFits (s : State) (p n : Nat) : Bool := (s.pc p).wq.length + n ≤ wqDepth

/-- Put an entry into a write queue with room. A write drops a conditional one of its granule that still waits
(R215). -/
def State.wqPush (s : State) (p : Nat) (e : WqEntry) : State :=
  let drops := if e.cond then 0 else ((s.pc p).wq.filter fun x => x.g = e.g && x.cond).length
  let s := if drops = 0 then s else s.count (R.SMC_HAZ_SCRUB_DROPS.at (stackOfPc p * 0x1000)) drops
  let x0 := s.pc p
  let x := if drops = 0 then x0
    else Pc.settle { x0 with wq := x0.wq.filter fun x => !(x.g = e.g && x.cond) } (s.wqLow p)
  let n := x.wq.length + 1
  s.setPc p { x with wq := x.wq ++ [e], wqMax := max x.wqMax n,
                     wqFull := x.wqFull || s.fld (R.SMC_CFG_WQ_HIGH.at (stackOfPc p * 0x1000)) ≤ n }

/-- The granule's word does not lie at a stack that takes commands for it: it belongs to another device, its
pseudo-channel is retired, or it has a spare (R222, R230). -/
def State.offStack (s : State) (g : Nat) : Bool :=
  awayBase ≤ g * 64 || s.pcRetired (pcOf (g * 64)) || s.ecc.remap.any (fun e => e.1 = g)

/-- A read of the granule is queued, or waits in its engine for a napping stack, and has not issued (R210, R219). -/
def State.readQueued (s : State) (g : Nat) : Bool :=
  ((s.pc (pcOf (g * 64))).rq.any fun e => e.g = g) || s.smc.heldReads.any fun e => e.g = g

/-- A write of the granule waits for a write queue. -/
def State.writeWaits (s : State) (g : Nat) : Bool := s.smc.waits.any fun w => w.gs.contains g

/-- A whole granule enters its write queue. It waits while the queue is full, which WQ_FULL counts, while an older read of
the granule has not issued, behind an older write of the granule that waits (R209, R210), and while its stack naps, which it
then demands (R219, R220). A remapped granule goes to its spare and uses no queue (R230). -/
def State.wqEnter (s : State) (g tenant : Nat) (cond : Bool) (move : Option Nat := none) (key : Nat := 0) : State :=
  let p := pcOf (g * 64)
  let e : WqEntry := ⟨g, cond, tenant, move, false, key⟩
  let nap := s.stackNapping (stackOfPc p)
  if s.offStack g then s
  else if s.wqFits p 1 ∧ !s.readQueued g ∧ !s.writeWaits g ∧ !nap then s.wqPush p e
  else
    let s := if s.wqFits p 1 then s else s.count (R.SMC_HAZ_WQ_FULL.at (stackOfPc p * 0x1000))
    let s := if nap then s.demandStack (stackOfPc p) else s
    { s with smc := { s.smc with waits := s.smc.waits ++ [⟨[g], [g], .entry e⟩] } }

/-- Of the granules `needs`, those that enter a write queue. -/
def State.queueGoers (s : State) (needs : List Nat) : List Nat := needs.filter fun g => !s.offStack g

/-- A granule whose write queue has no room for the entries that go to it. -/
def State.wqLacks (s : State) (needs : List Nat) : Option Nat :=
  let l := s.queueGoers needs
  l.find? fun g => !s.wqFits (pcOf (g * 64)) (l.filter fun x => pcOf (x * 64) = pcOf (g * 64)).length

/-- The write of a RING_PARITY granule waits for its parity member (R340). -/
def State.ringPending (s : State) (g : Nat) : Bool :=
  s.par.reqs.any fun q => match q.kind with | .rpUpdate _ x => x.g = g | _ => false

/-- Writes of the granules `gs`, of which `needs` enter write queues, must wait: a queue has no room, an older read of one of
`needs` has not issued, or an older write of one of `gs` has not taken effect (R127, R209, R210, R340). One whose `turn` has
come stands before the writes that wait. -/
def State.writeShort (s : State) (gs needs : List Nat) (turn : Bool) : Bool :=
  (s.wqLacks needs).isSome || ((s.queueGoers needs).any s.readQueued) ||
    gs.any fun g => (!turn && s.writeWaits g) || s.ringPending g

/-- A request waits in its engine for write queues (R209), in its old place if its turn had come. -/
def State.waitWrite (s : State) (gs needs : List Nat) (r : Req) : State :=
  let s := match s.wqLacks needs with
    | some g => s.count (R.SMC_HAZ_WQ_FULL.at (stackOfPc (pcOf (g * 64)) * 0x1000))
    | none => s
  let w : WaitWrite := ⟨gs, needs, .req { r with begun := true, checked := true, turn := false }⟩
  { s with smc := { s.smc with waits := if r.turn then w :: s.smc.waits else s.smc.waits ++ [w] } }

/-- The writes of the granule wait in its queue. -/
def State.inWq (s : State) (g : Nat) : Bool := (s.pc (pcOf (g * 64))).wq.any fun e => e.g = g

/-- Queue an ACCESS read command for a granule that is read from a stack, for the slots to issue (R208). A granule whose
write waits in the queue is served from it and counted as a forward (R210). A napping stack takes no new command: the read
waits in its engine, and the stack is demanded (R219, R220). -/
def State.queueStackRead (s : State) (g tenant : Nat) (move : Option Nat := none) : State :=
  let p := pcOf (g * 64)
  let x := s.pc p
  let e : RqEntry := ⟨g, s.now, tenant, false, false, move, 0⟩
  if s.offStack g then s
  else if s.stackNapping (stackOfPc p) then
    let s := s.demandStack (stackOfPc p)
    { s with smc := { s.smc with heldReads := s.smc.heldReads ++ [e] } }
  else if s.inWq g then s.count (R.SMC_HAZ_FORWARDS.at (stackOfPc p * 0x1000))
  else s.setPc p { x with rq := x.rq ++ [e] }

/-- The stack takes commands again: the reads that waited for it in their engines enter its queues, oldest first (R220). -/
def State.releaseReads (s : State) (n : Nat) : State :=
  let mine := s.smc.heldReads.filter fun e => stackOfPc (pcOf (e.g * 64)) = n
  let s : State := { s with smc := { s.smc with heldReads := s.smc.heldReads.filter fun e => stackOfPc (pcOf (e.g * 64)) ≠ n } }
  mine.foldl (fun s e =>
    let p := pcOf (e.g * 64)
    s.setPc p { s.pc p with rq := (s.pc p).rq ++ [e] }) s

/-- The first queued read of the granule in a list becomes one that its write follows: in the same slot, or, with
`through`, by way of the write queue; the answer `key` waits for that write. -/
def markRead (g key : Nat) (through : Bool) : List RqEntry → List RqEntry
  | [] => []
  | e :: t => if e.g = g then { e with rmw := !through, through := through, key := key } :: t else e :: markRead g key through t

/-- The write of a granule reaches its stack: behind the read that its own request has queued last, which `own` tells of, or
by an entry of its own; the answer `key` waits until it has (R123, R125, R140, R245). -/
def State.writeOut (s : State) (g tenant : Nat) (own through : Bool) (move : Option Nat) (key : Nat) : State :=
  let p := pcOf (g * 64)
  let x := s.pc p
  let mark := fun (l : List RqEntry) => (markRead g key through l.reverse).reverse
  if own ∧ (x.rq.any fun e => e.g = g) then s.setPc p { x with rq := mark x.rq }
  else if own ∧ s.readQueued g then { s with smc := { s.smc with heldReads := mark s.smc.heldReads } }
  else s.wqEnter g tenant false move key

/-! ### Errors, verify and remap (R229 to R231) -/

/-- Add 1 to a per-pseudo-channel count that saturates at `top`. -/
def bumpAt (m : NMap Nat) (p top : Nat) : NMap Nat := mset m p (min (mgetD m p 0 + 1) top)

/-- Entries of the remap table in use at a pseudo-channel. -/
def State.remapUsed (s : State) (p : Nat) : Nat := (s.ecc.remap.filter fun e => pcOf (e.1 * 64) = p).length

/-- Install a remap entry for a granule: the spare takes its word, its errors no longer matter, and the entry is pushed
to `ECC_REMAP_LOG` (R230). -/
def State.remapAdd (s : State) (g : Nat) (poisoned : Bool) : State :=
  let p := pcOf (g * 64)
  let s : State := { s with ecc := { s.ecc with
      remap := s.ecc.remap ++ [(g, poisoned)]
      errs := mdel s.ecc.errs g
      remapLog := if s.ecc.remapLog.length < 64 then s.ecc.remapLog ++ [g] else s.ecc.remapLog } }
  if s.remapUsed p = 16 then s.raise 24 9 else s

/-- A verify read found the granule still in error: a hard fault (R229 to R231). -/
def State.hardFault (s : State) (g : Nat) : State :=
  let p := pcOf (g * 64)
  let s : State := { s with ecc := { s.ecc with hard := bumpAt s.ecc.hard p 255 } }
  if s.remapUsed p < 16 then s.remapAdd g false
  else
    let s : State := { s with ecc := { s.ecc with hardOver := bumpAt s.ecc.hardOver p 255 } }
    let lim := s.fld R.ECC_CFG_HARD_RETIRE
    if lim ≠ 0 ∧ lim ≤ mgetD s.ecc.hardOver p 0 then s.retireFault p 4 else s

/-- What the decoder makes of a stored word (R225). -/
inductive Decoded where
  | clean
  | fixed
  | lost
  deriving DecidableEq, Repr

/-- The granule lies in the parity range of a STACK_PARITY extent (R243). -/
def State.parityGranule (s : State) (g : Nat) : Bool :=
  s.xlt.extents.any fun e => match e.2.parity with
    | some (p, n) => p * 1024 ≤ g && g < (p + n) * 1024
    | none => false

/-- A miscorrected granule: the decoder delivers, and writes back, bytes that the spec does not state (R225). Of a parity
granule it is the stored word that they make. -/
def State.miscorrect (s : State) (g k : Nat) : State :=
  if s.parityGranule g then
    { s with ecc := { s.ecc with words := mset s.ecc.words g (rsWord ((List.range 66).map (Config.rsByte k))) } }
  else { s with ecc := { s.ecc with mem := s.ecc.mem.write (g * 64) ((List.range 64).map (Config.rsByte k)) } }

/-- Step 3 of Table 11.3: up to 2 symbol errors are corrected, 3 and 4 are detected, and 5 or more give whatever the decoder
finds. A word that waits in the write queue or lies in a spare has none (R230). -/
def State.decoded (s : State) (g : Nat) : State × Decoded :=
  match (if s.inWq g || s.ecc.remap.any (fun x => x.1 = g) then none else mget s.ecc.errs g) with
  | none => (s, .clean)
  | some x =>
    let k := s.freeCtr
    let s := s.tick
    if x.n ≤ 2 then (s, .fixed)
    else if 5 ≤ x.n ∧ Config.rsCorrects k then (s.miscorrect g k, .fixed)
    else (s, .lost)

/-- The verify read of a corrected granule (R229). -/
def State.verifyRead (s : State) (g : Nat) : State :=
  let s : State := { s with ecc := { s.ecc with verify := s.ecc.verify.erase g } }
  match mget s.ecc.errs g with
  | some _ => s.hardFault g
  | none => s

/-- A correction (R229): counted, and a verify read is due. Errors that return after a rewrite stay. -/
def State.noteFix (s : State) (g : Nat) : State :=
  let s := s.count R.ECC_COUNTS_CE
  { s with ecc := { s.ecc with
      ce := bumpAt s.ecc.ce (pcOf (g * 64)) 0xFFFF
      verify := if s.ecc.verify.contains g then s.ecc.verify else s.ecc.verify ++ [g]
      errs := match mget s.ecc.errs g with
        | some e => if e.hard then s.ecc.errs else mdel s.ecc.errs g
        | none => s.ecc.errs } }

/-- A correction, written back at once as a conditional write (R229). -/
def State.corrected (s : State) (g : Nat) : State := (s.noteFix g).wqEnter g 0 true

/-- The correcting writes of a granule that was read in a SCRUB position issue in SCRUB slots (Table 3.2). -/
def State.markScrub (s : State) (g : Nat) : State :=
  let p := pcOf (g * 64)
  let mark := mapIf (fun (e : WqEntry) => e.g = g && e.cond) fun e => { e with scrub := true }
  let s := if s.inWq g then s.setPc p { s.pc p with wq := mark (s.pc p).wq } else s
  if s.writeWaits g then
    { s with smc := { s.smc with waits := s.smc.waits.map fun w => match w.who with
        | .entry e => if e.g = g && e.cond then { w with who := .entry { e with scrub := true } } else w
        | .req _ => w } }
  else s

/-- An uncorrectable result (R231): counted and raised, and it may retire the pseudo-channel. -/
def State.uncorrectable (s : State) (g : Nat) : State :=
  let p := pcOf (g * 64)
  let s := (s.count R.ECC_COUNTS_UE).raise 24 8
  let s : State := { s with ecc := { s.ecc with ue := bumpAt s.ecc.ue p 255 } }
  if s.fld R.ECC_CFG_UE_RETIRE ≤ mgetD s.ecc.ue p 0 then s.retireFault p 4 else s

/-! ### Validity (R233, R234) -/

/-- Address of the 128 bytes of the validity map that hold the map bits of a unit (R233). -/
def mapAddr (u : Nat) : Nat := 0xFF40000000 + 128 * u

/-- The map bit of granule `k` of a mixed unit: its cache entry's, else the map's. -/
def State.mapBit (s : State) (u k : Nat) : Bool :=
  match s.ecc.vcache.find? (fun e => e.1 = u) with
  | some e => e.2.getLsbD k
  | none => (s.ecc.mem.byte (mapAddr u + k / 8)).getLsbD (k % 8)

/-- Validity of a granule (R234). -/
def State.written (s : State) (g : Nat) : Bool :=
  match mget s.ecc.units (g / 1024) with
  | none => false
  | some true => true
  | some false => s.mapBit (g / 1024) (g % 1024)

/-- Every map bit set. -/
def allOnes1024 : BitVec 1024 := BitVec.allOnes 1024

/-- The errors of the stacks' words once a granule has been written whole: its soft ones are gone. -/
def State.rewritten (s : State) (g : Nat) : NMap GErr :=
  match mget s.ecc.errs g with
  | some e => if e.hard then s.ecc.errs else mdel s.ecc.errs g
  | none => s.ecc.errs

/-- Name of the tenant key with a generation. -/
def Tenant.keyOf (t : Tenant) (g : Nat) : Nat :=
  if t.curGen = g then t.cur else match t.prev with | some (n, pg) => if pg = g then n else t.cur | none => t.cur

/-- A granule's 72 bytes as they are stored (Table 11.1): ciphertext, metadata in clear, check symbols. -/
def storedWord (key g : Nat) (m : BitVec 16) (data : List Byte) : List Byte :=
  rsWord (fitBytes 64 (Config.xtsEncrypt key (g % (awayBase / 64)) (metaGen m) data) ++ leBytes 2 m.toNat)

/-- A word of zeros, which an unwritten granule counts as (R244). -/
def zeroWord : List Byte := List.replicate 72 0

/-- A map granule is written under the device key: coded and tagged like pool data, with MODE 7 (R226, R233). -/
def State.mapStore (s : State) (g : Nat) (bs : List Byte) : State :=
  let m := mkMeta false false 0 7 (g * 64)
  (({ s with ecc := { s.ecc with
      mem := s.ecc.mem.write (g * 64) bs
      errs := s.rewritten g
      words := mset s.ecc.words g (storedWord Config.deviceKey g m bs)
      gmeta := msetD s.ecc.gmeta g m 0 } } : State)).wqEnter g 0 false

/-- A unit's map bits reach its two map granules (R234). -/
def State.mapWrite (s : State) (u : Nat) (b : BitVec 1024) : State :=
  let g := mapAddr u / 64
  let bs := leBytes 128 b.toNat
  (s.mapStore g (bs.take 64)).mapStore (g + 1) (bs.drop 64)

/-- The validity cache holds an entry for the unit, as its most recent; the least recent one of a full cache is written
back to the map (R234). -/
def State.vcachePut (s : State) (u : Nat) (b : BitVec 1024) : State :=
  let l := (u, b) :: s.ecc.vcache.filter fun e => e.1 ≠ u
  let s : State := { s with ecc := { s.ecc with vcache := l.take 65536 } }
  match l.drop 65536 with
  | [] => s
  | e :: _ => s.mapWrite e.1 e.2

/-- A management fault entry for an error in space that belongs to no extent (R241). -/
def State.orphanFault (s : State) : State :=
  s.mgmtFault ⟨(s.now - s.frameStart) % frameCycles, s.frame, Status.poisoned, 0xFF, 0, 0, true, 0, 0, 0⟩

/-- Steps 3 and 4 of Table 11.3 on a granule of the map or the reserve: whether its word can be used (R228, R241). One that
has never been written carries no tag to compare. -/
def State.mapDecode (s : State) (g : Nat) : State × Bool :=
  match s.decoded g with
  | (s, .lost) => ((s.uncorrectable g).orphanFault, false)
  | (s, d) =>
    let s := if d = .fixed then s.corrected g else s
    match mget s.ecc.gmeta g with
    | none => (s, true)
    | some m =>
      if metaMode m ≠ 7 ∨ metaAtag m ≠ atagOf (g * 64) then
        (((s.count R.ECC_POISON_MISDIRECT).uncorrectable g).orphanFault, false)
      else (s, true)

/-- The read of a map granule in an ACCESS slot. -/
def State.mapRead (s : State) (g : Nat) : State × Bool := (s.queueStackRead g 0).mapDecode g

/-- The entry of a mixed unit is used: a miss is counted, and the unit's two map granules are read into the cache ahead of
the data read (R234). An uncorrectable one makes the unit mixed with every bit 0 (R241). -/
def State.vcacheTouch (s : State) (u : Nat) : State :=
  match mget s.ecc.units u with
  | some false =>
    match s.ecc.vcache.find? (fun e => e.1 = u) with
    | some e => s.vcachePut u e.2
    | none =>
      let g := mapAddr u / 64
      let (s, a) := (s.count R.ECC_VCACHE_MISSES).mapRead g
      let (s, b) := s.mapRead (g + 1)
      s.vcachePut u (if a && b then BitVec.ofNat 1024 (leNat (s.ecc.mem.read (mapAddr u) 128)) else 0)
  | _ => s

/-- Set the map bit of a granule; the last bit of a unit sets FULL (R234). The first write to an empty unit allocates an
entry with every other bit 0, and does not read the map. -/
def State.markWritten (s : State) (g : Nat) : State :=
  let u := g / 1024
  let bit : BitVec 1024 := BitVec.ofNat 1024 (2 ^ (g % 1024))
  match mget s.ecc.units u with
  | some true => s
  | some false =>
    let s := s.vcacheTouch u
    let b := (((s.ecc.vcache.find? fun e => e.1 = u).map (·.2)).getD 0) ||| bit
    if b = allOnes1024 then
      { s with ecc := { s.ecc with units := mset s.ecc.units u true, vcache := s.ecc.vcache.filter fun e => e.1 ≠ u } }
    else s.vcachePut u b
  | none => ({ s with ecc := { s.ecc with units := mset s.ecc.units u false } } : State).vcachePut u bit

/-- Clear the WRITTEN and FULL bits of units `u` to `u + n - 1` and discard their cache entries (R235). Their granules
read as zeros from now on, so the model keeps nothing of their old content; the map in the stacks is not written. -/
def State.clearUnits (s : State) (u n : Nat) : State :=
  { s with ecc := { s.ecc with
      mem := s.ecc.mem.filter fun e => e.1 < u * 65536 || (u + n) * 65536 ≤ e.1
      gmeta := s.ecc.gmeta.filter fun e => e.1 < u * 1024 || (u + n) * 1024 ≤ e.1
      units := s.ecc.units.filter fun e => e.1 < u || u + n ≤ e.1
      vcache := s.ecc.vcache.filter fun e => e.1 < u || u + n ≤ e.1
      words := s.ecc.words.filter fun e => e.1 < u * 1024 || (u + n) * 1024 ≤ e.1
      lostGroups := s.ecc.lostGroups.filter fun g => g < u * 1024 || (u + n) * 1024 ≤ g
      rebuilt := s.ecc.rebuilt.filter fun g => g < u * 1024 || (u + n) * 1024 ≤ g } }

/-! ### STACK_PARITY groups (R243, R244) -/

/-- Stripe row of an address in a range that starts at byte `st`. -/
def stripeRow (st a : Nat) : Nat := (a - st) / 2 ^ 17 * 256 + bitsOf a 6 8

/-- Address of the granule of row `n` on stack `sk`. -/
def stripeAddr (st n sk : Nat) : Nat :=
  let base := st + 2 ^ 17 * (n / 256) + 64 * (n % 256)
  base + 2 ^ 14 * (sk ^^^ bitsOf base 31 3)

/-- Group (k, j) of a data address: k is its set, j follows from its stack and row. -/
def groupOf (st a : Nat) : Nat × Nat :=
  let n := stripeRow st a
  (n / 7, (stackOf a + 16 - n % 7 - 1) % 8)

/-- Data members of group (k, j) of an extent of `rows` stripe rows. -/
def groupMembers (st rows k j : Nat) : List Nat :=
  ((List.range 7).filter fun r => 7 * k + r < rows).map fun r => stripeAddr st (7 * k + r) ((j + r + 1) % 8)

/-- Parity granule of group (k, j), in a parity range that starts at byte `ps`. -/
def parityAddr (ps k j : Nat) : Nat := stripeAddr ps k j

/-- Parity units that STACK_PARITY allocates for `len` units (R243). -/
def parityUnits (len : Nat) : Nat := ceilDiv (ceilDiv (len * 128) 7) 256 * 2

/-- The stored word of a granule cannot be read where it lies: its pseudo-channel is retired, or its errors are more
than the code corrects. -/
def State.lostWord (s : State) (a : Nat) : Bool :=
  s.pcRetired (pcOf a) ||
    (match mget s.ecc.errs (a / 64) with
     | some e => 3 ≤ e.n && !(s.ecc.remap.any fun x => x.1 = a / 64)
     | none => false)

/-- A granule's word has been moved to its group's parity location by the rebuild (R247). -/
def State.isRebuilt (s : State) (g : Nat) : Bool := s.ecc.rebuilt.contains g

/-- The group of a granule of a STACK_PARITY extent can give its word: every other member that is written, and the
parity granule, can be read (R246); a rebuilt member is read from the parity location (R247). -/
def State.groupGives (s : State) (e : Extent) (g : Nat) : Bool :=
  match e.parity with
  | none => false
  | some (ps, _) =>
    let st := e.start * 65536
    let (k, j) := groupOf st (g * 64)
    let pa := parityAddr (ps * 65536) k j
    if s.isRebuilt g then !s.lostWord pa
    else
      !s.lostWord pa && !((groupMembers st (e.len * 128) k j).any fun m => s.isRebuilt (m / 64)) &&
        (groupMembers st (e.len * 128) k j).all fun m => m = g * 64 || !s.written (m / 64) || !s.lostWord m

/-- The granules whose words give that of a granule of a STACK_PARITY group: the other written members and the parity
granule; of a rebuilt member the parity location alone (R246, R247). -/
def State.groupSources (s : State) (e : Extent) (g : Nat) : List Nat :=
  match e.parity with
  | none => []
  | some (ps, _) =>
    let st := e.start * 65536
    let (k, j) := groupOf st (g * 64)
    let pa := parityAddr (ps * 65536) k j / 64
    if s.isRebuilt g then [pa]
    else (((groupMembers st (e.len * 128) k j).map (· / 64)).filter fun m => m ≠ g && s.written m) ++ [pa]

/-- The group's parity granule of a granule of an extent with a parity range (R244). -/
def Extent.parityOf (e : Extent) (g : Nat) : Option Nat :=
  e.parity.map fun p =>
    let (k, j) := groupOf (e.start * 65536) (g * 64)
    parityAddr (p.1 * 65536) k j / 64

/-- Some member of a granule's STACK_PARITY group stands in the group's parity location: the group is unprotected (R247). -/
def State.groupRebuilt (s : State) (e : Extent) (g : Nat) : Bool :=
  let (k, j) := groupOf (e.start * 65536) (g * 64)
  (groupMembers (e.start * 65536) (e.len * 128) k j).any fun m => s.isRebuilt (m / 64)

/-- Parity rows of an extent. -/
def Extent.parityRows (e : Extent) : Nat := if e.parity.isSome then ceilDiv (e.len * 128) 7 else 0

/-- The STACK_PARITY extents whose data lies here, in ascending order of their parity ranges. -/
def State.parityExtents (s : State) : List (Nat × Extent) :=
  let l := s.xlt.extents.filter fun e => e.2.parity.isSome && s.dataHere e.1 e.2
  let start := fun (e : Nat × Extent) => match e.2.parity with | some (p, _) => p | none => 0
  l.mergeSort fun a b => start a ≤ start b

/-- Parity rows of all extents. -/
def State.parityTotal (s : State) : Nat := (s.parityExtents.map fun e => e.2.parityRows).sum

/-- The extent and the row of it that a position of the rebuild names. -/
def rebuildRow (l : List (Nat × Extent)) (k : Nat) : Option (Extent × Nat) :=
  match l with
  | [] => none
  | e :: t => if k < e.2.parityRows then some (e.2, k) else rebuildRow t (k - e.2.parityRows)

/-- Data members of group (k, j) that lie at retired pseudo-channels and have not been rebuilt, as granules. -/
def State.rebuildLost (s : State) (e : Extent) (k j : Nat) : List Nat :=
  ((groupMembers (e.start * 65536) (e.len * 128) k j).filter fun m => s.pcRetired (pcOf m) && !s.isRebuilt (m / 64)).map (· / 64)

/-- The lost member of a group whose word the rebuild can move to the parity location (R247). -/
def State.rebuildMember (s : State) (e : Extent) (k j : Nat) : Option Nat :=
  match s.rebuildLost e k j with
  | [g] => if s.groupGives e g then some g else none
  | _ => none

/-! ### Stored words (R225, R244) -/

/-- The bytes of a granule. -/
def State.granule (s : State) (g : Nat) : List Byte := s.ecc.mem.read (g * 64) 64

/-- The data and the residual flag of a stored word of an extent: none when it does not decode, is poisoned, or names no key of the tenant. -/
def State.plainOf (s : State) (e : Extent) (g : Nat) (word : List Byte) : Option (List Byte × Bool) :=
  match rsDecode word with
  | none => none
  | some w =>
    let m := BitVec.ofNat 16 (leNat ((w.drop 64).take 2))
    let t := s.tenant e.tenant
    if metaPoison m ∨ !t.hasGen (metaGen m) then none
    else some (fitBytes 64 (Config.xtsDecrypt (t.keyOf (metaGen m)) (g % (awayBase / 64)) (metaGen m) (w.take 64)),
      metaResidual m)

/-- The stored word of a granule; zeros when it is unwritten (R225, R340). -/
def State.wordOf (s : State) (tenant g : Nat) : List Byte :=
  if s.written g then
    storedWord ((s.tenant tenant).keyOf (metaGen (s.gmeta g))) g (s.gmeta g) (s.granule g)
  else zeroWord

/-- The stored word that a write gives a granule: under the tenant's CURRENT key. -/
def State.newWord (s : State) (e : Extent) (g : Nat) (data : List Byte) (residual : Bool) : List Byte :=
  let t := s.tenant e.tenant
  storedWord t.cur g (mkMeta residual false t.curGen e.prot (g * 64)) data

/-- XOR of two byte lists. -/
def xorBytes (a b : List Byte) : List Byte := List.zipWith (· ^^^ ·) a b

/-- The stored word of a parity granule as it stands in the stack. -/
def State.parityKept (s : State) (p : Nat) : List Byte := mgetD s.ecc.words p zeroWord

/-- A parity granule is written whole: its word, its validity, and the end of the old word's soft errors (R234, R245). -/
def State.putParity (s : State) (p : Nat) (w : List Byte) : State :=
  ({ s with ecc := { s.ecc with words := mset s.ecc.words p w, errs := s.rewritten p } } : State).markWritten p

/-- The XOR of the stored words of granules, those at retired pseudo-channels left out (R245 to R247). -/
def State.wordsXor (s : State) (tenant : Nat) (gs : List Nat) : List Byte :=
  gs.foldl (fun w g => if s.pcRetired (pcOf (g * 64)) then w else xorBytes w (s.wordOf tenant g)) zeroWord

/-- The data members of a granule's group, as granules. -/
def Extent.mates (e : Extent) (g : Nat) : List Nat :=
  let (k, j) := groupOf (e.start * 65536) (g * 64)
  (groupMembers (e.start * 65536) (e.len * 128) k j).map (· / 64)

/-- The group's parity word follows the change of a member's stored word from `old`: P′ = P XOR C_old XOR C_new; for a lost
member the XOR of the surviving members' words and C_new (R245, R247). A rebuilt member itself stands in the parity location,
and the other members of its group leave that alone. -/
def State.parityFollows (s : State) (tenant g : Nat) (old : List Byte) : State :=
  match s.extentAt (g * 64) with
  | none => s
  | some (_, e) =>
    match e.parityOf g with
    | none => s
    | some p =>
      let new := s.wordOf tenant g
      if s.pcRetired (pcOf (p * 64)) then s
      else if s.isRebuilt g then s.putParity p new
      else if s.groupRebuilt e g then s
      else if s.pcRetired (pcOf (g * 64)) then s.putParity p (xorBytes (s.wordsXor tenant (e.mates g)) new)
      else s.putParity p (xorBytes (s.parityKept p) (xorBytes old new))

/-- The ECC block has handled a granule that a planned read found lost: the calling tenant has its fault entry, with DETAIL 1
when the granule was restored (R248). -/
def State.plannedDone (s : State) (g : Nat) (restored : Bool) : State :=
  let mine := s.ecc.planFaults.filter fun f => f.g = g
  if mine = [] then s
  else
    let s : State := { s with ecc := { s.ecc with planFaults := s.ecc.planFaults.filter fun f => f.g ≠ g } }
    mine.foldl (fun s f => s.asyncFault f.tenant Status.poisoned f.handle f.off (if restored then 1 else 0)) s

/-! ### Writing granules -/

/-- The content, metadata and validity of a granule written whole under the tenant's CURRENT key (R232, R344, R345).
Soft errors of the old word vanish with it, and so does its wait for reconstruction or poison: a newer write stands
(R232, R248). The parity of a STACK_PARITY group follows (R245). -/
def State.putGranule (s : State) (g tenant mode : Nat) (data : List Byte) (residual poison : Bool) : State :=
  let m := mkMeta residual poison (s.tenant tenant).curGen mode (g * 64)
  let remap := mapIf (fun e => e.1 = g) (fun e => (e.1, false)) s.ecc.remap
  let old := s.wordOf tenant g
  let s : State := { s with ecc := { s.ecc with
      mem := s.ecc.mem.write (g * 64) (fitBytes 64 data)
      gmeta := msetD s.ecc.gmeta g m 0
      errs := s.rewritten g
      remap := remap
      recon := s.ecc.recon.erase g } }
  let s := (s.markWritten g).plannedDone g false
  if mode = 1 ∨ mode = 4 then s.parityFollows tenant g old else s

/-- Poison a granule (R232): zero data under CURRENT, POISON set; counted, and a fault entry goes to its extent's
tenant. The write is conditional: a newer write of the granule drops it from its queue, and one that stands in a dirty cushion
line keeps it from being written. -/
def State.poisonWord (s : State) (g : Nat) (status : Nat := Status.poisoned) : State :=
  match s.extentAt (g * 64) with
  | none => s
  | some (i, e) =>
    if s.acc.lines.any fun c => c.line = g / 2 && c.dirty then s.plannedDone g false
    else
      let s := s.putGranule g e.tenant e.prot (List.replicate 64 0) false true
      let s := s.wqEnter g e.tenant true
      let s := s.count R.ECC_POISON_POISON_WRITES
      s.asyncFault e.tenant status (e.gen * 2 ^ 18 + i) (g * 64 - e.start * 65536) 0

/-! ### Reconstruction (R245 to R247) -/

/-- The group of a parity granule has lost two members: it is counted once, until it is protected again. -/
def State.groupLost (s : State) (p : Nat) : State :=
  if s.ecc.lostGroups.contains p then s
  else { s with ecc := { s.ecc with
    lostGroups := s.ecc.lostGroups ++ [p]
    groupsLost := min (s.ecc.groupsLost + 1) 0xFFFFFFFF } }

/-- A granule's tag does not match its extent and address, or its key is gone (Table 11.3 step 4). -/
def State.tagBad (s : State) (e : Extent) (g : Nat) : Bool :=
  let m := s.gmeta g
  metaMode m ≠ e.prot || metaAtag m ≠ atagOf (g * 64) || !(s.tenant e.tenant).hasGen (metaGen m)

/-- A group that has lost two members, `g` among them (R246 step 3): every lost member on an in-service pseudo-channel is
poisoned, and the parity is formed again over the group as it stands, unless a rebuilt member's word stands there (R247). -/
def State.poisonGroup (s : State) (e : Extent) (g : Nat) : State :=
  match e.parityOf g with
  | none => s.poisonWord g
  | some p =>
    let lost := (e.mates g).filter fun m =>
      s.written m && (m = g || s.lostWord (m * 64)) && !s.pcRetired (pcOf (m * 64))
    let s := lost.foldl (fun s m => s.poisonWord m) (s.groupLost p)
    if s.groupRebuilt e g ∨ s.pcRetired (pcOf (p * 64)) then s
    else
      let s := (s.putParity p (s.wordsXor e.tenant (e.mates g))).wqEnter p e.tenant true
      if (e.mates g).any fun m => s.written m && s.pcRetired (pcOf (m * 64)) then s
      else { s with ecc := { s.ecc with lostGroups := s.ecc.lostGroups.erase p } }

/-- The reads of a reconstruction, in ACCESS slots at their pseudo-channels (R246 step 1). -/
def State.groupReads (s : State) (e : Extent) (g : Nat) : State :=
  (s.groupSources e g).foldl (fun s m => s.queueStackRead m e.tenant) s

/-- Another member of a group is read for its stored word, through the steps of Table 11.3 (R228, R246): none when it is
uncorrectable. -/
def State.memberWord (s : State) (e : Extent) (m : Nat) : State × Option (List Byte) :=
  let s := s.vcacheTouch (m / 1024)
  if !s.written m then (s, some zeroWord)
  else if s.pcRetired (pcOf (m * 64)) then (s, none)
  else
    match s.decoded m with
    | (s, .lost) => (s.uncorrectable m, none)
    | (s, d) =>
      let s := if d = .fixed then s.corrected m else s
      if s.tagBad e m then ((s.count R.ECC_POISON_MISDIRECT).uncorrectable m, none) else (s, some (s.wordOf e.tenant m))

/-- A parity location is read for its stored word; parity carries no tag (R228). -/
def State.parityRead (s : State) (p : Nat) : State × Option (List Byte) :=
  let s := s.vcacheTouch (p / 1024)
  if s.pcRetired (pcOf (p * 64)) then (s, none)
  else if !s.written p then (s, some zeroWord)
  else
    match s.decoded p with
    | (s, .lost) => (s.uncorrectable p, none)
    | (s, .fixed) => let s := s.corrected p; (s, some (s.parityKept p))
    | (s, .clean) => (s, some (s.parityKept p))

/-- The XOR of the words of a list of members and of `w`: none when one of them is uncorrectable. -/
def State.membersXor (s : State) (e : Extent) (w : List Byte) : List Nat → State × Option (List Byte)
  | [] => (s, some w)
  | m :: t =>
    match s.memberWord e m with
    | (s, none) => (s, none)
    | (s, some x) => s.membersXor e (xorBytes w x) t

/-- The word that a granule's group gives for it: the XOR of the other members and the parity; of a rebuilt member what the
parity location holds (R246, R247). None when the group has lost two members. -/
def State.groupWord (s : State) (e : Extent) (g : Nat) : State × Option (List Byte) :=
  match e.parityOf g with
  | none => (s, none)
  | some p =>
    if s.isRebuilt g then s.parityRead p
    else if s.groupRebuilt e g then (s, none)
    else
      match s.parityRead p with
      | (s, none) => (s, none)
      | (s, some w) => s.membersXor e w ((e.mates g).filter (· ≠ g))

/-- A word from the group that decodes and passes the tag check is the granule's (R246 step 2). -/
def State.takeWord (s : State) (e : Extent) (g : Nat) (w : List Byte) : Option State :=
  match rsDecode w with
  | none => none
  | some w =>
    let m := BitVec.ofNat 16 (leNat ((w.drop 64).take 2))
    let t := s.tenant e.tenant
    if metaMode m ≠ e.prot ∨ metaAtag m ≠ atagOf (g * 64) ∨ !t.hasGen (metaGen m) then none
    else if w = s.wordOf e.tenant g then some s
    else some { s with ecc := { s.ecc with
      mem := s.ecc.mem.write (g * 64)
        (fitBytes 64 (Config.xtsDecrypt (t.keyOf (metaGen m)) (g % (awayBase / 64)) (metaGen m) (w.take 64)))
      gmeta := msetD s.ecc.gmeta g m 0 } }

/-- Reconstruction of a STACK_PARITY granule (R246): its word is formed from its group, written back and counted in RECON, or
its group has lost two members. DESIGN CHOICE (entry 68): a word that does not decode or fails the tag check counts as a
second loss. A rebuilt member is read from the parity location, which is no reconstruction (R247). The flag tells whether the
word was restored. -/
def State.reconstruct (s : State) (e : Extent) (g : Nat) : State × Bool :=
  let moved := s.isRebuilt g
  match (s.groupReads e g).groupWord e g with
  | (s, none) => (s.poisonGroup e g, false)
  | (s, some w) =>
    match s.takeWord e g w with
    | none => (s.poisonGroup e g, false)
    | some s =>
      let s := if moved then s else s.count R.ECC_COUNTS_RECON
      if s.pcRetired (pcOf (g * 64)) then (s, true)
      else
        let hard := match mget s.ecc.errs g with | some x => x.hard | none => false
        let s : State := { s with ecc := { s.ecc with errs := if hard then s.ecc.errs else mdel s.ecc.errs g } }
        let s := s.wqEnter g e.tenant true
        (if hard then s.hardFault g else s, true)

/-- A parity granule that cannot be corrected is formed anew from its members; where one of those is lost too, the group has
lost two members (R245, R246). -/
def State.remakeParity (s : State) (e : Extent) (p : Nat) (members : List Nat) : State :=
  let s := (members.filter s.written).foldl (fun s m => s.queueStackRead m e.tenant) s
  match s.membersXor e zeroWord members with
  | (s, some w) =>
    let hard := match mget s.ecc.errs p with | some x => x.hard | none => false
    let s := ((s.putParity p w).wqEnter p e.tenant true).count R.ECC_COUNTS_RECON
    if hard then s.hardFault p else s
  | (s, none) =>
    match members.find? fun m => s.written m && s.lostWord (m * 64) with
    | some m => s.poisonGroup e m
    | none => s

/-- Before a member of a STACK_PARITY group is written, the group's parity granule is read, and one that is uncorrectable is
first rebuilt from the rest of the group (R245). A rebuilt member's word is written over without a read (R247). -/
def State.parityFirst (s : State) (e : Extent) (g : Nat) (move : Option Nat) : State :=
  match e.parityOf g with
  | none => s
  | some p =>
    if s.isRebuilt g || s.groupRebuilt e g || s.pcRetired (pcOf (p * 64)) then s
    else
      let s := s.vcacheTouch (p / 1024)
      if !s.written p then s
      else
        match (s.queueStackRead p e.tenant move).decoded p with
        | (s, .lost) => (s.uncorrectable p).remakeParity e p (e.mates g)
        | (s, .fixed) => s.corrected p
        | (s, .clean) => s

/-- The parity granule of a STACK_PARITY group is written with its member, behind the read that its member's write has queued
(R245). A rebuilt member itself is written there, and the other members of its group leave it alone (R247). -/
def State.parityOut (s : State) (e : Extent) (g : Nat) (move : Option Nat) (key : Nat := 0) : State :=
  match e.parityOf g with
  | some p =>
    if s.isRebuilt g then s.writeOut p e.tenant false true move key
    else if s.groupRebuilt e g then s
    else s.writeOut p e.tenant true true move key
  | none => s

/-- Poison a granule; the parity of its group follows (R232, R245). -/
def State.poisonGranule (s : State) (g : Nat) (status : Nat := Status.poisoned) : State :=
  match s.extentAt (g * 64) with
  | some (_, e) => (((s.parityFirst e g none).poisonWord g status)).parityOut e g none
  | none => s

/-! ### Reading granules (Table 11.3) -/

/-- What a granule read gives: its 64 bytes, POISONED, or a need to fetch the word from another device (R330, R340). -/
inductive GRead where
  | data (bs : List Byte)
  | poisoned
  | remote
  deriving DecidableEq, Repr

/-- An uncorrectable or mismatched granule of an extent (Table 11.3 step 3, R231, R246, R330, R340). `fetched` lists
granules that another device has already been asked for. -/
def State.badGranule (s : State) (e : Extent) (g : Nat) (fetched : List Nat) : State × GRead :=
  let s := s.uncorrectable g
  if e.prot = 1 ∨ e.prot = 4 then
    let (s', ok) := s.reconstruct e g
    if ok then (s', if metaPoison (s'.gmeta g) then .poisoned else .data (s'.granule g))
    else if e.prot = 4 ∧ s.par.formed ∧ !(fetched.contains g) then (s, .remote)
    else (s', .poisoned)
  else if (e.prot = 2 ∧ s.par.formed ∨ e.prot = 3) ∧ !(fetched.contains g) then (s, .remote)
  else (s.poisonGranule g, .poisoned)

/-- Steps 3 and 4 of Table 11.3 on a granule's stored word: what ends the read there, or none. -/
def State.decodeStep (s : State) (e : Extent) (g : Nat) (fetched : List Nat) : State × Option GRead :=
  let stop := fun (a : State × GRead) => (a.1, some a.2)
  match s.decoded g with
  | (s, .lost) => stop (s.badGranule e g fetched)
  | (s, d) =>
    let s := if d = .fixed then s.corrected g else s
    if s.tagBad e g then
      stop ((s.count R.ECC_POISON_MISDIRECT).badGranule e g fetched)
    else (s, none)

/-- One granule read of an extent, through the steps of Table 11.3. -/
def State.readGranule (s : State) (e : Extent) (g : Nat) (fetched : List Nat) : State × GRead :=
  if awayBase ≤ g * 64 then                                             -- R341
    if fetched.contains g then (s, if metaPoison (s.gmeta g) then .poisoned else .data (s.granule g)) else (s, .remote)
  else if s.pcRetired (pcOf (g * 64)) then
    -- R222, R247, R330
    if e.prot = 0 then (s, .poisoned)
    else
    let s := s.vcacheTouch (g / 1024)
    if !s.written g then (s, .data (List.replicate 64 0))
    else if (e.prot = 1 ∨ e.prot = 4) ∧ s.groupGives e g then
      let s := (s.reconstruct e g).1
      (s, if metaPoison (s.gmeta g) then .poisoned else .data (s.granule g))
    else if fetched.contains g then (s, if metaPoison (s.gmeta g) then .poisoned else .data (s.granule g))
    else if (e.prot = 2 ∨ e.prot = 4) ∧ s.par.formed ∨ e.prot = 3 then (s, .remote)
    else (s, .poisoned)
  else
    let s := s.vcacheTouch (g / 1024)
    if !s.written g then (s, .data (List.replicate 64 0))               -- step 2
    else
      match s.decodeStep e g fetched with                                -- steps 3 and 4
      | (s, some x) => (s, x)
      | (s, none) =>
        let spareBad := s.ecc.remap.any fun x => x.1 = g && x.2         -- step 1: a spare with a poisoned word
        if spareBad ∨ metaPoison (s.gmeta g) then                        -- step 5
          if (e.prot = 2 ∨ e.prot = 4) ∧ s.par.formed ∧ !(fetched.contains g) then (s, .remote) else (s, .poisoned)
        else (s, .data (s.granule g))                                    -- step 6

/-- Queue the read of a granule of an extent: one that has been written is read from its stack. -/
def State.queueRead (s : State) (g tenant : Nat) (move : Option Nat := none) : State :=
  let s := s.vcacheTouch (g / 1024)
  if s.written g then s.queueStackRead g tenant move else s

/-- The granule is read from its stack: it has been written, its word lies there, and no write of it waits in the queue. -/
def State.fromStack (s : State) (g : Nat) : Bool := s.written g && !s.offStack g && !s.inWq g

end Sys2Proof.Machine
end

