-- ==== Sys2Proof/Machine/Cushion.lean ====
section
/-! DEFINITION. The cushion and hints (R139 to R142), the ranges that a request touches, and the reading and writing of
ranges of an extent: merging, write-through, mirrored and parity copies (R18, R122 to R125, R138, R140, R245, R340). -/

namespace Sys2Proof.Machine

/-! ### Calls' marks on extents -/

/-- A queued call holds the extent recall-marked (R112). -/
def State.recallMarked (s : State) (i : Nat) : Bool :=
  s.seq.calls.any fun c => !c.locked && c.binds.any fun b => b.rows ≠ 0 && b.index = i

/-- An admitted call holds the extent locked (R30, R113). -/
def State.locked (s : State) (i : Nat) : Bool :=
  s.seq.calls.any fun c => c.locked && c.binds.any fun b => b.rows ≠ 0 && b.index = i

/-- The device bytes of a call slot's rows hold some byte of the line. -/
def Bind.touches (b : Bind) (line : Nat) : Bool :=
  b.rows ≠ 0 && (
    let a := b.base + b.off
    let x := line * 128
    if b.rows = 1 ∨ b.stride = 0 then a < x + 128 && x < a + b.rowLen
    else
      a < x + 128 &&
        (let r := min ((x + 127 - a) / b.stride) (b.rows - 1)
         x < a + r * b.stride + b.rowLen))

/-- A call holds the line by a CUSH slot: it is not evicted until the call has completed (R111). -/
def State.cushHeld (s : State) (line : Nat) : Bool :=
  s.seq.calls.any fun c => c.binds.any fun b => b.cush && b.touches line

/-- Mark the present lines of a unit as its pin stands. Lines that a call holds by a CUSH slot stay pinned until it has
completed (R111). -/
def State.syncPins (s : State) (u : Nat) : State :=
  let b := (mget s.acc.pins u).isSome
  let sync := mapIf (fun (c : CLine) => c.line / 512 = u && (b || !s.cushHeld c.line)) fun c => { c with pinned := b }
  s.accUp fun a => { a with lines := sync a.lines }

/-! ### Hints and cushion lines -/

/-- HINT codes. -/
def hintNormal : Nat := 0
def hintHot : Nat := 1
def hintPin : Nat := 2
def hintCold : Nat := 3

/-- Cushion set of a line number. -/
def cushSet (line : Nat) : Nat := Config.cushionSet line % 524288

/-- The line with this number, when the cushion holds it under these tags (R37). -/
def State.cline (s : State) (i : Nat) (e : Extent) (line : Nat) : Option CLine :=
  s.acc.lines.find? fun c => c.line = line && c.index = i && c.gen = e.gen && c.tenant = e.tenant

/-- Ways in which a tenant allocates (R142). -/
def State.waysOf (s : State) (t : Nat) : List Nat :=
  if s.strict then
    let m := s.fld (R.ACC_TCUSH_WAY_MASK.at (0x10 * t))
    (List.range 16).filter fun w => m.testBit w
  else List.range 16

/-- The effective hint of a 64 KiB unit of an extent (R139); every request of a tenant that has no way acts as COLD
(R142). -/
def State.effHint (s : State) (e : Extent) (u : Nat) : Nat :=
  if s.waysOf e.tenant = [] then hintCold else mgetD s.acc.hints u e.hint

/-- Remove a line. -/
def State.dropLine (s : State) (line : Nat) : State :=
  { s with acc := { s.acc with lines := s.acc.lines.filter fun c => c.line ≠ line } }

/-- A granule of a cushion line is read (R237): a single-bit error is corrected and written back; one of two bits loses the
line, and a dirty line's granules are then poisoned in the stack. -/
def State.cushLook (s : State) (g : Nat) : State :=
  let n := s.sramBits (.cush g)
  if n = 0 then s
  else
    let s := s.sramDrop (· = .cush g)
    match s.acc.lines.find? fun c => c.line = g / 2 with
    | none => s
    | some c =>
      if n = 1 then s
      else if c.dirty then ((s.dropLine c.line).poisonGranule (2 * c.line)).poisonGranule (2 * c.line + 1)
      else s.dropLine c.line

/-- The cushion holds the line. -/
def State.holdsLine (s : State) (line : Nat) : Bool := s.acc.lines.any fun c => c.line = line

/-- A dirty line's two granules enter the write queues (R140). -/
def State.writeBack (s : State) (c : CLine) : State :=
  if c.dirty then
    let t := (s.cushLook (2 * c.line)).cushLook (2 * c.line + 1)
    if s.holdsLine c.line && !t.holdsLine c.line then t
    else (t.wqEnter (2 * c.line) c.tenant false).wqEnter (2 * c.line + 1) c.tenant false
  else s

/-- Mark a line clean. -/
def State.cleanLine (s : State) (line : Nat) : State :=
  { s with acc := { s.acc with lines := mapIf (fun c => c.line = line) (fun c => { c with dirty := false }) s.acc.lines } }

/-- The way for a new line of tenant `t` in a set, and the line it evicts: a free permitted way, else that of the
least recent unpinned line (in strict mode, of the tenant's own) in a permitted way (R142, Table 6.4). -/
def State.victim (s : State) (t set : Nat) : Option (Nat × Option CLine) :=
  let ways := s.waysOf t
  let inSet := s.acc.lines.filter fun c => cushSet c.line = set
  match ways.find? (fun w => !(inSet.any fun c => c.way = w)) with
  | some w => some (w, none)
  | none =>
    match inSet.reverse.find? (fun c => !c.pinned && !s.cushHeld c.line && ways.contains c.way && (!s.strict || c.tenant = t)) with
    | some c => some (c.way, some c)
    | none => none

/-- Insert a line in its set's recency order: most recent, or as NORMAL does (Table 6.4, `ACC_CFG.NORMAL_MID`). -/
def State.insertLine (s : State) (c : CLine) (hint : Nat) : State :=
  let s := s.sramDrop fun x => x = .cush (2 * c.line) || x = .cush (2 * c.line + 1)
  let set := cushSet c.line
  let inSet := s.acc.lines.filter fun x => cushSet x.line = set
  let rest := s.acc.lines.filter fun x => cushSet x.line ≠ set
  let k := if hint = hintHot ∨ hint = hintPin then 0
    else if s.fld R.ACC_CFG_NORMAL_MID = 1 then inSet.length / 2 else inSet.length
  { s with acc := { s.acc with lines := inSet.take k ++ c :: inSet.drop k ++ rest } }

/-- Allocate a line for an extent under its hint (R140, R142). With no way to take, nothing is allocated and the
request acts as under COLD. The flag tells whether the line is there afterwards. -/
def State.allocLine (s : State) (i : Nat) (e : Extent) (line : Nat) (dirty : Bool) : State × Bool :=
  let u := line / 512
  let h := s.effHint e u
  if h = hintCold ∨ s.recallMarked i then (s, false)
  else
    match s.victim e.tenant (cushSet line) with
    | none => (s, false)
    | some (w, ev) =>
      let s := match ev with
        | some c => (s.writeBack c).dropLine c.line
        | none => s
      let pinned := h = hintPin && (mget s.acc.pins u).isSome
      (s.insertLine ⟨line, w, e.tenant, i, e.gen, dirty, pinned⟩ h, true)

/-- Move a line to the most recent place of its order. -/
def State.touchLine (s : State) (c : CLine) : State :=
  { s with acc := { s.acc with lines := c :: s.acc.lines.filter fun x => x.line ≠ c.line } }

/-! ### Reading a range -/

/-- Granule numbers that device bytes `[a, a + n)` touch. -/
def granulesOf (a n : Nat) : List Nat :=
  if n = 0 then [] else (List.range ((a + n - 1) / 64 - a / 64 + 1)).map (· + a / 64)

/-- Line numbers that device bytes `[a, a + n)` touch. -/
def linesOf (a n : Nat) : List Nat :=
  if n = 0 then [] else (List.range ((a + n - 1) / 128 - a / 128 + 1)).map (· + a / 128)

/-- What the reads of a range give. -/
inductive RangeRead where
  | ok
  | poisoned (g : Nat)
  | remote (gs : List Nat)
  deriving DecidableEq, Repr

/-- A granule of a PLAIN extent at a retired pseudo-channel (R222): nothing serves it. -/
def State.shutPlain (s : State) (e : Extent) (g : Nat) : Bool := e.prot = 0 && g * 64 < awayBase && s.pcRetired (pcOf (g * 64))

/-- Read one granule where the range finds it: in the cushion, else in its stack. -/
def State.readOne (s : State) (i : Nat) (e : Extent) (g : Nat) (fetched : List Nat) (move : Option Nat := none) :
    State × GRead :=
  if s.shutPlain e g then (s, .poisoned) else
  let s := s.cushLook g
  match s.cline i e (g / 2) with
  | some c =>
    let s := s.touchLine c
    (s, if s.written g && metaPoison (s.gmeta g) then .poisoned else .data (s.granule g))
  | none => (s.queueRead g e.tenant move).readGranule e g fetched

/-- Read granules in ascending order. The first poisoned one ends it; granules to fetch from another device are
gathered. -/
def State.readAll (s : State) (i : Nat) (e : Extent) (gs : List Nat) (fetched : List Nat) (move : Option Nat := none) :
    State × RangeRead :=
  match gs with
  | [] => (s, .ok)
  | g :: t =>
    match s.readOne i e g fetched move with
    | (s, .poisoned) => (s, .poisoned g)
    | (s, .data _) => s.readAll i e t fetched move
    | (s, .remote) =>
      match s.readAll i e t fetched move with
      | (s, .ok) => (s, .remote [g])
      | (s, .remote l) => (s, .remote (g :: l))
      | (s, .poisoned g') => (s, .poisoned g')

/-- The granules of a line that stand in no list, read so that the line can be filled whole: false when one is poisoned or
not here (R140). -/
def State.fillRest (s : State) (i : Nat) (e : Extent) (line : Nat) (gs : List Nat) : State × Bool :=
  ([2 * line, 2 * line + 1].filter fun g => !gs.contains g).foldl (fun (acc : State × Bool) g =>
    match acc.1.readOne i e g [] with
    | (s, .data _) => (s, acc.2)
    | (s, _) => (s, false)) (s, true)

/-- Fill the absent lines of a range, whose granules `gs` have been read, after a read under HOT_PIN, HOT or NORMAL
(Table 6.4). A line with a poisoned granule is not filled. -/
def State.fillLines (s : State) (i : Nat) (e : Extent) (lines : List Nat) (gs : List Nat) : State :=
  lines.foldl (fun s l =>
    if (s.cline i e l).isSome ∨ s.effHint e (l / 512) = hintCold ∨ s.recallMarked i then s
    else if (s.victim e.tenant (cushSet l)).isNone then s
    else match s.fillRest i e l gs with
      | (s, true) => (s.allocLine i e l false).1
      | (s, false) => s) s

/-- Read `n` device bytes at `a` in an extent, without allocation. -/
def State.readRange (s : State) (i : Nat) (e : Extent) (a n : Nat) (fetched : List Nat) : State × RangeRead :=
  s.readAll i e (granulesOf a n) fetched

/-! ### Copies on other devices (R18, R329, R340) -/

/-- Send a mirrored record to the partner, whose acknowledgement the answer kept under `park` waits for (R18, R329): data of
a write, or the replay record of an atomic. While the partner has failed and the set has not been fenced yet, the record
is owed all the same. -/
def State.mirrorSend (s : State) (i kind off : Nat) (data : List Byte) (replay : Option EpochEntry) (park : Nat) : State :=
  let k := setOfIndex i
  let msg := Sent.mirror k kind (s.pset k).term (off % awayBase) data replay
  if (s.standby k || (s.pset k).filling) && s.par.formed then s.mirrorOut park off msg
  else if s.standby k then s.peerOwe partnerPeer (.mirror park) off msg
  else s

/-- The five devices of the ring-parity group in use, and this device's place in it (R339). -/
def State.rpMember (s : State) (j : Nat) : Nat := s.fld (R.PAR_RPG_MEMBER.up (8 * j))

/-- The position of the partner in the ring-parity group; this device's own when it is no member. -/
def State.partnerPos (s : State) : Nat :=
  ((List.range 5).find? fun j => s.rpMember j = s.fld R.PAR_CFG_PARTNER).getD (s.fld R.PAR_RPG_POS)

/-- The position of the member that an address belongs to: this device, or its partner. -/
def State.rpPos (s : State) (a : Nat) : Nat := if awayBase ≤ a then s.partnerPos else s.fld R.PAR_RPG_POS

/-- The parity member and parity offset of a data address of a ring-parity group (R339): unit 4j + ((m − q − 1) mod 5)
of member m belongs to the group whose parity is unit j of member q. -/
def State.rpHome (s : State) (a : Nat) : Nat × Nat :=
  let x := a % awayBase - s.fld R.PAR_RPR_D_BASE * 65536
  let u := x / 65536
  ((s.rpPos a + 9 - u % 4) % 5, s.fld R.PAR_RPP_P_BASE * 65536 + u / 4 * 65536 + x % 65536)

/-! ### Writing a range -/

/-- Granules of `[a, a + n)` that a write covers only in part. -/
def partialGranules (a n : Nat) : List Nat :=
  (granulesOf a n).filter fun g => g * 64 < a || a + n < (g + 1) * 64

/-- Whether a write to a granule can be made: not at a retired pseudo-channel in a PLAIN extent (R222), and not to a
lost member of a rebuilt or doubly damaged group (R247). -/
def State.writable (s : State) (e : Extent) (g : Nat) : Bool :=
  if awayBase ≤ g * 64 || !s.pcRetired (pcOf (g * 64)) then true
  else if e.prot = 0 then false
  else if e.prot = 2 ∨ e.prot = 3 then true
  else s.groupGives e g || e.prot = 4

/-- The granule's bytes with bytes of `bs`, which start at device address `a`, laid over them. -/
def mergeGranule (old : List Byte) (g a : Nat) (bs : List Byte) : List Byte :=
  (List.range 64).map fun k =>
    let x := g * 64 + k
    if a ≤ x ∧ x < a + bs.length then bs.getD (x - a) 0 else old.getD k 0

/-- How a write treats the residual flag of a granule (R138): cleared, set, or kept. -/
inductive Residual where
  | clear | set | keep
  deriving DecidableEq, Repr

/-- What a request writes by: the key of its answer, whether it is an atomic or an accumulate, the MOVE whose chunk it is,
and the granules that it has read (R125, R127, R128). -/
structure Writer where
  key : Nat
  atomic : Bool
  move : Option Nat
  own : List Nat
  deriving DecidableEq, Repr

/-- A write with no answer of its own that has read nothing. -/
def plainWriter : Writer := ⟨0, false, none, []⟩

/-- A write of a STACK_PARITY or RING_PARITY granule needs the old stored word (R245, R340). -/
def Extent.needsOld (e : Extent) : Bool := e.prot = 1 || e.prot = 3 || e.prot = 4

/-- The granules that a write of device bytes `[a, a + n)` reads: those covered in part, and where parity is kept all. -/
def Extent.ownReads (e : Extent) (a n : Nat) : List Nat := if e.needsOld then granulesOf a n else partialGranules a n

/-- The cushion takes the write of a line of a PLAIN extent: under a hint other than COLD, where the line is present or
finds a way; not in a recall-marked extent (R112, R140). -/
def State.absorbs (s : State) (i : Nat) (e : Extent) (line : Nat) : Bool :=
  e.prot = 0 && !s.recallMarked i && s.effHint e (line / 512) ≠ hintCold &&
    ((s.cline i e line).isSome || (s.victim e.tenant (cushSet line)).isSome)

/-- A write of an atomic or an accumulate allocates its absent line, left clean where it is written through (R127, R140): under
every hint but COLD, where the line finds a way. -/
def State.allocates (s : State) (i : Nat) (e : Extent) (line : Nat) : Bool :=
  !s.recallMarked i && s.effHint e (line / 512) ≠ hintCold && (s.cline i e line).isNone && (s.victim e.tenant (cushSet line)).isSome

/-- Of granules that a request writes, those whose writes enter a write queue at once, with parity granules: not those that
the cushion takes, nor those whose write follows the request's own read. -/
def State.writeNeeds (s : State) (i : Nat) (e : Extent) (gs : List Nat) (w : Writer) : List Nat :=
  (gs.filter fun g => e.prot ≠ 3 && (w.move.isSome || !s.absorbs i e (g / 2)) && !(w.own.contains g && s.fromStack g)) ++
    (gs.filterMap e.parityOf).filter s.inWq

/-- The reads that a write needs (R125, R140, R245, R340): the granules that it covers in part, of which a poisoned one ends
it; the old words behind parity, where poison does not matter; and the rest of the lines that the cushion takes, or that an
`atomic` fills, under COLD only to discard them (R127). -/
def State.writeReads (s : State) (i : Nat) (e : Extent) (gs part : List Nat) (fetched : List Nat)
    (move : Option Nat := none) (atomic : Bool := false) : State × RangeRead :=
  match s.readAll i e part fetched move with
  | (s, .ok) =>
    let old := gs.filter fun g => e.needsOld && !part.contains g
    let (s, away) := old.foldl (fun (acc : State × List Nat) g =>
      match (acc.1.queueRead g e.tenant move).readGranule e g fetched with
      | (s, .remote) => (s, acc.2 ++ [g])
      | (s, _) => (s, acc.2)) (s, [])
    if away ≠ [] then (s, .remote away)
    else if move.isSome then (s, .ok)
    else
      let new := ((gs.map (· / 2)).eraseDups).filter fun l =>
        (atomic && !s.recallMarked i || s.absorbs i e l) && (s.cline i e l).isNone
      (new.foldl (fun s l => (s.fillRest i e l gs).1) s, .ok)
  | x => x

/-- The write of one whole granule takes effect: content, metadata, validity and parity, then the cushion and the write queue
(R112, R123, R128, R140, R245). -/
def State.placeGranule (s : State) (i : Nat) (e : Extent) (g : Nat) (data : List Byte) (residual : Bool) (w : Writer) :
    State :=
  let line := g / 2
  let present := (s.cline i e line).isSome
  let own := w.own.contains g
  let s := if e.prot = 3 ∧ awayBase ≤ g * 64 then
      s.parUp fun p => { p with rpWords := mset p.rpWords g (s.newWord e g data residual) }
    else s
  let s := ((s.parityFirst e g w.move).putGranule g e.tenant e.prot data residual false).parityOut e g w.move w.key
  if s.recallMarked i then (s.dropLine line).writeOut g e.tenant own (e.needsOld || w.atomic) w.move w.key
  else if e.prot = 0 ∧ w.move.isNone ∧ s.effHint e (line / 512) ≠ hintCold then
    if present then
      (s.sramDrop (· = .cush g)).accUp fun a =>
        { a with lines := mapIf (fun c => c.line = line) (fun c => { c with dirty := true }) a.lines }
    else
      match s.allocLine i e line true with
      | (s, true) => s
      | (s, false) => s.writeOut g e.tenant own w.atomic w.move w.key
  else
    let s := if w.atomic && s.allocates i e line then (s.allocLine i e line false).1 else s
    s.writeOut g e.tenant own (e.needsOld || w.atomic) w.move w.key

/-- Write one granule whole. That of a RING_PARITY extent takes effect with the answer of its parity member, to which the
change of the stored word goes, unless that member is lost (R340, R341). -/
def State.writeGranule (s : State) (i : Nat) (e : Extent) (g : Nat) (data : List Byte) (res : Residual) (w : Writer) :
    State :=
  let residual := match res with
    | .clear => false | .set => true
    | .keep => s.written g && metaResidual (s.gmeta g)
  let (q, off) := s.rpHome (g * 64)
  if e.prot ≠ 3 ∨ (s.fld R.PAR_RPG_LOST).testBit q then s.placeGranule i e g data residual w
  else
    let old := if awayBase ≤ g * 64 then mgetD s.par.rpWords g (List.replicate 72 0) else s.wordOf e.tenant g
    s.peerSend (s.rpMember q) (.rpUpdate w.key ⟨i, g, data, residual, w.atomic, w.move⟩) off
      (.rpUpdate (s.rpMember q) off (xorBytes old (s.newWord e g data residual)))

/-- The parity member has answered, or is lost: the write takes effect, for the answer `key` (R123, R340). -/
def State.ringPut (s : State) (key : Nat) (x : RingPut) : State :=
  match s.extentAt (x.g * 64) with
  | some (i, e) => if i = x.i then s.placeGranule i e x.g x.data x.residual ⟨key, x.atomic, x.move, []⟩ else s
  | none => s

/-- Write device bytes `bs` at `a`: granule by granule in ascending order, each whole (R122). -/
def State.writeGranules (s : State) (i : Nat) (e : Extent) (a : Nat) (bs : List Byte) (res : Residual) (w : Writer)
    (gs : List Nat) : State :=
  gs.foldl (fun s g =>
    let old := if s.written g then s.granule g else List.replicate 64 0
    s.writeGranule i e g (mergeGranule old g a bs) res w) s

/-! ### Granules read from other devices (R330, R340) -/

/-- Ask the other devices for one granule of an extent: the partner for a mirrored extent, the three other data
members and the parity member for a RING_PARITY extent. -/
def State.askRemote (s : State) (key i : Nat) (e : Extent) (g : Nat) : State :=
  if e.prot = 3 then
    let (q, poff) := s.rpHome (g * 64)
    let x := g * 64 % awayBase - s.fld R.PAR_RPR_D_BASE * 65536
    let self := s.rpPos (g * 64)
    let others := (List.range 5).filter fun m => m ≠ q && m ≠ self
    let offOf := fun (m : Nat) =>
      s.fld R.PAR_RPR_D_BASE * 65536 + (x / 65536 / 4 * 4 + (m + 9 - q) % 5) * 65536 + x % 65536
    let s := others.foldl (fun s m => s.emit (.rpRead (s.rpMember m) (offOf m) false)) s
    s.peerSend (s.rpMember q) (.rpRead key) (g * 64) (.rpRead (s.rpMember q) poff true)
  else
    let k := setOfIndex i
    s.peerSend partnerPeer (.read key) (g * 64) (.pairRead k (s.pset k).term (g * 64) 1)

/-- Hold a request until other devices have answered for its lost granules; it then starts again with them marked as
fetched. -/
def State.fetchFor (s : State) (r : Req) (i : Nat) (e : Extent) (gs : List Nat) : State :=
  let (key, s) := s.newKey
  let r := { r with fetched := r.fetched ++ gs, begun := true }
  let s := s.parUp fun p => { p with fetches := p.fetches ++ [(key, r, gs.length)] }
  gs.foldl (fun s g => s.askRemote key i e g) s

/-- One answer for the held request `key` has come: a good copy, with its residual flag, is written back, a lost one poisons
the granule (R138, R330, R231). The request starts again after the last. -/
def State.fetched (s : State) (key g : Nat) (data : Option (List Byte × Bool)) : State :=
  let s := match s.extentAt (g * 64), data with
    | some (_, e), some (bs, residual) =>
      let s := s.plannedDone g true
      if s.pcRetired (pcOf (g * 64)) && g * 64 < awayBase then
        s.eccUp fun x => { x with
          mem := x.mem.write (g * 64) (fitBytes 64 bs)
          gmeta := if e.prot = 3 then mset x.gmeta g (mkMeta residual false (s.tenant e.tenant).curGen e.prot (g * 64))
            else x.gmeta }
      else (((s.parityFirst e g none).putGranule g e.tenant e.prot bs residual false).parityOut e g none).wqEnter g e.tenant true
    | some _, none => (s.poisonGranule g).plannedDone g false
    | none, _ => s.plannedDone g false
  match s.par.fetches.find? (fun f => f.1 = key) with
  | none => s
  | some f =>
    if f.2.2 ≤ 1 then
      let s := s.parUp fun p => { p with fetches := p.fetches.filter fun x => x.1 ≠ key }
      s.dirUp fun d => { d with ready := d.ready ++ [f.2.1] }
    else s.parUp fun p => { p with fetches := mapIf (fun x => x.1 = key) (fun x => (x.1, x.2.1, x.2.2 - 1)) p.fetches }

end Sys2Proof.Machine
end

