-- ==== Sys2Proof/Machine/RegStore.lean ====
section
/-! DEFINITION. How a register write stores its fields (R406, R409 to R411, R416): the range check of each field, the
rules that act at the write, reserved bits, held and direct registers, and the record of each clamp. -/

namespace Sys2Proof.Machine

/-- Clamp kinds (Table 19.4). -/
def kHigh : Nat := 1
def kLow : Nat := 2
def kEnum : Nat := 3
def kReserved : Nat := 4
def kCross : Nat := 5
def kState : Nat := 6
def kStray : Nat := 7
def kLocked : Nat := 8
def kValue : Nat := 9

/-- The source number of an APPLY in a clamp record (Table 19.8). -/
def srcApply : Nat := 5

/-- The page of a window offset. -/
def pageOf (off : Nat) : Nat := off / 0x1000

/-- The page is locked (R416). -/
def State.pageLocked (s : State) (page : Nat) : Bool := s.fld (R.PG_LOCK_LOCK.at (page * 0x1000)) = 1

/-! ### Rules that act at the write (R411 step 1) -/

/-- Physical frond `p` (Table 4.10 before any event). -/
def State.phys (s : State) (p : Nat) : Phys :=
  mgetD s.frd p (if p = 64 then ⟨1, 127, 0, 0⟩ else ⟨0, p, 0, 0⟩)

/-- Fronds in ACTIVE. -/
def State.activeFronds (s : State) : Nat := ((List.range 65).filter fun p => (s.phys p).st = 0).length

/-- Bits of the value that a CRC algorithm gives (Table 11.6). -/
def algWidth (alg : Nat) : Nat := if alg = 2 then 64 else if alg = 3 then 16 else 32

/-- The rule of its chapter that decides what a field stores when it is written, with the kind of the record; none when
the field is only range-checked. `w` is the whole word written. -/
def State.writeRule (s : State) (f : Fd) (v w : Nat) : Option (Nat × Nat) :=
  let page := pageOf f.off
  let o := f.off % 0x1000
  if f.off = 0x13100 then                                 -- XLT_DEV_INDEX.DEV_INDEX (Table 2.8)
    if s.xlt.extents ≠ [] ∨ s.xlt.quarantine ≠ [] then some (s.fld f, kState) else none
  else if f.off = 0x12110 ∧ f.lsb = 0 then               -- FRD_RETIRE.PHYS (Table 4.9)
    if v ≤ 64 ∧ (s.phys v).st = 0 ∧ s.activeFronds ≤ 1 then some (0, kState) else none
  else if f.off = 0x2118 then some (s.fld f ||| v, kState)   -- PWR_BOOT.STACKS_OK: bits set only (R398)
  else if f.off = 0x30120 ∧ f.lsb = 8 then               -- PRT_HCFG.PRIV (R277)
    if v = 1 ∧ bitsOf w 7 1 = 0 then some (0, kValue) else none
  else if f.off = 0x30100 ∧ f.lsb = 0 then               -- PRT_IPT_CFG.UDP_PORT (Table 12.7)
    if v = 4791 then some (49871, kValue) else none
  else if 40 ≤ page ∧ page ≤ 47 ∧ (o = 0x200 ∨ o = 0x240 ∨ o = 0x280 ∨ o = 0x2C0) then   -- PRT_MAC_s.MAC (R438)
    if bitsOf v 40 1 = 1 then some (s.fld f, kValue) else none
  else if page = 25 ∧ o % 0x40 = 0x08 ∧ 0x540 ≤ o then   -- CRC_EXPECT_u.EXPECT (Table 11.13)
    some (v % 2 ^ algWidth (s.fld (R.CRC_CTRL_ALG.at (o - 0x208))), kState)
  else none

/-! ### One field -/

/-- What a written value becomes in an RW field, and the kind of its clamp (R411). -/
def State.clampField (s : State) (f : Fd) (v w : Nat) : Nat × Nat :=
  match s.writeRule f v w with
  | some (x, k) => (x, if x = v then 0 else k)
  | none =>
    match f.safe with
    | some d => if f.hi < v ∨ v < f.lo then (d, kEnum) else (v, 0)
    | none => if f.hi < v then (f.hi, kHigh) else if v < f.lo then (f.lo, kLow) else (v, 0)

/-! ### Reserved bits -/

/-- The bits of a register word that its fields cover. -/
def coverMask (fs : List Fd) : Nat := fs.foldl (fun m f => m ||| ((2 ^ f.w - 1) * 2 ^ f.lsb)) 0

/-- The maximal runs of bits outside a mask, as (lowest bit, width). -/
def gapsOf (m : Nat) : List (Nat × Nat) :=
  (List.range 64).foldl (fun acc b =>
    if m.testBit b then acc
    else match acc.reverse with
      | [] => [(b, 1)]
      | (l, w) :: t => if l + w = b then t.reverse ++ [(l, w + 1)] else acc ++ [(b, 1)]) []

/-- The maximal runs of reserved bits of a register. -/
def reservedRuns (fs : List Fd) : List (Nat × Nat) := gapsOf (coverMask fs)

/-- The lowest bit of `w` set in a run. -/
def lowestIn (w : Nat) (run : Nat × Nat) : Option Nat :=
  ((List.range run.2).find? fun k => w.testBit (run.1 + k)).map (· + run.1)

/-! ### A whole write -/

/-- The places of a register at which a write can be clamped, in ascending bit order: a field, or a run of reserved
bits. -/
inductive Part where
  | field (f : Fd)
  | gap (lsb w : Nat)
  deriving DecidableEq, Repr

def Part.lsb : Part → Nat
  | .field f => f.lsb
  | .gap l _ => l

/-- Insert in ascending bit order. -/
def insertPart (p : Part) (l : List Part) : List Part :=
  match l with
  | [] => [p]
  | q :: t => if p.lsb < q.lsb then p :: q :: t else q :: insertPart p t

/-- The parts of a register. -/
def partsOf (r : Rg) : List Part :=
  ((r.fields.map Part.field) ++ (reservedRuns r.fields).map fun g => Part.gap g.1 g.2).foldl (fun l p => insertPart p l) []

/-- The new word of the RW bits and the clamps of a write: FIELD number and kind of each, in ascending bit order. -/
def State.writeParts (s : State) (off : Nat) (cur w : Nat) (ps : List Part) : Nat × List (Nat × Nat) :=
  let page := pageOf off
  let base := off % 0x1000 / 8 * 64
  ps.foldl (fun (acc : Nat × List (Nat × Nat)) p =>
    match p with
    | .gap l n =>
      match lowestIn w (l, n) with
      | some b => (acc.1, acc.2 ++ [(base + b, kReserved)])
      | none => acc
    | .field f =>
      if f.acc = .rw then
        if off % 0x1000 = 0x028 then                       -- PG_EVT_ENABLE: reserved bits of PG_EVT_STATUS store 0
          let bad := w &&& (2 ^ 64 - 1 - evtMask page)
          (w &&& evtMask page,
            match lowestIn bad (0, 64) with
            | some b => acc.2 ++ [(base + b, kReserved)]
            | none => acc.2)
        else
          let (v, k) := s.clampField f (bitsOf w f.lsb f.w) w
          (setBitsOf acc.1 f.lsb f.w v, if k = 0 then acc.2 else acc.2 ++ [(base + f.lsb, k)])
      else if off % 0x1000 = 0x020 then                    -- PG_EVT_STATUS: bits that no event is assigned to
        (acc.1, acc.2 ++ (gapsOf (evtMask page)).filterMap fun g => (lowestIn w g).map fun b => (base + b, kReserved))
      else acc) (cur, [])

/-- Where a register word is kept: PRT_HCFG and PRT_HADDR belong to the holder that `PRT_HSEL` selects (R277), every
other word to itself. -/
def State.putWord (s : State) (off : Nat) (w : Word64) : State :=
  let h := s.fld R.PRT_HSEL_HOLDER
  if off = 0x30120 then { s with prt := { s.prt with hcfg := mset s.prt.hcfg h w } }
  else if off = 0x30128 then
    let a := BitVec.ofNat 128 (w.toNat * 2 ^ 64 + (mgetD s.prt.haddr h 0).toNat % 2 ^ 64)
    { s with prt := { s.prt with haddr := mset s.prt.haddr h a } }
  else if off = 0x30130 then
    let a := BitVec.ofNat 128 ((mgetD s.prt.haddr h 0).toNat / 2 ^ 64 * 2 ^ 64 + w.toNat)
    { s with prt := { s.prt with haddr := mset s.prt.haddr h a } }
  else s.setWord off w

/-- The word that a write of a direct register replaces. -/
def State.getWord (s : State) (off : Nat) : Word64 :=
  let h := s.fld R.PRT_HSEL_HOLDER
  if off = 0x30120 then mgetD s.prt.hcfg h 0
  else if off = 0x30128 then BitVec.ofNat 64 ((mgetD s.prt.haddr h 0).toNat / 2 ^ 64)
  else if off = 0x30130 then BitVec.ofNat 64 ((mgetD s.prt.haddr h 0).toNat)
  else s.word off

/-- The field with its lowest bit at `bit` of the register at `off` is an argument of an extent command: OP, TENANT and INDEX of
`XLT_CMD`, and every field of `XLT_CMD_ARG0` and `XLT_CMD_ARG1` (R40). -/
def isXltArg (off bit : Nat) : Bool := (off = 0x13110 && bit < 28) || off = 0x13118 || off = 0x13120

/-- Make the records of a write's clamps; a clamp of an extent command's argument is remembered until the next GO
(R40). -/
def State.recordClamps (s : State) (off source : Nat) (written stored : Word64) (cs : List (Nat × Nat)) : State :=
  let s := cs.foldl (fun s c => recordClamp s (pageOf off) c.1 c.2 source written stored) s
  if cs.any (fun c => isXltArg off (c.1 % 64)) then { s with xlt := { s.xlt with argClamped := true } } else s

/-- Every RW field of the register refuses the write: nothing is stored, one record is made for each field with kind
LOCKED, and LOCK_REFUSED is raised (R416, R387, R402). -/
def State.refuseLocked (s : State) (r : Rg) (off source : Nat) (w : Word64) : State :=
  let base := off % 0x1000 / 8 * 64
  let cs := (r.fields.filter fun f => f.acc = .rw).map fun f => (base + f.lsb, kLocked)
  if cs = [] then s
  else (s.recordClamps off source w (s.getWord off) cs).raise (pageOf off) 2

/-- Clear the W1C bits that a write names. -/
def State.clearW1c (s : State) (r : Rg) (off : Nat) (w : Word64) : State :=
  let m := (r.fields.filter fun f => f.acc = .w1c).foldl (fun m f => m ||| ((2 ^ f.w - 1) * 2 ^ f.lsb)) 0
  if m = 0 then s else s.setWord off (s.word off &&& ~~~(w &&& BitVec.ofNat 64 m))

/-- A write of a register stores its RW fields, in the held copy or in force, records its clamps, and clears its W1C
bits (R406, R409, R410, R411, R416). What its WO bits do is the caller's. -/
def State.storeReg (s : State) (src : RegSrc) (off : Nat) (w : Word64) : State :=
  let source := srcCode src
  match findReg off with
  | none => recordClamp s (pageOf off) (off % 0x1000 / 8 * 64) kStray source w 0
  | some r =>
    let hasRw := r.fields.any fun f => f.acc = .rw
    let evt := 0x020 ≤ off % 0x1000 && off % 0x1000 ≤ 0x030
    let s := s.clearW1c r off w
    if hasRw && s.pageLocked (pageOf off) && !evt then s.refuseLocked r off source w
    else
      let cur := if r.direct then s.getWord off else s.heldWord off
      let (v, cs) := s.writeParts off cur.toNat w.toNat (partsOf r)
      let stored := BitVec.ofNat 64 v
      let s := if !hasRw then s
        else if r.direct then s.putWord off stored
        else { s with held := mset s.held off stored }
      s.recordClamps off source w stored cs

end Sys2Proof.Machine
end

