-- ==== Sys2Proof/Machine/Crc.lean ====
section
/-! DEFINITION. The general CRC units 13 to 15 (R249 to R251): a computation over management memory. -/

namespace Sys2Proof.Machine

/-- First byte and first byte beyond Lumyan management memory (Table 17.1). -/
def mgmtBase : Nat := 0x80000000
def mgmtEnd : Nat := 0x81000000

/-- GO of unit `u` (R250): ignored by units 0 to 12; a clamp while BUSY; a range that leaves management memory is cut
at its end. -/
def State.crcStart (s : State) (src : RegSrc) (u : Nat) (w : Word64) : State :=
  let d := 0x40 * u
  let ctl := 0x19200 + d
  if u < 13 then s
  else if s.fld (R.CRC_STAT_BUSY.at d) = 1 then
    recordClamp s 25 (fieldNo (R.CRC_CTRL_GO.at d)) kState (srcCode src) w (s.word ctl)
  else
    let a := s.fld (R.CRC_SRC_SRC.at d)
    let len := s.fld (R.CRC_CTRL_LEN.at d)
    let fit := if mgmtBase ≤ a then min len (mgmtEnd - a) else 0
    let s := if fit = len then s
      else
        let s := s.setFld (R.CRC_CTRL_LEN.at d) fit
        recordClamp s 25 (fieldNo (R.CRC_CTRL_LEN.at d)) kCross (srcCode src) w (s.word ctl)
    let c : CrcUnit := ⟨s.fld (R.CRC_CTRL_ALG.at d), s.fld (R.CRC_CTRL_ALIVE_EN.at d) = 1, a, fit, s.word (0x19208 + d)⟩
    let s : State := { s with crc := mset s.crc u c }
    s.setFld (R.CRC_STAT_BUSY.at d) 1

/-- A write of `CRC_CTRL_u` with GO. -/
def execCrcGo (src : RegSrc) (u : Nat) (w : Word64) (s : State) : Out :=
  let u := u % 16
  .next ((s.storeReg src (0x19200 + 0x40 * u) w).crcStart src u w)

/-- A general unit ends its computation: RESULT, the comparison with EXPECT, and the alive counter in the first 16-bit
word of the range. -/
def State.crcDone (s : State) (u : Nat) : State :=
  match mget s.crc u with
  | none => s
  | some c =>
    let d := 0x40 * u
    let bs := s.lmc.mem.read c.src c.len
    let res := crcAlg c.alg bs
    let s : State := { s with crc := mdel s.crc u }
    let s := (s.setFld (R.CRC_STAT_BUSY.at d) 0).crcCompare u c.expect.toNat res
    if c.aliveEn then
      let n := leNat (bs.take 2)
      if aliveAccepts (s.fld (R.CRC_STAT_LAST_ALIVE.at d)) n then
        if c.expect.toNat = res then s.setFld (R.CRC_STAT_LAST_ALIVE.at d) n else s
      else s.aliveReject u
    else s

/-- A general unit's computation completes. -/
def execCrcComputeDone (u : Nat) (s : State) : Out := .next (s.crcDone u)

end Sys2Proof.Machine
end

