-- ==== Sys2Proof/Machine/CallBase.lean ====
section
/-! DEFINITION. A call's end as every family needs it: the completion record (Table 5.13), its status and its place in
the call queue (R116). -/

namespace Sys2Proof.Machine

/-- What a completion record reports beside its status. -/
structure CallEnd where
  status : Nat
  detail : Nat
  aux : Nat
  flags : Nat
  count : Nat
  slip : Nat
  ext : Nat
  passes : Nat
  skips : Nat
  run : Nat
  clamp : Bool
  deriving DecidableEq, Repr

/-- The end of a call that never ran. -/
def queuedEnd (status detail aux : Nat) : CallEnd := ⟨status, detail, aux, 0, 0, 0, 0, 0, 0, 0, false⟩

/-- The completion record (Table 5.13). -/
def CallEnd.body (e : CallEnd) (callId : Nat) : List Byte :=
  leBytes 8 (e.status % 256 + e.detail % 256 * 2 ^ 8 + e.flags % 65536 * 2 ^ 16 + e.count % 2 ^ 32 * 2 ^ 32) ++
  leBytes 8 (min e.slip 0xFFFFFFFF + e.ext % 65536 * 2 ^ 32 + e.passes % 65536 * 2 ^ 48) ++
  leBytes 8 (callId % 2 ^ 32 + min e.skips 0xFFFFFFFF * 2 ^ 32) ++
  leBytes 8 (e.run % 2 ^ 32 + e.aux % 256 * 2 ^ 32 + bit01 e.clamp (2 ^ 40))

/-- Cushion lines of OUT and INOUT ranges are invalidated (R116 step 2, R91 step 3). Those of a call that has not locked them
yet may hold newer data, which stays. -/
def State.dropOutputs (s : State) (c : CallRec) : State :=
  s.accUp fun a => { a with lines := a.lines.filter fun x =>
    !((c.locked || !x.dirty) && c.binds.any fun b => 2 ≤ b.dir && b.index = x.index && b.touches x.line) }

/-- The hold on the lines of CUSH slots ends; the pins that HINTs have set meanwhile, or taken away, are theirs from now on
(R111, R116 step 2). -/
def State.endHolds (s : State) (c : CallRec) : State :=
  let held := s.acc.lines.filter fun x => c.binds.any fun b => b.cush && b.touches x.line
  ((held.map fun x => x.line / 512).eraseDups).foldl (fun s u => s.syncPins u) s

/-- DETAIL of the fault entry (Table 2.6, R116): a CALL_FAULT's code and AUX; the unprocessed entries of a BIN_OVERFLOW. -/
def CallEnd.faultDetail (e : CallEnd) : Nat :=
  if e.status = Status.binOverflow then e.count else e.detail % 256 + e.aux % 256 * 256

/-- A call leaves the call queue with its one status (R116 steps 2 and 3): its output lines are invalidated, the window, the
holds and the locks that it had end with its record, and the completion goes to the calling connection, once the epoch record `record` is acknowledged when the
call has changed a DURABLE object (R200); when a fence has come before that, with NOT_HOLDER (R333 step 2). Faults that the spec attributes to no tenant place their
entry in the management queue as the copy of the tenant's (R38). -/
def State.endCall (s : State) (c : CallRec) (e : CallEnd) (record : Option (Nat × Nat) := none) : State :=
  let s : State := { s with
    seq := { s.seq with calls := s.seq.calls.filter fun x => x.key ≠ c.key }
    ftm := { s.ftm with windows := s.ftm.windows.filter fun w => w.call ≠ c.key }
    pwr := { s.pwr with callAt := s.now } }
  let s := (s.dropOutputs c).endHolds c
  let s := s.countWrap R.SEQ_CALLS_COUNT
  let ans : Ans := ⟨e.status, 0, e.body c.callId, 0, 0, e.faultDetail⟩
  match record with
  | some (k, n) =>
    if (s.pset k).unacked.any (fun x => x.alive = n) ∨ (s.pset k).alive < n then
      if s.recorded k then
        let (key, s) := s.newKey
        s.park key c.req ans 0 false k (some n)
      else s.respond c.req (if s.holds k then ans else { ans with
        status := Status.notHolder, body := ({ e with status := Status.notHolder, detail := 0, aux := 0 } : CallEnd).body c.callId, detail := 0 })
    else s.respond c.req ans
  | none => s.respond c.req ans

/-- The calls in the queue, the running one left out. -/
def State.queuedCalls (s : State) : List CallRec :=
  s.seq.calls.filter fun c => match s.seq.run with | some r => r.key ≠ c.key | none => true

/-- A call's argument ranges name the extent. -/
def CallRec.names (c : CallRec) (i : Nat) : Bool := c.binds.any fun b => b.rows ≠ 0 && b.index = i

/-- Withdraw the queued calls that satisfy `p`, each with the same end (R36 step 3, R119). -/
def State.endQueued (s : State) (p : CallRec → Bool) (e : CallEnd) : State :=
  (s.queuedCalls.filter p).foldl (fun s c => s.endCall c e) s

/-- The hint of R30 for an extent: to the end of the latest committed window among the calls that hold it, in whole
microseconds rounded up; 4 µs when none is committed (R113). -/
def State.lockHint (s : State) (i : Nat) : Nat :=
  let ends := (s.ftm.windows.filter fun w => s.seq.calls.any fun c => c.key = w.call && c.locked && c.names i).map
    fun w => w.first + w.frames
  match ends with
  | [] => 4
  | _ => s.usUntil (s.frameStart + (ends.foldl max 0 - s.frame) * frameCycles)

end Sys2Proof.Machine
end

