-- ==== Sys2Proof/Machine/Xlt.lean ====
section
/-! DEFINITION. Translation at queue time (R26 to R32, R435), extent commands (R23 to R25, R36, R37, R40, R434), what
INVALIDATE and REVOKE sweep (R34, R36), and fault queue reads (R39). -/

namespace Sys2Proof.Machine

/-! ### Holders and rights -/

/-- The tenant of a holder: that of its `PRT_HCFG` entry, VALID or not (R26). -/
def State.holderTenant (s : State) (h : Nat) : Nat := bitsOf (mgetD s.prt.hcfg h 0).toNat 1 6

/-- `PRT_HCFG.PRIV` of a holder (R264). -/
def State.holderPriv (s : State) (h : Nat) : Bool := bitsOf (mgetD s.prt.hcfg h 0).toNat 8 1 = 1

/-- Rights bits. -/
def rRead : Nat := 1
def rWrite : Nat := 2
def rAtomic : Nat := 4

def grantKey (h i : Nat) : Nat := h * 2 ^ 18 + i

/-- Effective rights of a holder on an extent (R26). -/
def State.rightsOf (s : State) (h i : Nat) (e : Extent) : Nat :=
  if s.holderTenant h ≠ e.tenant then 0 else e.trights ||| mgetD s.xlt.grants (grantKey h i) 0

/-- Rights that cover a need. -/
def covers (have_ need : Nat) : Bool := have_ &&& need = need

/-! ### Extent tables -/

def State.extent (s : State) (i : Nat) : Option Extent := mget s.xlt.extents i

/-- Generation of an index (R22). -/
def State.genOf (s : State) (i : Nat) : Nat :=
  match s.extent i with
  | some e => e.gen
  | none => mgetD s.xlt.gens i 1

def State.setExtent (s : State) (i : Nat) (e : Extent) : State :=
  { s with xlt := { s.xlt with extents := mset s.xlt.extents i e } }

def handleOf (gen i : Nat) : Nat := gen * 2 ^ 18 + i

/-- An index is FREE (Table 2.1). -/
def State.indexFree (s : State) (i : Nat) : Bool := (s.extent i).isNone && !s.xlt.quarantine.contains i

/-! ### Translation lookaside buffers (R435, Table 2.3) -/

/-- Entries that one structure holds: 16 in an engine's TLB, 8 in a second-level set. -/
def tlbCap (eng : Nat) : Nat := if eng = 24 then 8 else 16

/-- Two entries compete for one structure. -/
def tlbSame (a : TlbEntry) (eng holder index : Nat) : Bool :=
  a.eng = eng && (eng ≠ 24 || Config.l2Set (grantKey a.holder a.index) % 512 = Config.l2Set (grantKey holder index) % 512)

/-- Drop the least recent entry of a structure that holds more than its capacity, of which 8 is the least. -/
def tlbTrim (l : List TlbEntry) (eng holder index : Nat) : List TlbEntry :=
  if l.length ≤ 8 then l
  else
    let mine := l.filter fun a => tlbSame a eng holder index
    if tlbCap eng < mine.length then
      match mine.getLast? with
      | some v => l.erase v
      | none => l
    else l

/-- Put an entry into a TLB as its most recent. -/
def State.tlbInsert (s : State) (a : TlbEntry) : State :=
  let l := a :: s.xlt.tlb.filter fun b => !(b.eng = a.eng && b.holder = a.holder && b.index = a.index)
  { s with xlt := { s.xlt with tlb := tlbTrim l a.eng a.holder a.index } }

def State.tlbDrop (s : State) (eng holder index : Nat) : State :=
  { s with xlt := { s.xlt with tlb := s.xlt.tlb.filter fun b =>
      !(b.eng = eng && b.holder = holder && b.index = index) } }

def State.tlbFind (s : State) (eng holder index : Nat) : Option TlbEntry :=
  s.xlt.tlb.find? fun b => b.eng = eng && b.holder = holder && b.index = index

/-- A walk of the extent and grant tables: the entry of an OPEN extent (chapter 2). -/
def State.walk (s : State) (eng holder index : Nat) : State × Option TlbEntry :=
  let s := s.countWrap R.XLT_WALKS_COUNT
  match s.extent index with
  | some e =>
    if e.state = .opened then
      (s, some ⟨eng, holder, index, e.gen, e.start, e.len, e.tenant, e.state, e.prot, e.coherent, s.rightsOf holder index e⟩)
    else (s, none)
  | none => (s, none)

/-- Walk the tables for an engine; an entry that covers the need is installed at both levels (R435). -/
def State.walkIn (s : State) (eng holder index need : Nat) : State × Option TlbEntry :=
  match s.walk eng holder index with
  | (s, some a) =>
    if covers a.rights need then ((s.tlbInsert { a with eng := 24 }).tlbInsert a, some a) else (s, some a)
  | (s, none) => (s, none)

/-- Look an extent up in the second level, then in the tables (R435). -/
def State.lookup2 (s : State) (eng holder index need : Nat) : State × Option TlbEntry :=
  match s.tlbFind 24 holder index with
  | some a =>
    if covers a.rights need then ((s.tlbInsert a).tlbInsert { a with eng := eng }, some a)
    else s.walkIn eng holder index need
  | none => s.walkIn eng holder index need

/-- Look an extent up for an engine (chapter 2, R435): its own TLB, the second level, then the tables. An entry whose
rights fall short of the need is dropped and looked up further. -/
def State.lookup (s : State) (eng holder index need : Nat) : State × Option TlbEntry :=
  match s.tlbFind eng holder index with
  | some a =>
    if covers a.rights need then (s.tlbInsert a, some a)
    else (s.tlbDrop eng holder index).lookup2 eng holder index need
  | none => s.lookup2 eng holder index need

/-! ### Queue-time checks (R29, Table 2.4) -/

/-- R31: the carried offset when a range touches a byte at or beyond the extent's length. -/
def rangeFail (lenBytes off n : Nat) : Option Nat :=
  if 2 ^ 40 < off + n then some lenBytes
  else if lenBytes < off + n then some (max off lenBytes)
  else none

/-- R31 and R32 for rows at a stride: the carried offset of the first row that fails. -/
def rowsFail (lenBytes off rowLen rows stride : Nat) : Option Nat :=
  match rangeFail lenBytes off rowLen with
  | some x => if rows = 0 then none else some x
  | none =>
    if rows ≤ 1 ∨ stride = 0 then none
    else
      let r := (lenBytes - rowLen - off) / stride + 1
      if r < rows then rangeFail lenBytes (off + r * stride) rowLen else none

/-- A stand-in for an extent that has gone; no check passes with it. -/
def emptyExtent : Extent := ⟨.closed, 0, 0, 0, 0, 0, 0, false, 0, none⟩

/-- A failed check's answer. -/
def failAns (status aux handle off : Nat) : Ans := ⟨status, aux, [], handle, off, 0⟩

/-- The checks of Table 2.4 on one strided range of a request, in their order. -/
def State.checkRows (s : State) (eng holder tenant handle off rowLen rows stride need opnd : Nat) :
    State × Except Ans (Nat × Extent) :=
  let i := handle % 2 ^ 18
  let (s, a) := s.lookup eng holder i need
  match a, s.extent i with
  | some a, some e =>
    if a.gen ≠ handle / 2 ^ 18 ∨ a.tenant ≠ tenant ∨ e.state ≠ .opened then
      (s, .error (failAns Status.revoked 0 handle off))                                -- check 1
    else if s.taking (setOfIndex i) then (s, .error (failAns Status.retryAfter 4 handle off))   -- R334
    else if !s.holds (setOfIndex i) then (s, .error (failAns Status.notHolder 0 handle off))    -- check 2
    else if !covers a.rights need then (s, .error (failAns Status.noRights 0 handle off))       -- check 3
    else
      match rowsFail (e.len * 65536) off rowLen rows stride with
      | some x => (s, .error (carriedAns Status.unmapped handle x opnd))                        -- check 4
      | none =>
        if s.locked i then (s, .error (failAns Status.busyLine (s.lockHint i) handle off))      -- check 5
        else (s, .ok (i, e))
  | _, _ => (s, .error (failAns Status.revoked 0 handle off))

/-- The checks of Table 2.4 on one range. -/
def State.checkRange (s : State) (eng holder tenant handle off n need opnd : Nat) : State × Except Ans (Nat × Extent) :=
  s.checkRows eng holder tenant handle off n 1 0 need opnd

/-! ### Pending work that names an extent, a holder or a tenant (R34, R36) -/

end Sys2Proof.Machine

namespace Sys2Proof

/-- Every address block of a request; a CALL's unused slots name nothing. -/
def ReqOp.addrs : ReqOp → List Addr
  | .move a b _ _ _ _ => [a, b]
  | .accumRc a b _ => [a, b]
  | .ringReduce a _ _ _ _ _ b c => [a, b, c]
  | .ringRoute a b => [a, b]
  | .call c => (c.slots.filter fun x => bitsOf x.rows.toNat 0 24 ≠ 0).map fun x => ⟨x.handle, 0, x.offset⟩
  | op => op.firstAddr.toList

/-- The request names an extent index. -/
def ReqOp.names (op : ReqOp) (i : Nat) : Bool := op.addrs.any fun a => a.handle.toNat % 2 ^ 18 = i

end Sys2Proof

namespace Sys2Proof.Machine

/-- The scopes of INVALIDATE (R34): 0 an extent index, 1 a holder, 2 a tenant, 3 all. -/
def Req.inScope (r : Req) (scope value : Nat) : Bool :=
  if scope = 0 then r.op.names (value % 2 ^ 18)
  else if scope = 1 then r.holder = value % 4096
  else if scope = 2 then r.tenant = value % 64
  else true

def TlbEntry.inScope (a : TlbEntry) (scope value : Nat) : Bool :=
  if scope = 0 then a.index = value % 2 ^ 18
  else if scope = 1 then a.holder = value % 4096
  else if scope = 2 then a.tenant = value % 64
  else true

/-- The requests that wait in their engines for write queues (R209). -/
def State.engineReqs (s : State) : List Req :=
  s.smc.waits.filterMap fun w => match w.who with | .req r => some r | .entry _ => none

/-- Something queued or begun satisfies `p` and has not completed. -/
def State.pendingWork (s : State) (p : Req → Bool) : Bool :=
  (s.qos.acq.any fun x => match x.kind with | .req r => p r | _ => false) ||
  (s.acc.moves.any fun m => p m.req) || (s.acc.rdma.any fun m => p m.req) || (s.acc.prefetch.any fun m => p m.req) ||
  (s.parked.any fun m => p m.req) || (s.seq.calls.any fun c => p c.req) || (s.dir.waiters.any fun w => p w.req) ||
  (s.engineReqs.any p) || (s.dir.txns.any fun t => match t.req with | some r => p r | none => false) ||
  (s.pfx.ring.any fun o => p o.req) || (s.par.fetches.any fun f => p f.2.1)

/-- Complete with `status` every held request that satisfies `p` and has not begun. A bulk move that has begun ends after the
chunks already issued, which complete and count (R34, R36 steps 3 and 4): at once when its next chunk waits in the access
queue. -/
def State.sweepHeld (s : State) (k : Nat) (p : Req → Bool) (status : Nat) : State :=
  let held := s.qos.acq.filterMap fun x =>
    match x.kind with
    | .req r => if x.key < k && p r then some (x.key, r) else none
    | _ => none
  let keys := held.map (·.1)
  let s : State := { s with qos := { s.qos with acq := s.qos.acq.filter fun x => !keys.contains x.key } }
  let s := held.foldl (fun s x => s.refuse x.2 status) s
  let gone := fun (w : Waiter) => w.req.chunk.isNone && p w.req
  let wait := s.dir.waiters.filter gone
  let s : State := { s with dir := { s.dir with waiters := s.dir.waiters.filter fun w => !gone w } }
  let s := wait.foldl (fun s w => s.refuse w.req status) s
  let queued := fun (m : Move) => s.qos.acq.any fun x => x.kind = .move m.key
  let ends := fun (m : Move) =>
    if queued m then { m with fate := some (m.answer status), held := none } else { m with stop := m.stop <|> some status }
  let hit := fun (m : Move) => m.key < k && p m.req && m.fate.isNone
  let gone := (s.acc.moves.filter fun m => hit m && queued m).map (·.key)
  let s : State := { s with
    acc := { s.acc with moves := mapIf hit ends s.acc.moves }
    qos := { s.qos with acq := s.qos.acq.filter fun x => !(match x.kind with | .move key => gone.contains key | _ => false) } }
  let idle := fun (m : RdmaRead) => m.key < k && p m.req && s.qos.acq.any fun x => x.kind = .rdma m.key
  let reads := s.acc.rdma.filter idle
  -- messages with a chunk under way: the chunks behind it are not issued
  let busy := (s.acc.rdma.filter fun m => m.key < k && p m.req && !reads.contains m).map (·.key) ++
    ((s.engineReqs ++ s.par.fetches.map (·.2.1) ++ s.dir.txns.filterMap (·.req) ++ s.dir.ready).filter p).filterMap (·.acks)
  let s : State := { s with acc := { s.acc with
    rdma := s.acc.rdma.filter fun m => !reads.contains m
    stops := busy.foldl (fun l key => mset l key status) s.acc.stops } }
  reads.foldl (fun s m => s.refuse m.req status) s

/-! ### Space (R25, R243, R321) -/

/-- Ranges in use at this device, in units: data and parity ranges of extents whose data lies here, and ranges that
the partner has reserved. -/
def State.usedRanges (s : State) : List (Nat × Nat) :=
  (s.xlt.extents.flatMap fun e =>
    if s.dataHere e.1 e.2 then (e.2.start, e.2.len) :: (match e.2.parity with | some p => [p] | none => []) else []) ++
  s.par.ranges.map fun r => (r.2.1, r.2.2)

def overlaps (a n : Nat) (r : Nat × Nat) : Bool := a < r.1 + r.2 && r.1 < a + n

def State.rangeFree (s : State) (start len : Nat) : Bool :=
  start + len ≤ poolUnits && !(s.usedRanges.any (overlaps start len))

/-- Raw capacity charged by one extent at this device, in units (Table 11.5). -/
def chargeOf (prot len : Nat) : Nat :=
  if prot = 1 ∨ prot = 4 then len + parityUnits len
  else if prot = 3 then len + ceilDiv len 4
  else len

/-- Raw units in use here. -/
def State.usedUnits (s : State) : Nat :=
  (((s.usedRanges.filter fun r => r.1 < poolUnits).map (·.2)).sum) +
    ((s.xlt.extents.filter fun e => e.2.prot = 3 && s.dataHere e.1 e.2 && e.2.start < poolUnits).map fun e => ceilDiv e.2.len 4).sum

/-- Round up to an even unit when `al`. -/
def alignUp (al : Bool) (x : Nat) : Nat := if al then (x + 1) / 2 * 2 else x

/-- The least element of a list. -/
def leastOf (l : List Nat) : Option Nat := l.foldl (fun m x => match m with | none => some x | some y => some (min x y)) none

/-- The greatest element of a list. -/
def mostOf (l : List Nat) : Option Nat := l.foldl (fun m x => match m with | none => some x | some y => some (max x y)) none

/-- The lowest free fitting start at or above `lo` (R25, R243), within the data region for RING_PARITY. -/
def State.lowestStart (s : State) (prot len lo : Nat) : Option Nat :=
  let al := prot = 1 || prot = 4
  let d := s.fld R.PAR_RPR_D_BASE
  let lo := if prot = 3 then max lo d else lo
  let hi := if prot = 3 then d + s.fld R.PAR_RPR_D_UNITS else poolUnits
  leastOf (((lo :: s.usedRanges.map fun r => r.1 + r.2).map (alignUp al)).filter fun x =>
    lo ≤ x && x + len ≤ hi && s.rangeFree x len)

/-- The highest free aligned range for a parity range, clear of the data range itself (R243). -/
def State.parityStart (s : State) (start len n : Nat) : Option Nat :=
  mostOf (((poolUnits :: start :: s.usedRanges.map (·.1)).filterMap fun x => if x < n then none else some ((x - n) / 2 * 2)).filter
    fun x => s.rangeFree x n && !overlaps x n (start, len))

/-! ### Extent commands -/

/-- Results of `XLT_CMD_RESULT` (Table 2.12). -/
def xOk : Nat := 0
def xBusy : Nat := 1
def xArgClamped : Nat := 2
def xBadState : Nat := 3
def xOverlap : Nat := 4
def xNoSpace : Nat := 5
def xNoIndex : Nat := 6
def xQuota : Nat := 7
def xNoGrantSpace : Nat := 8
def xForeign : Nat := 9
def xRange : Nat := 10
def xNoPartner : Nat := 11

def State.setResult (s : State) (st res handle : Nat) : State :=
  s.setWord R.XLT_CMD_RESULT_STATE.off (BitVec.ofNat 64 (st + res * 4 + handle * 2 ^ 10))

/-- An extent command completes: DONE, CMD_DONE, and an entry in the management queue when the result is not OK
(R38). -/
def State.cmdDone (s : State) (op tenant index res handle : Nat) : State :=
  let s := (s.setResult 2 res handle).raise 19 8
  let s : State := { s with xlt := { s.xlt with cmd := none } }
  if res = xOk then s
  else s.mgmtFault ⟨(s.now - s.frameStart) % frameCycles, s.frame, 0xFF, 0xFE, 0, tenant, true, 0,
    res + op * 2 ^ 8 + index * 2 ^ 12, 0⟩

/-- An extent command has changed the tables: it is DONE, or waits for an answer, for its clearing, or for the
acknowledgement of the record that carries the change (R235, R321, R328). -/
def State.cmdApplied (s : State) (op tenant index handle : Nat) (waitRange waitClear : Bool) : State :=
  let k := setOfIndex index
  let rec_ := if s.standby k then some (s.nextRecord k) else none
  if waitRange ∨ waitClear ∨ rec_.isSome then
    let s := s.setResult 1 0 handle
    let c : XltCmd := ⟨op, tenant, index, s.word 0x13118, s.word 0x13120, waitRange, rec_, 0, s.fld R.XLT_CMD_INDEX⟩
    s.xltUp fun x => { x with cmd := some c }
  else s.cmdDone op tenant index xOk handle

/-- The epoch entry of an extent (Table 15.3). -/
def extentEntry (i : Nat) (e : Extent) (state : Nat) : EpochEntry :=
  .extent i state e.gen e.tenant e.start e.len e.prot e.hint e.coherent e.trights

/-- Codes of the extent states in an epoch entry: 0 FREE, 1 OPEN, 2 CLOSING, 3 CLOSED, 4 QUARANTINED. -/
def stateCode : XState → Nat
  | .opened => 1 | .closing => 2 | .closed => 3 | .quarantined => 4

/-- The lowest FREE index that the device may create (R25, R320). -/
def State.lowestIndex (s : State) : Option Nat :=
  let n := s.xlt.extents.length + s.xlt.quarantine.length + 1
  let half := fun (b : Nat) => ((List.range (min n 131072)).map (· + b)).find? fun i => s.indexFree i
  match (if s.holds 0 then half 0 else none) with
  | some i => some i
  | none => if s.holds 1 then half 131072 else none

/-- The arguments of CREATE. -/
structure CreateArg where
  tenant : Nat
  index : Nat
  prot : Nat
  len : Nat
  anyStart : Bool
  arg1 : Nat                 -- the word of ARG1
  named : Nat                -- `XLT_CMD.INDEX`
  deriving DecidableEq, Repr

/-- Put a new extent into the tables (Table 2.1, R25). -/
def State.createAt (s : State) (c : CreateArg) (start : Nat) (waitRange : Bool) : State :=
  let gen := s.genOf c.index
  let parity := if c.prot = 1 ∨ c.prot = 4 then
    (s.parityStart start c.len (parityUnits c.len)).map fun p => (p, parityUnits c.len) else none
  let e : Extent := ⟨.opened, gen, start, c.len, c.tenant, c.prot, bitsOf c.arg1 3 2, bitsOf c.arg1 5 1 = 1,
    bitsOf c.arg1 6 3, parity⟩
  let s := s.setExtent c.index e
  let s := s.logEntry (setOfIndex c.index) (extentEntry c.index e 1)
  s.cmdApplied 1 c.tenant c.index (handleOf gen c.index) waitRange false

/-- The quotas allow the extent (R25). Standby copies of the partner's extents do not count (R327). -/
def State.quotaAdmits (s : State) (t len : Nat) : Bool :=
  let own := s.xlt.extents.filter fun e => s.holds (setOfIndex e.1) && e.2.tenant = t && e.2.state ≠ .quarantined
  own.length < s.fld (R.XLT_TCFG_MAX_EXTENTS.at (0x10 * t)) &&
    (own.map fun e => e.2.len).sum + len ≤ s.fld (R.XLT_TBYTES_MAX_GIB.at (0x10 * t)) * 16384

/-- Offer a start to the partner for a mirrored CREATE (R321). -/
def State.offerRange (s : State) (c : CreateArg) (start : Nat) : State :=
  let k := setOfIndex c.index
  let s := s.setResult 1 0 0
  let arg0 := BitVec.ofNat 64 (start + c.len * 2 ^ 24 + bit01 c.anyStart (2 ^ 48))
  let x : XltCmd := ⟨1, c.tenant, c.index, arg0, BitVec.ofNat 64 c.arg1, true, none, start, c.named⟩
  let s := s.xltUp fun y => { y with cmd := some x }
  s.peerSend partnerPeer .range 0 (.pairRange 0 k (s.pset k).term c.index start c.len)

/-- No parity range is free for an extent that needs one at its start (R434 step 7). -/
def State.parityLacks (s : State) (prot start len : Nat) : Bool :=
  (prot = 1 || prot = 4) && (s.parityStart start len (parityUnits len)).isNone

/-- The lowest free fitting start at or above `lo` that also leaves a parity range where one is needed (R321, R434 step 7): from
one free range to the next, of which there are no more than `n`. -/
def State.fitStart (s : State) (prot len lo : Nat) : Nat → Option Nat
  | 0 => none
  | n + 1 =>
    match s.lowestStart prot len lo with
    | none => none
    | some st =>
      if s.parityLacks prot st len then
        match leastOf ((s.usedRanges.map fun r => r.1 + r.2).filter fun x => st < x) with
        | some x => s.fitStart prot len x n
        | none => none
      else some st

/-- CREATE: the tests of R434 in their order. -/
def State.cmdCreate (s : State) : State :=
  let known := (Config.freeBits 10 s.freeCtr).getLsbD 0      -- the tenant is ADMITTED at the partner (R347)
  let s := s.tick
  let t := s.fld R.XLT_CMD_TENANT
  let anyI := s.fld R.XLT_CMD_ARG1_ANY_INDEX = 1
  let anyS := s.fld R.XLT_CMD_ARG0_ANY_START = 1
  let prot := s.fld R.XLT_CMD_ARG1_PROT
  let len := s.fld R.XLT_CMD_ARG0_LENGTH
  let start := s.fld R.XLT_CMD_ARG0_START
  let named := s.fld R.XLT_CMD_INDEX
  let fail := fun (r : Nat) => s.cmdDone 1 t named r 0
  let idx := if anyI then s.lowestIndex
    else if s.indexFree named && s.holds (setOfIndex named) then some named else none
  match idx with
  | none => fail (if anyI then xNoIndex else xBadState)
  | some i =>
    let c : CreateArg := ⟨t, i, prot, len, anyS, (s.word 0x13120).toNat, named⟩
    let stripe := prot = 1 || prot = 4
    let mirrored := prot = 2 || prot = 4
    let d := s.fld R.PAR_RPR_D_BASE
    let noRing := prot = 3 && s.fld R.PAR_RPG_RP_EN = 0
    let badRange := noRing || (stripe && len % 2 = 1) ||
      (!anyS && (poolUnits < start + len || (stripe && start % 2 = 1) ||
        (prot = 3 && !(d ≤ start && start + len ≤ d + s.fld R.PAR_RPR_D_UNITS))))
    let place := if anyS then s.fitStart prot len 0 (s.usedRanges.length + 2) else some start
    if !s.admitted t then fail xBadState
    else if mirrored && !(s.paired && s.par.formed && known) then fail xNoPartner
    else if badRange then fail xRange
    else if !anyS && !s.rangeFree start len then fail xOverlap
    else if !s.quotaAdmits t len then fail xQuota
    else if poolUnits < s.usedUnits + chargeOf prot len then fail xNoSpace
    else
      match place with
      | none => fail xNoSpace
      | some st =>
        if s.parityLacks prot st len then fail xNoSpace
        else if mirrored then s.offerRange c st
        else s.createAt c st false

/-- The extent that a command other than CREATE and UNQUARANTINE acts on: in the state asked for, of the tenant named,
in a set this device holds (R24, Table 2.9). -/
def State.cmdExtent (s : State) (st : XState) : Option (Nat × Extent) :=
  let i := s.fld R.XLT_CMD_INDEX
  match s.extent i with
  | some e => if e.state = st ∧ e.tenant = s.fld R.XLT_CMD_TENANT ∧ s.holds (setOfIndex i) then some (i, e) else none
  | none => none

/-- Complete the command named in `XLT_CMD` with a failure. DESIGN CHOICE (entry 66): `HANDLE` then reads 0, as it does after
a NOP. -/
def State.cmdFail (s : State) (op res : Nat) : State :=
  s.cmdDone op (s.fld R.XLT_CMD_TENANT) (s.fld R.XLT_CMD_INDEX) res 0

/-- Grants that the extents of a tenant hold, standby copies left out (R327). -/
def State.grantsOf (s : State) (t : Nat) : Nat :=
  (s.xlt.grants.filter fun g => s.holds (setOfIndex (g.1 % 2 ^ 18)) &&
    match s.extent (g.1 % 2 ^ 18) with | some e => e.tenant = t | none => false).length

/-- GRANT (R26). DESIGN CHOICE (entry 66): RIGHTS of 0b000 to a holder with no grant creates none and uses no quota, and QUOTA
is tested before NO_GRANT_SPACE. -/
def State.cmdGrant (s : State) : State :=
  match s.cmdExtent .opened with
  | none => s.cmdFail 2 xBadState
  | some (i, e) =>
    let h := s.fld R.XLT_CMD_ARG1_HOLDER
    let old := mgetD s.xlt.grants (grantKey h i) 0
    let v := old ||| s.fld R.XLT_CMD_ARG1_RIGHTS
    if s.holderTenant h ≠ e.tenant then s.cmdFail 2 xForeign
    else if old = 0 ∧ v ≠ 0 ∧ s.fld (R.XLT_TCFG_MAX_GRANTS.at (0x10 * e.tenant)) ≤ s.grantsOf e.tenant then
      s.cmdFail 2 xQuota
    else if old = 0 ∧ v ≠ 0 ∧ 1048576 ≤ s.xlt.grants.length then s.cmdFail 2 xNoGrantSpace
    else
      let s : State := { s with xlt := { s.xlt with grants := msetD s.xlt.grants (grantKey h i) v 0 } }
      let s := s.logEntry (setOfIndex i) (.grant i h v)
      s.cmdApplied 2 e.tenant i (handleOf e.gen i) false false

/-- UNGRANT (R26). -/
def State.cmdUngrant (s : State) : State :=
  match s.cmdExtent .opened with
  | none => s.cmdFail 3 xBadState
  | some (i, e) =>
    let h := s.fld R.XLT_CMD_ARG1_HOLDER
    let old := mgetD s.xlt.grants (grantKey h i) 0
    let v := old &&& s.fld R.XLT_CMD_ARG1_RIGHTS
    let s : State := { s with xlt := { s.xlt with grants := msetD s.xlt.grants (grantKey h i) v 0 } }
    let s := if old = 0 then s else s.logEntry (setOfIndex i) (.grant i h v)
    s.cmdApplied 3 e.tenant i (handleOf e.gen i) false false

/-- SET_TRIGHTS (R26). -/
def State.cmdSetTrights (s : State) : State :=
  match s.cmdExtent .opened with
  | none => s.cmdFail 4 xBadState
  | some (i, e) =>
    let e := { e with trights := s.fld R.XLT_CMD_ARG1_TRIGHTS }
    let s := (s.setExtent i e).logEntry (setOfIndex i) (extentEntry i e 1)
    s.cmdApplied 4 e.tenant i (handleOf e.gen i) false false

/-- REVOKE, steps 1 to 3 and the start of the rest (R36, Table 2.5). The snoops of step 6 are the directory's. -/
def State.cmdRevoke (s : State) : State :=
  match s.cmdExtent .opened with
  | none => s.cmdFail 5 xBadState
  | some (i, e) =>
    if 16 ≤ s.xlt.revokes.length then s.cmdFail 5 xBusy
    else
      let k := setOfIndex i
      let e := { e with state := .closing }
      let s := s.setExtent i e
      let s := s.logEntry k (extentEntry i e 3)
      let rec_ := if s.standby k then some (s.nextRecord k) else none
      let s : State := { s with xlt := { s.xlt with
        tlb := s.xlt.tlb.filter fun b => b.index ≠ i
        revokes := s.xlt.revokes ++ [(i, rec_)] } }
      let s := s.sweepHeld s.acc.nextKey (fun r => r.op.names i) Status.revoked
      let s := s.endQueued (fun c => !c.locked && c.names i) (queuedEnd Status.revoked 0 0)
      s.cmdApplied 5 e.tenant i (handleOf e.gen i) false false

/-- Free the validity, hints, pins and cushion lines of a released range (R37, R139, R141, R235). -/
def State.dropRange (s : State) (i : Nat) (e : Extent) : State :=
  let s := s.clearUnits e.start e.len
  let s := match e.parity with
    | some (p, n) => s.clearUnits p n
    | none => s
  { s with acc := { s.acc with
      lines := s.acc.lines.filter fun c => c.index ≠ i
      hints := s.acc.hints.filter fun h => h.1 < e.start || e.start + e.len ≤ h.1
      pins := s.acc.pins.filter fun h => h.1 < e.start || e.start + e.len ≤ h.1 } }

/-- The index of a released extent: the next generation, or quarantine (R23). -/
def State.freeIndex (s : State) (i : Nat) (e : Extent) : State :=
  let s : State := { s with
    xlt := { s.xlt with
      extents := mdel s.xlt.extents i
      grants := s.xlt.grants.filter fun g => g.1 % 2 ^ 18 ≠ i }
    par := { s.par with lostExtents := s.par.lostExtents.filter (· ≠ i) } }
  if e.gen = 16383 then
    let s : State := { s with xlt := { s.xlt with
      gens := mset s.xlt.gens i 1, quarantine := s.xlt.quarantine ++ [i] } }
    s.raise 19 11
  else { s with xlt := { s.xlt with gens := mset s.xlt.gens i (e.gen + 1) } }

/-- RELEASE (R23, R37, R235); a mirrored extent's range is freed at the partner as well (R321). -/
def State.cmdRelease (s : State) : State :=
  match s.cmdExtent .closed with
  | none => s.cmdFail 6 xBadState
  | some (i, e) =>
    let k := setOfIndex i
    let s := (s.dropRange i e).freeIndex i e
    let s := s.logEntry k (extentEntry i { e with gen := s.genOf i } (if e.gen = 16383 then 4 else 0))
    let remote := (e.prot = 2 || e.prot = 4) && s.paired && s.par.formed
    let s := if remote then
        s.peerSend partnerPeer .range 0 (.pairRange 1 k (s.pset k).term i e.start e.len)
      else s
    s.cmdApplied 6 e.tenant i (handleOf e.gen i) remote true

/-- UNQUARANTINE (R23). -/
def State.cmdUnquarantine (s : State) : State :=
  let i := s.fld R.XLT_CMD_INDEX
  if s.xlt.quarantine.contains i && s.holds (setOfIndex i) then
    let s : State := { s with xlt := { s.xlt with quarantine := s.xlt.quarantine.filter (· ≠ i) } }
    let s := s.logEntry (setOfIndex i) (.extent i 0 1 0 0 0 0 0 false 0)
    s.cmdApplied 7 (s.fld R.XLT_CMD_TENANT) i (handleOf 1 i) false false
  else s.cmdFail 7 xBadState

/-- Run the operation of `XLT_CMD.OP`. -/
def State.runXlt (s : State) : State :=
  let op := s.fld R.XLT_CMD_OP
  if op = 1 then s.cmdCreate
  else if op = 2 then s.cmdGrant
  else if op = 3 then s.cmdUngrant
  else if op = 4 then s.cmdSetTrights
  else if op = 5 then s.cmdRevoke
  else if op = 6 then s.cmdRelease
  else if op = 7 then s.cmdUnquarantine
  else s.cmdDone 0 (s.fld R.XLT_CMD_TENANT) (s.fld R.XLT_CMD_INDEX) xOk 0

/-- A command whose DONE is held back gives way to the next one. -/
def State.xltFree (s : State) : State :=
  match s.xlt.cmd with
  | some c => s.xltUp fun x => { x with cmd := none, trail := x.trail ++ [c] }
  | none => s

/-- A write of `XLT_CMD`: its fields are stored, and GO starts OP, or is refused while a command runs (R40). A REVOKE whose
DONE is held back gives way, and completes when its record is acknowledged. DESIGN CHOICE (entry 66): clamps of arguments
recorded before a refused GO, or in its write, still count for the next GO. -/
def State.writeXltCmd (s : State) (src : RegSrc) (w : Word64) : State :=
  let go := w.getLsbD 63
  let s := s.storeReg src 0x13110 w
  if !go then s
  else
    if s.xlt.cmd.any fun c => c.op ≠ 5 then
      recordClamp s 19 (fieldNo R.XLT_CMD_GO) kState (srcCode src) w (s.word 0x13110)
    else go1 s.xltFree
where
  go1 (s : State) : State :=
    if s.xlt.argClamped then
      let s : State := { s with xlt := { s.xlt with argClamped := false } }
      s.cmdFail (s.fld R.XLT_CMD_OP) xArgClamped
    else s.runXlt

/-! ### The later steps of an extent command -/

/-- Change every extent command that has not completed. -/
def Xlt.mapCmds (x : Xlt) (f : XltCmd → XltCmd) : Xlt := { x with cmd := x.cmd.map f, trail := x.trail.map f }

/-- The partner has answered PAIR_RANGE (R321): 0 OK, 4 OVERLAP, 5 NO_SPACE as in Table 2.12. -/
def State.rangeAnswer (s : State) (result : Nat) : State :=
  match s.xlt.cmd with
  | some c =>
    if !c.waitRange then s
    else
      let s : State := { s with par := { s.par with reqs := s.par.reqs.filter fun q => q.kind ≠ .range } }
      if c.op = 1 then
        let a : CreateArg := ⟨c.tenant, c.index, bitsOf c.arg1.toNat 0 3, bitsOf c.arg0.toNat 24 24,
          bitsOf c.arg0.toNat 48 1 = 1, c.arg1.toNat, c.named⟩
        if result = xOk then
          -- what the partner has reserved here meanwhile may have taken the room
          if poolUnits < s.usedUnits + chargeOf a.prot a.len ∨ s.parityLacks a.prot c.start a.len then
            let s := s.peerSend partnerPeer .range 0
              (.pairRange 1 (setOfIndex c.index) (s.pset (setOfIndex c.index)).term c.index c.start a.len)
            s.cmdDone 1 c.tenant c.named xNoSpace 0
          else s.createAt a c.start false
        else if result = xOverlap ∧ a.anyStart then
          match s.fitStart a.prot a.len (c.start + 1) (s.usedRanges.length + 2) with
          | some st => s.offerRange a st
          | none => s.cmdDone 1 c.tenant c.named xNoSpace 0
        else s.cmdDone 1 c.tenant c.named result 0
      else { s with xlt := { s.xlt with cmd := some { c with waitRange := false } } }
  | none => s

/-- A REVOKE that has given way to a later command completes; the result register is the later one's. -/
def State.trailDone (s : State) : State :=
  match s.xlt.trail.find? fun c => c.waitRecord.isNone with
  | some c => (s.xltUp fun x => { x with trail := x.trail.erase c }).raise 19 8
  | none => s

/-- A waiting extent command shows DONE once its clearing, its partner's answer and its record's acknowledgement are
in (R235, R321, R328). -/
def State.xltDone (s : State) : State :=
  let s := s.trailDone
  match s.xlt.cmd with
  | some c =>
    if c.waitRange ∨ c.waitRecord.isSome then s
    else s.cmdDone c.op c.tenant c.index xOk (s.fld R.XLT_CMD_RESULT_HANDLE)
  | none => s

/-- Steps 4 to 8 of a revocation are over (Table 2.5): nothing that names the extent is left anywhere. -/
def State.revokeOver (s : State) (i : Nat) : Bool :=
  !s.pendingWork (fun r => r.op.names i) && !(s.seq.calls.any fun c => c.names i) &&
    !(s.dir.entries.any fun d => d.index = i) && !(s.dir.txns.any fun t => t.index = i)

/-- The revocation of an index completes (R36 step 8). -/
def State.revokeDone (s : State) (i : Nat) : State :=
  match s.xlt.revokes.find? (fun r => r.1 = i), s.extent i with
  | some (_, none), some e =>
    if s.revokeOver i then
      let s := s.setExtent i { e with state := .closed }
      let s : State := { s with xlt := { s.xlt with
        revokes := s.xlt.revokes.filter fun r => r.1 ≠ i
        revokeDone := s.xlt.revokeDone ++ [(i, e.gen)] } }
      s.raise 19 9
    else s
  | _, _ => s

/-- The word that `XLT_REVOKE_DONE` reads: the oldest completed revocation (Table 2.13). -/
def State.revokeDoneWord (s : State) : Word64 :=
  match s.xlt.revokeDone with
  | [] => 0
  | (i, g) :: _ => BitVec.ofNat 64 (i + g * 2 ^ 18 + 2 ^ 63)

/-- Four words of a fault entry (Table 2.6). -/
def FaultEntry.words (e : FaultEntry) : List Nat :=
  [e.ftCycle % 2048 + e.frame * 2 ^ 11,
   e.status + e.opcode * 2 ^ 8 + e.holder * 2 ^ 16 + e.tenant * 2 ^ 28 + bit01 e.async (2 ^ 34),
   e.handle + e.detail * 2 ^ 32,
   e.offset]

/-- The 32 bytes of a fault entry. -/
def FaultEntry.bytes (e : FaultEntry) : List Byte := e.words.flatMap (leBytes 8)

/-- FAULT_POP's effect (R39): up to 8 entries leave the tenant's queue; CLEAR also clears FAULT_LOST and the
overflow counter. -/
def State.popFaults (s : State) (t : Nat) (clear : Bool) : List Byte × State :=
  let q := s.fq t
  let out := (q.entries.take 8).flatMap FaultEntry.bytes
  let q' : FaultQ := ⟨q.entries.drop 8, q.lost && !clear, if clear then 0 else q.overflow⟩
  (out, { s with xlt := { s.xlt with fq := msetD s.xlt.fq t q' emptyFq } })

end Sys2Proof.Machine
end

