-- ==== Sys2Proof/Machine/Dir.lean ====
section
/-! DEFINITION. The directory (chapter 7): memberships, entries, transactions, snoops, grants, crossing writebacks,
wait lists, victims, silent agents and the pulls of calls and revocations. A request that a step frees to start is put
into `Dir.ready`; the step then performs it. -/

namespace Sys2Proof.Machine

/-! ### Members and entries -/

def State.member (s : State) (a : Nat) : Option Member := mget s.dir.members a

/-- The holder is a current member. -/
def State.isMember (s : State) (a : Nat) : Bool :=
  match s.member a with | some m => m.state = 0 | none => false

/-- The holder's membership is revoked (R164). -/
def State.isRevoked (s : State) (a : Nat) : Bool :=
  match s.member a with | some m => m.state ≠ 0 | none => false

/-- The entry belongs to a set that this device holds; the copies of the partner's entries are invisible to its own
operations (R327). -/
def State.ownEntry (s : State) (d : DirEntry) : Bool := s.holds (setOfIndex d.index) || s.taking (setOfIndex d.index)

/-- The entry of a line. -/
def State.dentry (s : State) (line : Nat) : Option DirEntry :=
  s.dir.entries.find? fun d => d.line = line && s.ownEntry d

/-- Directory set of a line. -/
def dirSetOf (line : Nat) : Nat := Config.dirSet line % 2097152

/-- Agents that an entry names: its pointers, or every member of its tenant in a marked group (R153, R154). -/
def State.named (s : State) (d : DirEntry) : List Nat :=
  if d.coarse then
    (s.dir.members.filter fun m => m.2.state = 0 && m.2.tenant = d.tenant && d.groups.contains (m.1 / 64)).map (·.1)
  else d.ptrs

/-- The entry names the agent: by pointer, or by its group's bit. -/
def DirEntry.holds (d : DirEntry) (a : Nat) : Bool := if d.coarse then d.groups.contains (a / 64) else d.ptrs.contains a

/-- The extent's directory entries travel to the partner (R328). -/
def State.mirrored (s : State) (i : Nat) : Bool :=
  match s.extent i with | some e => e.prot = 2 || e.prot = 3 || e.prot = 4 | none => false

/-- The record entry of a directory entry (Table 15.3); state 0 FREE, 1 SHARED, 2 OWNED. -/
def dirRecord (d : DirEntry) (st : Nat) : EpochEntry := .dir d.line st d.coarse d.tenant d.gen d.ptrs d.groups

/-- Put an entry in place of its line's, most recent first. -/
def State.setEntry (s : State) (d : DirEntry) : State :=
  let s := s.dirUp fun x => { x with entries := d :: x.entries.filter fun y => y.line ≠ d.line || !s.ownEntry y }
  if s.mirrored d.index then s.logEntry (setOfIndex d.index) (dirRecord d (if d.owned then 2 else 1)) else s

/-- Free the entry of a line. -/
def State.freeEntry (s : State) (line : Nat) : State :=
  match s.dentry line with
  | none => s
  | some d =>
    let s := s.dirUp fun x => { x with entries := x.entries.filter fun y => y.line ≠ line || !s.ownEntry y }
    if s.mirrored d.index then s.logEntry (setOfIndex d.index) (dirRecord d 0) else s

/-- The entry becomes OWNED by an agent (R153). -/
def State.ownBy (s : State) (d : DirEntry) (a : Nat) : State :=
  s.setEntry { d with owned := true, coarse := false, ptrs := [a], groups := [] }

/-- Add a sharer (R153): a fifth one turns the entry coarse. -/
def State.shareBy (s : State) (d : DirEntry) (a : Nat) : State :=
  if d.holds a then s.setEntry d
  else if d.coarse then s.setEntry { d with groups := (a / 64) :: d.groups }
  else if d.ptrs.length < 4 then s.setEntry { d with owned := false, ptrs := d.ptrs ++ [a] }
  else s.setEntry { d with owned := false, coarse := true, ptrs := [], groups := ((d.ptrs ++ [a]).map (· / 64)).eraseDups }

/-- Data of the line has been written home and awaits the answer of its parity member (R340). -/
def State.homeWaits (s : State) (line : Nat) : Bool := s.ringPending (2 * line) || s.ringPending (2 * line + 1)

/-- The line is blocked by an open transaction (R155), or by a write of it that has not taken effect: a request that reaches it
meanwhile must find the data that the home has taken (R154, R157). -/
def State.blocked (s : State) (line : Nat) : Bool := (s.dir.txns.any fun t => t.line = line) || s.homeWaits line

/-! ### Snoops -/

/-- Snoops sent to an agent and not resolved. -/
def State.snoopsOut (s : State) (a : Nat) : Nat :=
  (s.dir.txns.map fun t => (t.snoops.filter fun x => x.agent = a && x.sent).length).sum

/-- Send a snoop as a MESSAGE on the member's snoop connection (Table 12.3). -/
def State.sendSnoop (s : State) (a code line i txn : Nat) : State :=
  let i := match s.dentry line with | some d => d.index | none => i
  match s.member a, s.extent i with
  | some m, some e =>
    let addr : Addr := ⟨BitVec.ofNat 32 (handleOf e.gen i), 0, BitVec.ofNat 64 (line * 128 - e.start * 65536)⟩
    s.message m.conn (0x28 + code) 0 0 0 (addr.bytes ++ leBytes 4 txn) false false
  | _, _ => s

def State.txn (s : State) (n : Nat) : Option Txn := s.dir.txns.find? fun t => t.num = n

def State.setTxn (s : State) (t : Txn) : State :=
  s.dirUp fun x => { x with txns := mapIf (fun y => y.num = t.num) (fun _ => t) x.txns }

def State.dropTxn (s : State) (n : Nat) : State :=
  s.dirUp fun x => { x with txns := x.txns.filter fun y => y.num ≠ n }

/-- Start the snoops of a transaction: each agent with a free snoop credit is snooped at once, the others as credits return
(R149, R163). -/
def State.snoopAll (s : State) (t : Txn) (agents : List Nat) (code : Nat) : State :=
  agents.foldl (fun s a =>
    let free : Bool := match s.member a with | some m => s.snoopsOut a < m.credits | none => false
    let s := match s.txn t.num with
      | some t' => s.setTxn { t' with snoops := t'.snoops ++ [⟨a, code, s.now, free, 0, false, false⟩] }
      | none => s
    if free then s.sendSnoop a code t.line t.index t.num else s) s

/-- Send the first snoop that has waited for an agent's credit. -/
def State.creditBack (s : State) (a : Nat) : State :=
  match s.member a with
  | none => s
  | some m =>
    let waits := fun (x : Snoop) => x.agent = a && !x.sent
    match s.dir.txns.find? (fun t => t.snoops.any waits) with
    | some t =>
      if m.credits ≤ s.snoopsOut a then s
      else
        let code := ((t.snoops.find? waits).map (·.code)).getD 1
        (s.setTxn { t with snoops := mapIf waits (fun x => { x with sent := true }) t.snoops }).sendSnoop a code t.line
          t.index t.num
    | none => s

/-! ### The home copy -/

/-- Write a line's 128 bytes into the home copy (R154): the cushion under its hint, or the write queue. What the write awaits is
counted under `key`. -/
def State.homeWrite (s : State) (i line : Nat) (data : List Byte) (key : Nat) : State :=
  match s.extent i with
  | none => s
  | some e =>
    (s.writeGranules i e (line * 128) (fitBytes 128 data) .clear { plainWriter with key := key } [2 * line, 2 * line + 1]).mirrorSend
      i 0 (line * 128) (fitBytes 128 data) none key

/-- Poison both granules of a line whose owner is lost (R164 step 4). -/
def State.poisonLine (s : State) (line : Nat) : State :=
  ((s.dropLine line).poisonGranule (2 * line)).poisonGranule (2 * line + 1)

/-! ### Answers -/

/-- BUSY_LINE from the directory, counted for its tenant (Table 7.12). -/
def State.busyDir (s : State) (r : Req) (hint : Nat) : State :=
  (s.count (R.DIR_TSTAT_BUSY.at (0x10 * r.tenant))).refuse r Status.busyLine hint

/-- BUSY_LINE under R156 and R163. -/
def State.busyWait (s : State) (r : Req) (hint : Nat) : State := (s.count R.DIR_COUNTS_BUSY_WAIT).busyDir r hint

/-- BUSY_LINE for a pinned set or a full victim buffer (R161). -/
def State.busySet (s : State) (r : Req) : State :=
  (((s.count R.DIR_COUNTS_BUSY_SET).raise 21 10)).busyDir r (s.fld R.DIR_CFG_BUSY_HINT_US)

/-- Body of a grant or of DATA_NC (Table 12.3): kind, transaction number, data. -/
def grantBody (kind txn : Nat) (data : List Byte) : List Byte := leBytes 1 kind ++ [0, 0, 0] ++ leBytes 4 txn ++ data

/-- Answer that must wait for the epoch record when its line's state is recorded at a standby (R328). -/
def State.respondLine (s : State) (i : Nat) (r : Req) (a : Ans) : State :=
  if s.mirrored i then s.respondRecorded (setOfIndex i) r a else s.respond r a

/-- The answer to a write of a line of extent `i`: it waits for what is counted under `key`, and for the record where that
carries the line's state (R18, R123, R328). -/
def State.finishLine (s : State) (key i : Nat) (r : Req) (a : Ans) : State :=
  let n := s.acksOf key
  let k := setOfIndex i
  if n = 0 then s.respondLine i r a
  else s.park key r a n (match s.extent i with | some e => e.prot = 2 || e.prot = 4 | none => false) k (if s.mirrored i && s.standby k then some (s.nextRecord k) else none)

/-! ### Opening and closing transactions -/

/-- Hold a request in the wait list of a line (R156), or refuse it once a snoop of the line's transaction has been repeated:
its snoops were sent, or would have been, when it opened (R163). -/
def State.waitLine (s : State) (line : Nat) (r : Req) : State :=
  let open_ := s.dir.txns.find? fun t => t.line = line
  match open_.filter (·.retried) with
  | some t => s.busyWait r (s.usUntil (t.opened + 24 * usCycles))
  | none =>
    if open_.isNone && !s.homeWaits line then s.dirUp fun x => { x with ready := x.ready ++ [r] }
    else if s.fld R.DIR_CFG_MAX_WAITERS ≤ (s.dir.waiters.filter fun w => w.line = line).length ∨
        s.tableFull 65536 s.dir.waiters.length (s.dir.waiters.filter fun w => w.req.tenant = r.tenant).length r.tenant then
      s.busyWait r (s.fld R.DIR_CFG_BUSY_HINT_US)
    else
      let since := r.waitFrom.getD s.now
      s.dirUp fun x => { x with waiters := x.waiters ++ [⟨line, { r with waitFrom := some since }, since⟩] }

/-- The tenant of a transaction. -/
def State.txnTenant (s : State) (t : Txn) : Nat :=
  match t.req with
  | some r => r.tenant
  | none => match s.extent t.index with | some e => e.tenant | none => 64

/-- No transaction slot is left for a tenant. -/
def State.txnsFull (s : State) (t : Nat) : Bool :=
  s.tableFull 16384 s.dir.txns.length (s.dir.txns.filter fun x => s.txnTenant x = t).length t

/-- No place of the victim buffer is left for a tenant. -/
def State.victimsFull (s : State) (t : Nat) : Bool :=
  s.tableFull 4096 s.dir.victims.length (s.dir.victims.filter fun d => d.tenant = t).length t

/-- Open a transaction; the new transaction and the state. -/
def State.openTxn (s : State) (kind : TxnKind) (line i : Nat) (r : Option Req) : Txn × State :=
  let t : Txn := ⟨s.dir.nextTxn % 2 ^ 32, kind, line, i, r, [], false, false, none, none, s.now, false⟩
  (t, s.dirUp fun x => { x with txns := x.txns ++ [t], nextTxn := x.nextTxn + 1 })

/-- The direction in which some queued call names the extent: 1 IN only, 2 with OUT or INOUT (R112). -/
def State.recallDir (s : State) (i : Nat) : Nat :=
  if s.seq.calls.any fun c => !c.locked && c.binds.any fun b => b.rows ≠ 0 && b.index = i && b.dir ≠ 1 then 2
  else if s.recallMarked i then 1 else 0

/-- The slots of queued calls that hold a line of an extent. -/
def State.recallBinds (s : State) (i line : Nat) : List (Nat × Bind) :=
  s.seq.calls.flatMap fun c => if c.locked then [] else (c.binds.filter fun b => b.index = i && b.touches line).map fun b => (c.key, b)

/-- An OUT or INOUT slot of a queued call holds the line (R167). -/
def State.recallOut (s : State) (i line : Nat) : Bool := (s.recallBinds i line).any fun b => b.2.dir ≠ 1

/-- Note a line that a revoked agent owned (R164 step 5). -/
def State.noteLost (s : State) (a i off : Nat) : State :=
  let l := s.dir.lostLines
  let l' := match l.find? (fun x => x.1 = a && x.2.1 = i) with
    | some (_, _, n, o) => mapIf (fun x => x.1 = a && x.2.1 = i) (fun _ => (a, i, n + 1, min o off)) l
    | none => l ++ [(a, i, 1, off)]
  s.dirUp fun x => { x with lostLines := l' }

/-- A line that a revoked agent is recorded to own is lost: noted for its extent's fault entry, and poisoned where
`LOST_POISON` says so (R164 steps 4 and 5). -/
def State.lostLine (s : State) (a : Nat) (d : DirEntry) : State :=
  let s := match s.extent d.index with
    | some e => s.noteLost a d.index (d.line * 128 - e.start * 65536)
    | none => s
  if s.fld R.DIR_CFG_LOST_POISON = 1 then s.poisonLine d.line else s

/-- R164 step 4 on one entry that names the agent. -/
def State.sweepEntry (s : State) (a : Nat) (d : DirEntry) : State :=
  if d.owned then (s.freeEntry d.line).lostLine a d
  else if d.coarse then s
  else
    let ptrs := d.ptrs.filter (· ≠ a)
    if ptrs = [] then s.freeEntry d.line else s.setEntry { d with ptrs := ptrs }

/-- An agent that an entry names is no member any more: a revoked one is handled as by its sweep (R165), and a line of one
that has left is clean at the home (R149). -/
def State.contactOne (s : State) (line a : Nat) : State :=
  match s.dentry line with
  | some d =>
    if d.coarse ∨ !d.ptrs.contains a ∨ s.isMember a then s
    else if s.isRevoked a then s.sweepEntry a d
    else if d.ptrs = [a] then s.freeEntry line
    else s.setEntry { d with ptrs := d.ptrs.filter (· ≠ a) }
  | none => s

/-- A transaction reaches a line's entry before a sweep does (R165). -/
def State.contact (s : State) (line : Nat) : State :=
  match s.dentry line with
  | some d => d.ptrs.foldl (fun s a => s.contactOne line a) s
  | none => s

/-- Pull an unblocked line back for a revoked extent or a queued call (R36 step 6, R167): snoops are sent when its
entry asks for them. -/
def State.pull (s : State) (line : Nat) : State :=
  if s.blocked line then s else
  let s := s.contact line
  match s.dentry line with
  | none => s
  | some d =>
    let closing : Bool := match s.extent d.index with | some e => e.state = .closing | none => true
    if closing then
      if s.named d = [] then s.freeEntry line
      else
        let (t, s) := s.openTxn .revoke line d.index none
        s.snoopAll t (s.named d) 1
    else
      match s.recallBinds d.index line with
      | [] => s
      | (call, _) :: _ =>
        let out := s.recallOut d.index line
        if !d.owned && !out then s
        else if s.named d = [] then s.freeEntry line
        else
          let (t, s) := s.openTxn (.pulling call out) line d.index none
          s.snoopAll t (s.named d) (if out then 1 else 0)

/-- A line becomes unblocked: pulls come first, then the waiters start in arrival order (R156). -/
def State.unblock (s : State) (line : Nat) : State :=
  let s := s.pull line
  if s.blocked line then s
  else
    let go := s.dir.waiters.filter fun w => w.line = line
    s.dirUp fun x => { x with
      waiters := x.waiters.filter fun w => w.line ≠ line
      ready := x.ready ++ go.map (·.req) }

/-- Close a transaction without a grant, or after its ACK (R155). -/
def State.closeTxn (s : State) (t : Txn) : State := (s.dropTxn t.num).unblock t.line

/-- A parity update is still owed for the answer `key`. -/
def State.ringOwes (s : State) (key : Nat) : Bool :=
  s.par.reqs.any fun q => match q.kind with | .rpUpdate k _ => k = key | _ => false

/-- The requests whose writes await a parity member, and have not taken effect (R340). -/
def State.ringWaits (s : State) : List Req := (s.parked.filter fun p => s.ringOwes p.key).map (·.req)

/-- The requests that may still use the transactions they hold open (R157). -/
def State.txnHolders (s : State) : List Req :=
  s.engineReqs ++ s.par.fetches.map (·.2.1) ++ s.dir.waiters.map (·.req) ++ s.dir.ready ++ s.dir.txns.filterMap (·.req) ++
    s.ringWaits

/-- The transactions of access-plane operations that have been performed, or refused, close (R155, R157). -/
def State.closeSpent (s : State) : State :=
  let kept := s.txnHolders.flatMap (·.txns)
  (s.dir.txns.filter fun t => t.kind = .acc && t.snoops = [] && !t.home && t.req.isNone && !kept.contains t.num).foldl
    (fun s t => s.closeTxn t) s

/-- Answer a caching request with a grant and await its ACK (R151, R155). -/
def State.sendGrant (s : State) (t : Txn) (r : Req) (kind : Nat) (data : List Byte) : State :=
  let a := mkAns r.op Status.ok 0 (grantBody kind t.num data)
  let s := s.setTxn { t with snoops := [], plan := none, req := some r, grant := some (a, s.now, 1) }
  s.respondLine t.index r a

/-- Read the home copy of a line for an answer. -/
inductive HomeRead where
  | data (bs : List Byte)
  | poisoned (g : Nat)
  | remote (gs : List Nat)
  deriving DecidableEq, Repr

def State.homeRead (s : State) (i : Nat) (e : Extent) (a n : Nat) (r : Req) : State × HomeRead :=
  match s.readRange i e a n r.fetched with
  | (s, .ok) => (s, .data (s.ecc.mem.read a n))
  | (s, .poisoned g) => (s, .poisoned g)
  | (s, .remote gs) => (s, .remote gs)

/-- End a transaction by its data's state: grant, POISONED, or, with the line still blocked, a read of the lost granules
elsewhere. A granted DATA_S makes the requester a sharer; one answered POISONED is not recorded. -/
def State.grantOr (s : State) (t : Txn) (r : Req) (x : GrantPlan) : State :=
  match s.extent t.index with
  | none => (s.closeTxn t).refuse r Status.revoked
  | some e =>
    match s.homeRead t.index e x.addr x.len r with
    | (s, .poisoned g) =>
      let s := if x.keep then s else s.freeEntry t.line
      (s.closeTxn t).respond r (carriedAns Status.poisoned (handleOf e.gen t.index) (g * 64 - e.start * 65536) 0)
    | (s, .remote gs) =>
      let r := { r with txns := [t.num] }
      (s.setTxn { t with snoops := [], req := some r, plan := some x }).fetchFor r t.index e gs
    | (s, .data bs) =>
      if x.kind = 3 then (s.closeTxn t).respond r (mkAns r.op Status.ok 0 (grantBody 3 t.num bs))
      else
        let s := match s.dentry t.line with
          | some d => if x.kind = 0 then s.shareBy d r.holder else s
          | none => s
        s.sendGrant t r x.kind (if x.withData then bs else [])

/-- The plan of a grant of a whole line. -/
def linePlan (kind line : Nat) (keep : Bool) : GrantPlan := ⟨kind, line * 128, 128, true, keep⟩

end Sys2Proof.Machine

namespace Sys2Proof

/-- The access-plane operations of R157 that change memory. -/
def ReqOp.writes : ReqOp → Bool
  | .read _ | .rdNa _ | .rdS _ => false
  | _ => true

/-- The coherent requests (Table 7.2). -/
def ReqOp.cohOp : ReqOp → Bool
  | .rdS _ | .rdX _ | .upg _ | .rdNa _ | .wb _ _ => true
  | _ => false

end Sys2Proof

namespace Sys2Proof.Machine

/-! ### Entries for new lines (R161, R162) -/

/-- Ways in which a tenant allocates entries. -/
def State.dirWays (s : State) (t : Nat) : List Nat :=
  if s.strict then
    let m := s.fld (R.DIR_TWAYS_WAY_MASK.at (0x10 * t))
    (List.range 12).filter fun w => m.testBit w
  else List.range 12

/-- Move an entry to the victim buffer and invalidate its holders (R161). -/
def State.evictEntry (s : State) (d : DirEntry) : State :=
  let s := s.contact d.line
  match s.dentry d.line with
  | none => s
  | some d =>
  let s := s.freeEntry d.line
  if s.named d = [] then s
  else
    let s := s.dirUp fun x => { x with victims := x.victims ++ [d] }
    let (t, s) := s.openTxn .victim d.line d.index none
    s.snoopAll t (s.named d) 1

/-- The way for a new entry of a tenant, and the entry it evicts; none when every way open to it is pinned or the
victim buffer is full. -/
def State.dirWay (s : State) (t line : Nat) : Option (Nat × Option DirEntry) :=
  let ways := s.dirWays t
  let inSet := s.dir.entries.filter fun d => dirSetOf d.line = dirSetOf line
  match ways.find? (fun w => !(inSet.any fun d => d.way = w)) with
  | some w => some (w, none)
  | none =>
    match inSet.reverse.find? (fun d => s.ownEntry d && !s.blocked d.line && ways.contains d.way && (!s.strict || d.tenant = t)) with
    | some d => if s.victimsFull t then none else some (d.way, some d)
    | none => none

/-- The line's entry becomes one that the requester owns: in the way of the entry it has, else in a new one; none when no
way is to be had (R161). -/
def State.claimLine (s : State) (r : Req) (i : Nat) (e : Extent) (line : Nat) : Option State :=
  match s.dentry line with
  | some d => some (s.ownBy d r.holder)
  | none =>
    match s.dirWay e.tenant line with
    | none => none
    | some (w, ev) =>
      let s := match ev with | some d => s.evictEntry d | none => s
      some (s.setEntry ⟨line, i, w, true, false, e.tenant, e.gen, [r.holder], []⟩)

/-- A transaction's requester takes the line, with data (Table 7.4): kind 1 DATA_E, 2 GRANT_M. -/
def State.claimOr (s : State) (t : Txn) (r : Req) (kind : Nat) : State :=
  match s.extent t.index with
  | none => (s.closeTxn t).refuse r Status.revoked
  | some e =>
    match s.claimLine r t.index e t.line with
    | some s => s.grantOr t r (linePlan kind t.line false)
    | none => (s.closeTxn t).busySet r

/-- Holders have given up the line to snoops, or only the owner its ownership, and no request is there to take it: the
entry as it then stands. -/
def State.afterSnoops (s : State) (line : Nat) (gone : Bool) : State :=
  match s.dentry line with
  | some d => if gone then s.freeEntry line else s.setEntry { d with owned := false }
  | none => s

/-- Every snoop of a transaction has been resolved: act on it (Table 7.4, R158, R167). The time that the request's own
transaction has waited for snoop replies does not count against its bound (R166). -/
def State.snoopsDone (s : State) (t0 : Txn) : State :=
  let later := fun (r : Req) => { r with bound := r.bound.map fun b => b + (s.now - t0.opened) }
  let t := { t0 with req := t0.req.map later, snoops := [], home := false }
  let s := s.setTxn t
  match t.kind, t.req with
  | .rdS, some r =>
    match s.dentry t.line with
    | some d =>
      if t.missed then s.claimOr t r 1
      else (s.setEntry { d with owned := false }).grantOr t r (linePlan 0 t.line true)
    | none => s.claimOr t r 1
  | .rdX, some r => s.claimOr t r 2
  | .upg, some r =>
    match s.dentry t.line with
    | some d => (s.ownBy d r.holder).sendGrant t r 2 []
    | none => s.claimOr t r 2
  | .rdNa, some r =>
    let s := if t.missed then s.freeEntry t.line else s
    match r.op.firstAddr, s.extent t.index with
    | some a, some e =>
      s.grantOr t r ⟨3, e.start * 65536 + a.offset.toNat, bitsOf a.length.toNat 0 7 + 1, true, true⟩
    | _, _ => s.closeTxn t
  | .acc, some r =>
    let s := if r.op.writes ∨ t.missed then s.freeEntry t.line else s
    let s := s.setTxn { t with req := none }
    s.dirUp fun x => { x with ready := { r with txns := r.txns ++ [t.num] } :: x.ready }
  | .pulling _ out, _ => (s.afterSnoops t.line (out || t.missed)).closeTxn t
  | .victim, _ => (s.dirUp fun x => { x with victims := x.victims.filter fun v => v.line ≠ t.line }).closeTxn t
  -- the requester's membership has been revoked meanwhile (R164 step 3)
  | .rdS, none => (s.afterSnoops t.line t.missed).closeTxn t
  | .rdNa, none | .acc, none => (if t.missed then s.freeEntry t.line else s).closeTxn t
  | .rdX, none | .upg, none | .revoke, _ => (s.freeEntry t.line).closeTxn t

/-- Every snoop of a transaction has been resolved: it goes on, when what the home has written of the line has taken effect. -/
def State.goOn (s : State) (t : Txn) : State :=
  if s.homeWaits t.line then s.setTxn { t with home := true } else s.snoopsDone t

/-- Resolve the snoop of an agent in a transaction; the last one lets it go on. -/
def State.resolveSnoop (s : State) (t : Txn) (a : Nat) (missed : Bool) : State :=
  let t := { t with snoops := t.snoops.filter fun x => x.agent ≠ a, missed := t.missed || missed }
  let s := (s.setTxn t).creditBack a
  match s.txn t.num with
  | some t => if t.snoops = [] then s.goOn t else s
  | none => s

/-- A write of a line has taken effect: what waits for it goes on (R154, R340). -/
def State.homeDone (s : State) (line : Nat) : State :=
  if s.homeWaits line then s
  else
    match s.dir.txns.find? fun t => t.line = line && t.home with
    | some t => s.snoopsDone t
    | none => if s.blocked line then s else s.unblock line

/-- Begin the transaction that follows from an empty set of snoops, or send them. -/
def State.beginTxn (s : State) (t : Txn) (agents : List Nat) (code : Nat) : State :=
  if agents = [] then s.snoopsDone t else s.snoopAll t agents code

/-! ### Coherent requests (R148, Table 7.4) -/

/-- Rights that a coherent request needs (R148). -/
def cohNeed : ReqOp → Nat
  | .rdX _ | .upg _ => rRead + rWrite
  | .wb _ _ => 0
  | _ => rRead

/-- The home copy's bytes for a request that opens no transaction (Table 7.4, R162). -/
def State.dataNc (s : State) (r : Req) (i : Nat) (e : Extent) (off n : Nat) : State :=
  match s.homeRead i e (e.start * 65536 + off) n r with
  | (s, .data bs) => s.respond r (mkAns r.op Status.ok 0 (grantBody 3 0 bs))
  | (s, .poisoned g) => s.respond r (carriedAns Status.poisoned (handleOf e.gen i) (g * 64 - e.start * 65536) 0)
  | (s, .remote gs) => s.fetchFor r i e gs

/-- A caching request opens its transaction on an unblocked line (Table 7.4). -/
def State.cohOpen (s : State) (r : Req) (i : Nat) (e : Extent) (line : Nat) : State :=
  let me := r.holder
  match s.dentry line with
  | none =>
    match s.dirWay e.tenant line with
    | none => s.busySet r
    | some _ =>
      let kind := match r.op with | .rdS _ => TxnKind.rdS | _ => .rdX
      let (t, s) := s.openTxn kind line i (some r)
      s.claimOr t r (if kind = .rdS then 1 else 2)
  | some d =>
    let others := (s.named d).filter (· ≠ me)
    match r.op with
    | .rdS _ =>
      let (t, s) := s.openTxn .rdS line i (some r)
      if d.owned then
        if d.holds me then (s.setEntry d).grantOr t r (linePlan 1 line true)
        else s.beginTxn t others 0
      else (s.setEntry d).grantOr t r (linePlan 0 line true)
    | .rdNa _ =>
      let (t, s) := s.openTxn .rdNa line i (some r)
      s.beginTxn t others 2
    | .upg _ =>
      let (t, s) := s.openTxn (if !d.owned && d.holds me then .upg else .rdX) line i (some r)
      s.beginTxn t others 1
    | _ =>
      let (t, s) := s.openTxn .rdX line i (some r)
      s.beginTxn t others 1

/-- A coherent request starts on an unblocked line. One that opens no transaction needs no slot for it (R156). -/
def State.cohStart (s : State) (r : Req) (i : Nat) (e : Extent) (line off n : Nat) : State :=
  let s := s.contact line
  let plain : Bool := match r.op, s.dentry line with
    | .rdNa _, some d => !(d.owned && (s.named d).any (· ≠ r.holder))
    | .rdNa _, none => true
    | _, none => s.dirWays e.tenant = []
    | _, some _ => false
  if plain then s.dataNc r i e off n
  else if s.txnsFull r.tenant then s.busyWait r (s.fld R.DIR_CFG_BUSY_HINT_US)
  else s.cohOpen r i e line

/-- The extent offset and length that a coherent request names: its whole line, or the bytes of an RD_NA. -/
def cohRange (op : ReqOp) (a : Addr) : Nat × Nat :=
  match op with
  | .rdNa _ => (a.offset.toNat, bitsOf a.length.toNat 0 7 + 1)
  | _ => (a.offset.toNat / 128 * 128, 128)

/-- The queue-time checks of RD_S, RD_X, UPG and RD_NA, made once (R29, R148, R149). -/
def State.cohCheck (s : State) (r : Req) (a : Addr) : State × Except Ans (Nat × Extent) :=
  let h := a.handle.toNat
  let na : Bool := match r.op with | .rdNa _ => true | _ => false
  let (off, n) := cohRange r.op a
  if s.isRevoked r.holder then (s, .error (mkAns r.op Status.membershipLost))
  else if r.checked then (s, .ok (h % 2 ^ 18, (s.extent (h % 2 ^ 18)).getD emptyExtent))
  else if na ∧ 128 < off % 128 + n then (s, .error (mkAns r.op Status.noRights))
  else
    match s.checkRange 22 r.holder r.tenant h off n (cohNeed r.op) 0 with
    | (s, .error x) => (s, .error x)
    | (s, .ok (i, e)) =>
      if !e.coherent ∨ (!na ∧ !s.isMember r.holder) then (s, .error (mkAns r.op Status.noRights)) else (s, .ok (i, e))

/-- The transactions that a request holds open. -/
def State.ownTxns (s : State) (r : Req) : List Txn := s.dir.txns.filter fun t => r.txns.contains t.num

/-- RD_S, RD_X, UPG and RD_NA: queue-time checks, membership, recall marks, the wait list, then the directory. One whose
transaction is open, and whose lost granules have come, is granted. -/
def State.coherent (s : State) (r : Req) (a : Addr) : State :=
  let (off, n) := cohRange r.op a
  match s.cohCheck r a with
  | (s, .error x) => s.respond r x
  | (s, .ok (i, e)) =>
    let r := { r with checked := true }
    let line := (e.start * 65536 + off) / 128
    let free := (s.dentry line).isNone
    let wantsOwn : Bool := match r.op with | .rdX _ | .upg _ => true | .rdS _ => free | _ => false
    match s.ownTxns r with
    | t :: _ => match t.plan with
      | some x => s.grantOr t r x
      | none => s.cohStart r i e line off n
    | [] =>
      if s.recallDir i = 2 ∨ (s.recallDir i = 1 ∧ wantsOwn) then s.busyDir r 1     -- R112
      else if s.blocked line then s.waitLine line r
      else s.cohStart r i e line off n

/-! ### Access-plane operations on COHERENT extents (R157) -/

/-- A line needs a transaction of its own for an access-plane operation: a read's, when another agent owns the line; a
write's, when the line has an entry, or the operation has begun to take its lines. -/
def State.lineWants (s : State) (r : Req) (l : Nat) : Bool :=
  match s.dentry l with
  | none => r.op.writes && r.txns ≠ []
  | some d => r.op.writes || (d.owned && (s.named d).any (· ≠ r.holder))

/-- The lines of an operation that it has not dealt with: blocked by others, or in want of a transaction. -/
def State.lineHolds (s : State) (r : Req) (l : Nat) : Bool :=
  !((s.ownTxns r).any fun t => t.line = l) && (s.blocked l || s.lineWants r l)

/-- Whether the directory holds an operation up. -/
def State.dirHolds (s : State) (r : Req) (e : Extent) (lines : List Nat) : Bool :=
  e.coherent && lines.any fun l => s.lineHolds r l

/-- A list in ascending order. -/
def ascending (l : List Nat) : List Nat := l.foldr insertAsc []
where
  insertAsc (x : Nat) : List Nat → List Nat
    | [] => [x]
    | y :: t => if x ≤ y then x :: y :: t else y :: insertAsc x t

/-- Send an access-plane operation through the directory: its lines in ascending order, a transaction for each that needs
one, which stays open until the operation has been performed (R155, R157). A wait for a further line counts anew (R156): the
request has started. -/
def State.accCoherent (s : State) (r : Req) (i : Nat) (lines : List Nat) : State :=
  let s := lines.foldl (fun s l => s.contact l) s
  match (ascending lines).find? fun l => s.lineHolds r l || (r.op.writes && !((s.ownTxns r).any fun t => t.line = l)) with
  | none => s.dirUp fun x => { x with ready := r :: x.ready }
  | some l =>
    if s.blocked l then s.waitLine l r
    else if s.txnsFull r.tenant then s.busyWait r (s.fld R.DIR_CFG_BUSY_HINT_US)
    else
      let who := match s.dentry l with
        | some d => if r.op.writes then s.named d else (s.named d).filter (· ≠ r.holder)
        | none => []
      let i := match s.extentAt (l * 128) with | some (j, _) => j | none => i
      let (t, s) := s.openTxn .acc l i (some { r with waitFrom := none })
      s.beginTxn t who (if r.op.writes then 1 else 2)

/-! ### Replies, acknowledgements and writebacks -/

/-- The holder that a connection is bound to. -/
def State.connHolder (s : State) (c : Nat) : Nat := match s.conn c with | some x => x.holder | none => 4096

/-- A snoop reply (R154, R158): `data` with RSP_DIRTY, `missed` for RSP_MISS and RSP_MISS_WB, `wb` for
RSP_MISS_WB. Once the agent's WB has come its data stands, and older data of a late reply does not replace it (R159). A reply
that no open snoop awaits changes nothing but the count of misses. -/
def State.snoopReply (s : State) (agent num : Nat) (data : Option (List Byte)) (missed wb : Bool) : State :=
  let s := if missed then s.count R.DIR_CROSS_STALE_MISS else s
  match s.txn num with
  | none => s
  | some t =>
    match t.snoops.find? (fun x => x.agent = agent && x.sent) with
    | none => s
    | some x =>
      let s := match data with
        | some bs => if x.gotWb then s else s.homeWrite t.index t.line bs 0
        | none => s
      if wb && !x.gotWb then
        s.setTxn { t with snoops := mapIf (fun y => y.agent = agent) (fun y => { y with needWb := true }) t.snoops }
      else s.resolveSnoop t agent (missed || x.gotWb)

/-- ACK of a grant (R151, R155). -/
def State.grantAck (s : State) (agent num : Nat) : State :=
  match s.txn num with
  | some t =>
    match t.grant, t.req with
    | some _, some r => if r.holder = agent then s.closeTxn t else s
    | _, _ => s
  | none => s

/-- The queue-time checks of a WB: the answer of the first that fails (R29, R159). -/
def State.wbFails (s : State) (r : Req) (a : Addr) : Option Ans :=
  let h := a.handle.toNat
  let i := h % 2 ^ 18
  match s.extent i with
  | some e =>
    if e.gen ≠ h / 2 ^ 18 ∨ e.tenant ≠ r.tenant ∨ (e.state ≠ .opened ∧ e.state ≠ .closing) then
      some (mkAns r.op Status.revoked)
    else if s.taking (setOfIndex i) then some (mkAns r.op Status.retryAfter 4)
    else if !s.holds (setOfIndex i) then some (mkAns r.op Status.notHolder)
    else if !e.coherent then some (mkAns r.op Status.noRights)
    else if e.len * 65536 < a.offset.toNat / 128 * 128 + 128 then
      some (carriedAns Status.unmapped h (max (e.len * 65536) (a.offset.toNat / 128 * 128)) 0)
    else none
  | none => some (mkAns r.op Status.revoked)

/-- WB (R159): the first matching case. A WB is never refused for a wait. -/
def State.writeBackLine (s : State) (r : Req) (a : Addr) (data : List Byte) : State :=
  let i := a.handle.toNat % 2 ^ 18
  let ok := fun (s : State) => s.respondLine i r (mkAns r.op Status.ok)
  let (key, s) := s.newKey
  let done := fun (s : State) => s.finishLine key i r (mkAns r.op Status.ok)
  match s.wbFails r a with
  | some x => s.respond r x
  | none =>
    let e := (s.extent i).getD emptyExtent
    let line := (e.start * 65536 + a.offset.toNat) / 128
    let owner : Bool := match s.dentry line with
      | some d => d.owned && d.ptrs.contains r.holder
      | none => s.dir.victims.any fun v => v.line = line && v.owned && v.ptrs.contains r.holder
    let snooped := s.dir.txns.find? fun t => t.line = line && t.snoops.any fun x => x.agent = r.holder
    if s.isRevoked r.holder then s.refuse r Status.membershipLost
    else if owner then
      match snooped with
      | some t =>                                                       -- case 2
        let s := s.homeWrite i line data key
        let s := done (s.count R.DIR_CROSS_WB_CROSS)
        if t.snoops.any fun x => x.agent = r.holder && x.needWb then s.resolveSnoop t r.holder true
        else s.setTxn { t with
          missed := true
          snoops := mapIf (fun y => y.agent = r.holder) (fun y => { y with gotWb := true }) t.snoops }
      | none =>
        let s := s.homeWrite i line data key
        let s := s.freeEntry line
        done (if s.blocked line then s else s.unblock line)           -- case 1
    else if s.isMember r.holder then ok s                               -- case 4
    else s.refuse r Status.noRights

/-! ### Memberships (R149, R164, R165) -/

/-- COH_JOIN (R149). -/
def State.join (s : State) (r : Req) (credits : Nat) : State :=
  let set := if s.holds 0 then 0 else 1
  match s.member r.holder with
  | some m =>
    if m.state = 0 then s.refuse r Status.ok
    else if credits < 16 then s.refuse r Status.noRights
    else if m.state = 1 then s.refuse r Status.retryAfter (s.usUntil (m.since + 2000 * usCycles))
    else go s set
  | none => if credits < 16 then s.refuse r Status.noRights else go s set
where
  go (s : State) (set : Nat) : State :=
    let s := s.dirUp fun x => { x with
      members := mset x.members r.holder ⟨r.tenant, r.conn, credits, 0, s.now, set⟩ }
    let s := s.logEntry set (.member r.holder credits 0)
    if s.standby set then s.respondRecorded set r (mkAns r.op Status.ok) else s.refuse r Status.ok

/-- Take an agent out of the entries that name it as owner: they are clean at the home (R149). -/
def State.dropOwned (s : State) (a : Nat) : State :=
  (s.dir.entries.filter fun d => s.ownEntry d && d.owned && d.ptrs.contains a).foldl (fun s d => s.freeEntry d.line) s

/-- Nothing awaits an agent any more: the snoops open to it resolve as RSP_MISS (R164 step 1). -/
def State.resolveAgent (s : State) (a : Nat) : State :=
  (s.dir.txns.filter fun t => t.snoops.any fun x => x.agent = a).foldl (fun s t =>
    match s.txn t.num with | some t => s.resolveSnoop t a true | none => s) s

/-- The grants that await an agent's ACK are taken as acknowledged (R164 step 1). -/
def State.ackAgent (s : State) (a : Nat) : State :=
  (s.dir.txns.filter fun t => t.grant.isSome && (match t.req with | some r => r.holder = a | none => false)).foldl
    (fun s t => s.closeTxn t) s

/-- COH_LEAVE (R149). -/
def State.leave (s : State) (r : Req) : State :=
  match s.member r.holder with
  | none => s.refuse r Status.ok
  | some m =>
    if m.state ≠ 0 then s.refuse r Status.membershipLost
    else
      let s := s.dropOwned r.holder
      let s := s.dirUp fun x => { x with members := mdel x.members r.holder }
      let s := (s.resolveAgent r.holder).ackAgent r.holder
      (s.logEntry m.set (.member r.holder 0 1)).refuse r Status.ok

/-- Entries that the sweep of an agent has still to visit. -/
def State.sweepTodo (s : State) (a : Nat) : Option DirEntry :=
  s.dir.entries.reverse.find? fun d => s.ownEntry d && !d.coarse && d.ptrs.contains a

/-- Revoke a membership (R164); cause 0 unanswered snoop, 1 missing ACK, 2 DIR_KICK. -/
def State.revokeMember (s : State) (a cause : Nat) : State :=
  match s.member a with
  | none => s
  | some m =>
    if m.state ≠ 0 then s
    else
      let s := s.dirUp fun x => { x with members := mset x.members a { m with state := 1, since := s.now } }
      let s := s.logEntry m.set (.member a m.credits 2)
      -- step 2: lines of open and waiting transactions, victims among them, that the agent owns
      let touched := (s.dir.txns.map (·.line)) ++ s.dir.waiters.map (·.line)
      let owned := fun (d : DirEntry) => d.owned && d.ptrs.contains a
      let s := (s.dir.entries.filter fun d => s.ownEntry d && touched.contains d.line && owned d).foldl
        (fun s d => s.sweepEntry a d) s
      let s := (s.dir.victims.filter owned).foldl (fun s d => s.lostLine a d) s
      -- step 3: its own requests, and its grants that have not been sent; a transaction whose snoops are open goes on without
      -- its request
      let mine := s.dir.waiters.filter fun w => w.req.holder = a
      let s := s.dirUp fun x => { x with waiters := x.waiters.filter fun w => !mine.contains w }
      let s := mine.foldl (fun s w => s.refuse w.req Status.membershipLost) s
      let open_ := s.dir.txns.filter fun t =>
        t.grant.isNone && (match t.req with | some r => r.holder = a | none => false)
      let s := open_.foldl (fun s t =>
        let s := match t.req with | some r => s.refuse r Status.membershipLost | none => s
        let s := s.parUp fun p => { p with fetches := p.fetches.filter fun f => !f.2.1.txns.contains t.num }
        let wrote : Bool := t.kind = .acc && (match t.req with | some r => r.op.writes | none => false)
        if t.snoops = [] && !t.home then s.closeTxn t else s.setTxn { t with req := none, missed := t.missed || wrote }) s
      let unsent := s.parked.filter fun p => p.req.holder = a && s.dir.txns.any fun t => t.grant.isSome && t.req = some p.req
      let s : State := { s with parked := s.parked.filter fun p => !unsent.contains p }
      let s := unsent.foldl (fun s p => s.refuse p.req Status.membershipLost) s
      let s := s.message m.conn 0x2B 0 0 0 [] false true
      -- step 1: its snoops resolve as RSP_MISS, its grants are acknowledged
      let s := (s.resolveAgent a).ackAgent a
      -- step 6
      let s := if s.dir.revoked.length < 64 then s.dirUp fun x => { x with revoked := x.revoked ++ [(a, m.tenant, cause)] } else s
      (s.count R.DIR_COUNTS_REVOKED).raise 21 8

/-- The sweep's next visit (R164 step 4, R165). -/
def State.sweepOne (s : State) (a : Nat) : State :=
  match s.member a with
  | some m =>
    if m.state = 1 then
      match s.sweepTodo a with
      | some d => s.sweepEntry a d
      | none => s
    else s
  | none => s

/-- The sweep of a revoked agent ends: one fault entry for each extent of which it owned lines (R164 steps 5, 6). -/
def State.sweepEnd (s : State) (a : Nat) : State :=
  match s.member a with
  | some m =>
    if m.state = 1 ∧ (s.sweepTodo a).isNone then
      let mine := s.dir.lostLines.filter fun x => x.1 = a
      let s := mine.foldl (fun s x =>
        match s.extent x.2.1 with
        | some e => s.asyncFault e.tenant Status.membershipLost (handleOf e.gen x.2.1) x.2.2.2 x.2.2.1
        | none => s) s
      let s := s.dirUp fun y => { y with
        lostLines := y.lostLines.filter fun x => x.1 ≠ a
        members := mset y.members a { m with state := 2 } }
      s.raise 21 11
    else s
  | none => s

/-! ### Timers -/

/-- A grant without ACK is sent again at 8 µs and 16 µs, on the path of the first; at 24 µs its requester's membership is
revoked (R155). One that is still held back for its record (R328) has not been sent. -/
def State.grantAgain (s : State) (num : Nat) : State :=
  match s.txn num with
  | some t =>
    match t.grant, t.req with
    | some (a, at_, n), some r =>
      if s.parked.any fun p => p.req = r then s
      else
        let s := s.toTime (at_ + 8 * usCycles * n)
        if n < 3 then (s.setTxn { t with grant := some (a, at_, n + 1) }).sendAnswer { r with bound := none } a
        else s.revokeMember r.holder 1
    | _, _ => s
  | none => s

/-- An unanswered snoop is sent again at 8 µs and 16 µs, and at 24 µs the agent is revoked (R163). From the first repeat on,
requests that wait for the line complete with BUSY_LINE. DEDUCED (entry 72): a snoop that RSP_MISS_WB has answered is not
repeated, and an agent whose WB has not come 24 µs after it is revoked as well, for R166 bounds that wait too. -/
def State.snoopAgain (s : State) (num agent : Nat) : State :=
  match s.txn num with
  | some t =>
    match t.snoops.find? (fun x => x.agent = agent) with
    | some x =>
      let s := s.toTime (x.firstAt + 8 * usCycles * (if x.needWb then 3 else x.tries + 1))
      if x.tries < 2 && !x.needWb then
        let free : Bool := x.sent || (match s.member agent with | some m => s.snoopsOut agent < m.credits | none => false)
        let s := s.setTxn { t with
          retried := true
          snoops := mapIf (fun y => y.agent = agent) (fun y => { y with tries := y.tries + 1, sent := free }) t.snoops }
        let s := (s.count R.DIR_COUNTS_SNOOP_RETRY).raise 21 9
        let s := if free then s.sendSnoop agent x.code t.line t.index num else s
        let wait := s.dir.waiters.filter fun w => w.line = t.line
        let s := s.dirUp fun y => { y with waiters := y.waiters.filter fun w => w.line ≠ t.line }
        wait.foldl (fun s w => s.busyWait w.req (s.usUntil (x.firstAt + 24 * usCycles))) s
      else s.revokeMember agent 0
    | none => s
  | none => s

/-- The oldest waiter of a line has waited `WAIT_LIMIT_US` (R156). -/
def State.waitExpire (s : State) (line : Nat) : State :=
  match s.dir.waiters.find? (fun w => w.line = line) with
  | none => s
  | some w =>
    let s := s.toTime (w.since + s.fld R.DIR_CFG_WAIT_LIMIT_US * usCycles)
    let s := s.dirUp fun x => { x with waiters := x.waiters.erase w }
    s.busyWait w.req (s.fld R.DIR_CFG_BUSY_HINT_US)

/-- After a mode change, one entry outside its tenant's permitted ways is evicted from a bank (R162). R152 gives 32 banks that
each serve a sixteenth of the sets; which sixteenth is DESIGN CHOICE (entry 57): bank b serves the sets whose number has
b mod 16 in its top four bits. -/
def State.partitionEvict (s : State) (bank : Nat) : State :=
  if !s.dir.evict then s
  else
    match s.dir.entries.find? (fun d => s.ownEntry d && dirSetOf d.line / 131072 = bank % 16 && !(s.dirWays d.tenant).contains d.way &&
        !s.blocked d.line) with
    | some d => if s.victimsFull d.tenant then s else s.evictEntry d
    | none => s

/-- DIR pulls every line of an extent that its entries record (R36 step 6). -/
def State.pullExtent (s : State) (i : Nat) : State :=
  (s.dir.entries.filter fun d => d.index = i).foldl (fun s d => s.pull d.line) s

end Sys2Proof.Machine
end

