-- ==== Sys2Proof/Machine/Flags.lean ====
section
/-! DEFINITION. The sticky flags of Table 4.5 and of the accumulates (R89, R134). -/

namespace Sys2Proof.Machine

def flagNV : Nat := 1
def flagDZ : Nat := 2
def flagOF : Nat := 4
def flagUF : Nat := 8
def flagNX : Nat := 16
def flagMergeOrder : Nat := 32
def flagMergeTrunc : Nat := 64
def flagHashFull : Nat := 128
def flagPtrInvalid : Nat := 256
def flagPtrRemote : Nat := 512
def flagBinCarry : Nat := 1024

/-- A result with the flags that it raises. -/
structure Flagged (α : Type) where
  val : α
  flags : Nat
  deriving DecidableEq, Repr

/-- A result that raises nothing. -/
def clean {α : Type} (v : α) : Flagged α := ⟨v, 0⟩

/-- Union of flag words. -/
def orFlags (l : List Nat) : Nat := l.foldl (· ||| ·) 0

end Sys2Proof.Machine
end

