-- ==== Sys2Proof/Machine/Float.lean ====
section
/-! DEFINITION. The number formats (Table 4.2) and their arithmetic: exact values, rounding (R70, R71), special values
(R74), conversions (R75, R76), and the generator Philox4x32-10 (R72). -/

namespace Sys2Proof.Machine

/-! ### Formats and values -/

/-- A floating-point format: exponent and mantissa widths, bias, and what its top codes mean. `kind` 0 IEEE (infinities
and NaN), 1 E4M3 (one NaN, no infinity), 2 no infinity and no NaN. -/
structure Fmt where
  ew : Nat
  mw : Nat
  bias : Nat
  kind : Nat
  deriving DecidableEq, Repr

def fp32 : Fmt := ⟨8, 23, 127, 0⟩
def fp16 : Fmt := ⟨5, 10, 15, 0⟩
def bf16 : Fmt := ⟨8, 7, 127, 0⟩
def e4m3 : Fmt := ⟨4, 3, 7, 1⟩
def e5m2 : Fmt := ⟨5, 2, 15, 0⟩
def e3m2 : Fmt := ⟨3, 2, 3, 2⟩
def e2m3 : Fmt := ⟨2, 3, 1, 2⟩
def e2m1 : Fmt := ⟨2, 1, 1, 2⟩

/-- Width in bits. -/
def Fmt.width (f : Fmt) : Nat := 1 + f.ew + f.mw

/-- The format of a VFMT code below 8 (Table 5.5). -/
def fmtOf (code : Nat) : Fmt :=
  match code with
  | 0 => fp32 | 1 => fp16 | 2 => bf16 | 3 => e4m3 | 4 => e5m2 | 5 => e3m2 | 6 => e2m3 | _ => e2m1

/-- A value: not a number, an infinity, or ± m · 2^e. -/
inductive FVal where
  | nan (signaling : Bool)
  | inf (neg : Bool)
  | fin (neg : Bool) (m : Nat) (e : Int)
  deriving DecidableEq, Repr

/-- The value of a code; a finite value's `e` is the exponent of its last significand bit. -/
def Fmt.decode (f : Fmt) (bits : Nat) : FVal :=
  let man := bitsOf bits 0 f.mw
  let ex := bitsOf bits f.mw f.ew
  let neg := bitsOf bits (f.mw + f.ew) 1 = 1
  let top := 2 ^ f.ew - 1
  if f.kind = 0 ∧ ex = top then
    if man = 0 then .inf neg else .nan (!man.testBit (f.mw - 1))
  else if f.kind = 1 ∧ ex = top ∧ man = 2 ^ f.mw - 1 then .nan false
  else if ex = 0 then .fin neg man (1 - (f.bias : Int) - f.mw)
  else .fin neg (man + 2 ^ f.mw) ((ex : Int) - f.bias - f.mw)

/-- Code of the canonical quiet NaN (R74). -/
def Fmt.qnan (f : Fmt) : Nat :=
  if f.kind = 1 then (2 ^ f.ew - 1) * 2 ^ f.mw + (2 ^ f.mw - 1)
  else (2 ^ f.ew - 1) * 2 ^ f.mw + 2 ^ (f.mw - 1)

def Fmt.sign (f : Fmt) (neg : Bool) : Nat := bit01 neg (2 ^ (f.mw + f.ew))

/-- Code of an infinity. -/
def Fmt.infCode (f : Fmt) (neg : Bool) : Nat := f.sign neg + (2 ^ f.ew - 1) * 2 ^ f.mw

/-- Code of the largest finite magnitude. -/
def Fmt.maxCode (f : Fmt) (neg : Bool) : Nat :=
  f.sign neg +
    (match f.kind with
     | 0 => (2 ^ f.ew - 1) * 2 ^ f.mw - 1
     | 1 => 2 ^ (f.ew + f.mw) - 2
     | _ => 2 ^ (f.ew + f.mw) - 1)

/-! ### Rounding (R70, R71) -/

/-- Rounding modes (Table 5.5): 0 RNE, 1 RTZ, 2 RUP, 3 RDN, 4 SR. -/
abbrev Mode := Nat

/-- What a stochastic rounding draws from: a conversion discards only significand bits of its source; an exact result
takes 32 bits (R71). -/
inductive Source where
  | conversion
  | exact
  deriving DecidableEq, Repr

/-- Whether a magnitude `hi` with discarded part `rem` of `shift` bits is rounded away from zero. A conversion to a subnormal
target discards every position below the subnormal quantum, leading zeros among them, and the model counts all of them in k
(DESIGN CHOICE, entry 62). -/
def roundsAway (mode : Mode) (src : Source) (draw : BitVec 32) (neg : Bool) (hi rem shift : Nat) : Bool :=
  if shift = 0 then false
  else
    match mode with
    | 0 => 2 ^ shift < 2 * rem ∨ (2 * rem = 2 ^ shift ∧ hi % 2 = 1)
    | 1 => false
    | 2 => !neg && rem ≠ 0
    | 3 => neg && rem ≠ 0
    | _ =>
      let k := match src with | .exact => 32 | .conversion => min shift 32
      let d := if k ≤ shift then rem / 2 ^ (shift - k) else rem * 2 ^ (k - shift)
      let r := if k = 32 then draw.toNat else Config.srBits k draw % 2 ^ k
      2 ^ k ≤ d + r

/-- Floor of log2 of a positive magnitude m · 2^e. -/
def magExp (m : Nat) (e : Int) : Int := (Nat.log2 m : Int) + e

/-- m · 2^e rounded to a multiple of 2^q: the multiple, and whether it is inexact. -/
def roundAt (mode : Mode) (src : Source) (draw : BitVec 32) (neg : Bool) (m : Nat) (e q : Int) : Nat × Bool :=
  if q ≤ e then (m * 2 ^ (e - q).toNat, false)
  else
    let shift := (q - e).toNat
    let hi := m / 2 ^ shift
    let rem := m % 2 ^ shift
    (if roundsAway mode src draw neg hi rem shift then hi + 1 else hi, rem ≠ 0)

/-- What an overflow becomes in an IEEE format (Table 4.3). -/
def Fmt.overflow (f : Fmt) (mode : Mode) (neg : Bool) : Nat :=
  match mode with
  | 1 => f.maxCode neg
  | 2 => if neg then f.maxCode true else f.infCode false
  | 3 => if neg then f.infCode true else f.maxCode false
  | _ => f.infCode neg

/-- Encode ± k · 2^q, k a multiple count at quantum `q` of the format. -/
def Fmt.pack (f : Fmt) (neg : Bool) (k : Nat) (q : Int) : Nat :=
  if k < 2 ^ f.mw then f.sign neg + k
  else
    let up : Nat := if 2 ^ (f.mw + 1) ≤ k then 1 else 0
    let k := k / 2 ^ up
    f.sign neg + (q + up + f.bias + f.mw).toNat * 2 ^ f.mw + (k - 2 ^ f.mw)

/-- The magnitude k · 2^q exceeds the format's largest finite value. -/
def Fmt.beyond (f : Fmt) (k : Nat) (q : Int) : Bool :=
  match f.decode (f.maxCode false) with
  | .fin _ m e => if e ≤ q then m < k * 2 ^ (q - e).toNat else m * 2 ^ (e - q).toNat < k
  | _ => false

/-- ± m · 2^e is tiny in a format, tininess detected after rounding (R89): its magnitude, rounded to the format's precision as
if its exponents had no bound, is below the smallest normal. Stochastic rounding draws once, so there the rounded result `k`
at its quantum decides. -/
def Fmt.tiny (f : Fmt) (mode : Mode) (src : Source) (draw : BitVec 32) (neg : Bool) (m : Nat) (e : Int) (k : Nat) : Bool :=
  let emin : Int := 1 - f.bias
  let ex := magExp m e
  if mode = 4 then k < 2 ^ f.mw
  else ex < emin && !(ex = emin - 1 && (roundAt mode src draw neg m e (ex - f.mw)).1 = 2 ^ (f.mw + 1))

/-- Round ± m · 2^e to an IEEE format (R70, R71, R74): the code and the flags OF, UF and NX. -/
def Fmt.round (f : Fmt) (mode : Mode) (src : Source) (draw : BitVec 32) (neg : Bool) (m : Nat) (e : Int) :
    Flagged Nat :=
  if m = 0 then clean (f.sign neg)
  else
    let emin : Int := 1 - f.bias
    let ex := magExp m e
    let q := max ex emin - f.mw
    let (k, nx) := roundAt mode src draw neg m e q
    if f.beyond k q then ⟨f.overflow mode neg, flagOF + flagNX⟩
    else
      ⟨f.pack neg k q, (if nx then flagNX else 0) + (if nx ∧ f.tiny mode src draw neg m e k then flagUF else 0)⟩

/-! ### Exact arithmetic -/

/-- Exact sum of two finite values, as sign, magnitude and exponent; the flag tells an exact zero. -/
def addFin (n1 : Bool) (m1 : Nat) (e1 : Int) (n2 : Bool) (m2 : Nat) (e2 : Int) : Bool × Nat × Int :=
  let e := min e1 e2
  let a := m1 * 2 ^ (e1 - e).toNat
  let b := m2 * 2 ^ (e2 - e).toNat
  if n1 = n2 then (n1, a + b, e)
  else if b < a then (n1, a - b, e)
  else if a < b then (n2, b - a, e)
  else (false, 0, e)

/-- NV of a signaling operand. -/
def sigFlag (x : FVal) : Nat := match x with | .nan true => flagNV | _ => 0

/-- IEEE sum of two values, rounded once. -/
def Fmt.addV (f : Fmt) (mode : Mode) (draw : BitVec 32) (x y : FVal) : Flagged Nat :=
  match x, y with
  | .nan _, _ | _, .nan _ => ⟨f.qnan, sigFlag x ||| sigFlag y⟩
  | .inf a, .inf b => if a = b then clean (f.infCode a) else ⟨f.qnan, flagNV⟩
  | .inf a, _ => clean (f.infCode a)
  | _, .inf b => clean (f.infCode b)
  | .fin n1 m1 e1, .fin n2 m2 e2 =>
    let (n, m, e) := addFin n1 m1 e1 n2 m2 e2
    if m = 0 then
      clean (f.sign (if m1 = 0 ∧ m2 = 0 ∧ n1 = n2 then n1 else mode = 3))
    else f.round mode .exact draw n m e

/-- The negative of a value. -/
def FVal.neg : FVal → FVal
  | .nan s => .nan s
  | .inf n => .inf (!n)
  | .fin n m e => .fin (!n) m e

/-- The exact product of two values; NaN for ∞ × 0. -/
def mulV (x y : FVal) : FVal :=
  match x, y with
  | .nan _, _ | _, .nan _ => .nan false
  | .inf a, .inf b => .inf (a ≠ b)
  | .inf a, .fin n m _ | .fin n m _, .inf a => if m = 0 then .nan true else .inf (a ≠ n)
  | .fin n1 m1 e1, .fin n2 m2 e2 => .fin (n1 ≠ n2) (m1 * m2) (e1 + e2)

def FVal.isNan : FVal → Bool | .nan _ => true | _ => false

/-- IEEE product, rounded once. -/
def Fmt.mulR (f : Fmt) (mode : Mode) (draw : BitVec 32) (x y : FVal) : Flagged Nat :=
  match mulV x y with
  | .nan s => ⟨f.qnan, sigFlag x ||| sigFlag y ||| (if s ∧ !x.isNan ∧ !y.isNan then flagNV else 0)⟩
  | .inf n => clean (f.infCode n)
  | .fin n m e => if m = 0 then clean (f.sign n) else f.round mode .exact draw n m e

/-- IEEE fused multiply-add x · y + z, one rounding. -/
def Fmt.fmaR (f : Fmt) (mode : Mode) (draw : BitVec 32) (x y z : FVal) : Flagged Nat :=
  match mulV x y with
  | .nan s =>
    ⟨f.qnan, sigFlag x ||| sigFlag y ||| sigFlag z ||| (if s ∧ !x.isNan ∧ !y.isNan then flagNV else 0)⟩
  | p => let r := f.addV mode draw p z; ⟨r.val, r.flags ||| sigFlag x ||| sigFlag y⟩

/-! ### Order, minimum and maximum -/

/-- x < y for values that are not NaN, −0 below +0 when `zeros`. -/
def FVal.lt (zeros : Bool) (x y : FVal) : Bool :=
  match x, y with
  | .nan _, _ | _, .nan _ => false
  | .inf a, .inf b => a && !b
  | .inf a, _ => a
  | _, .inf b => !b
  | .fin n1 m1 e1, .fin n2 m2 e2 =>
    if m1 = 0 ∧ m2 = 0 then zeros && n1 && !n2
    else
      let (n, m, _) := addFin n1 m1 e1 (!n2) m2 e2
      n && m ≠ 0

/-- x = y numerically. -/
def FVal.eq (x y : FVal) : Bool :=
  match x, y with
  | .nan _, _ | _, .nan _ => false
  | .inf a, .inf b => a = b
  | .fin n1 m1 e1, .fin n2 m2 e2 => let (_, m, _) := addFin n1 m1 e1 (!n2) m2 e2; m = 0
  | _, _ => false

/-- NaN-propagating minimum (or maximum) of two codes (R77, R134). -/
def Fmt.minmax (f : Fmt) (isMax : Bool) (a b : Nat) : Flagged Nat :=
  let x := f.decode a
  let y := f.decode b
  if x.isNan ∨ y.isNan then ⟨f.qnan, sigFlag x ||| sigFlag y⟩
  else if isMax then clean (if x.lt true y then b else a)
  else clean (if y.lt true x then b else a)

/-- minimumNumber and maximumNumber: a number wins over a NaN (R77). -/
def Fmt.minmaxNum (f : Fmt) (isMax : Bool) (a b : Nat) : Flagged Nat :=
  let x := f.decode a
  let y := f.decode b
  let fl := sigFlag x ||| sigFlag y
  if x.isNan ∧ y.isNan then ⟨f.qnan, fl⟩
  else if x.isNan then ⟨b, fl⟩
  else if y.isNan then ⟨a, fl⟩
  else f.minmax isMax a b

/-! ### Conversions (R75) -/

/-- Convert a value to a floating-point format (Table 4.3). DESIGN CHOICE (entry 71): a NaN or an infinity that is converted to E3M2,
E2M3 or E2M1 without a block scale, for which Table 4.3 has no row, gives the code of `Fmt.qnan` and the largest finite value. -/
def Fmt.convert (f : Fmt) (mode : Mode) (sat : Bool) (draw : BitVec 32) (x : FVal) : Flagged Nat :=
  match x with
  | .nan s => ⟨f.qnan, if s then flagNV else 0⟩
  | .inf n =>
    if f.kind = 0 ∧ !(f = e5m2 ∧ sat) then clean (f.infCode n)
    else if sat ∨ f.kind = 2 then clean (f.maxCode n)
    else clean f.qnan
  | .fin n m e =>
    if f.kind = 0 ∧ f ≠ e5m2 then f.round mode .conversion draw n m e
    else if m = 0 then clean (f.sign n)
    else
      let q := max (magExp m e) (1 - f.bias) - f.mw
      let (k, nx) := roundAt mode .conversion draw n m e q
      if f.beyond k q then
        let v := if sat ∨ f.kind = 2 then f.maxCode n else if f.kind = 1 then f.qnan else f.infCode n
        ⟨v, flagOF + flagNX⟩
      else
        ⟨f.pack n k q, (if nx then flagNX else 0) + (if nx ∧ f.tiny mode .conversion draw n m e k then flagUF else 0)⟩

/-- Round a value to an integer by mode. -/
def roundInt (mode : Mode) (draw : BitVec 32) (n : Bool) (m : Nat) (e : Int) : Int × Bool :=
  let (k, nx) := roundAt mode .conversion draw n m e 0
  (if n then -(k : Int) else k, nx)

/-- Convert a value to an integer of `w` bits (Table 4.3). -/
def toIntV (w : Nat) (signed : Bool) (mode : Mode) (draw : BitVec 32) (x : FVal) : Flagged Nat :=
  let lo : Int := if signed then -(2 ^ (w - 1) : Int) else 0
  let hi : Int := if signed then 2 ^ (w - 1) - 1 else 2 ^ w - 1
  let enc := fun (v : Int) => (v % (2 ^ w : Int)).toNat
  match x with
  | .nan _ => ⟨0, flagNV⟩
  | .inf n => ⟨enc (if n then lo else hi), flagNV⟩
  | .fin n m e =>
    let (v, nx) := roundInt mode draw n m e
    if v < lo then ⟨enc lo, flagNV⟩
    else if hi < v then ⟨enc hi, flagNV⟩
    else ⟨enc v, if nx then flagNX else 0⟩

/-- The integer that `w` bits hold. -/
def intOf (w : Nat) (signed : Bool) (v : Nat) : Int :=
  let v := v % 2 ^ w
  if signed ∧ 2 ^ (w - 1) ≤ v then (v : Int) - 2 ^ w else v

/-- An integer as a value. -/
def valOfInt (v : Int) : FVal := .fin (v < 0) v.natAbs 0

/-! ### Integer formats (VFMT codes 8 to 15) -/

def intWidth (code : Nat) : Nat := 8 * 2 ^ ((code - 8) / 2)
def intSigned (code : Nat) : Bool := code % 2 = 0

/-- Width in bits of an element of a VFMT code. -/
def widthOf (code : Nat) : Nat := if code < 8 then (fmtOf code).width else intWidth code

/-- An integer operation's result, wrapped or saturated (OF when it saturates, R89, R134). -/
def fitInt (w : Nat) (signed sat : Bool) (v : Int) : Flagged Nat :=
  let lo : Int := if signed then -(2 ^ (w - 1) : Int) else 0
  let hi : Int := if signed then 2 ^ (w - 1) - 1 else 2 ^ w - 1
  let enc := fun (v : Int) => (v % (2 ^ w : Int)).toNat
  if sat ∧ v < lo then ⟨enc lo, flagOF⟩
  else if sat ∧ hi < v then ⟨enc hi, flagOF⟩
  else clean (enc v)

/-! ### The generator (R72) -/

/-- One round of Philox4x32. -/
def philoxRound (k0 k1 : BitVec 32) (c : List (BitVec 32)) : List (BitVec 32) :=
  let c0 := c.getD 0 0
  let c1 := c.getD 1 0
  let c2 := c.getD 2 0
  let c3 := c.getD 3 0
  let p0 := 0xD2511F53 * c0.toNat
  let p1 := 0xCD9E8D57 * c2.toNat
  [BitVec.ofNat 32 (p1 / 2 ^ 32) ^^^ c1 ^^^ k0, BitVec.ofNat 32 p1,
   BitVec.ofNat 32 (p0 / 2 ^ 32) ^^^ c3 ^^^ k1, BitVec.ofNat 32 p0]

/-- `n` rounds of Philox4x32, the key bumped between rounds. -/
def philoxRounds (n : Nat) (k0 k1 : BitVec 32) (c : List (BitVec 32)) : List (BitVec 32) :=
  match n with
  | 0 => c
  | m + 1 => philoxRounds m (k0 + 0x9E3779B9) (k1 + 0xBB67AE85) (philoxRound k0 k1 c)

/-- Philox4x32-10 of a 64-bit key and a counter of four words. -/
def philox (key : Word64) (c : List (BitVec 32)) : List (BitVec 32) :=
  philoxRounds 10 (BitVec.ofNat 32 key.toNat) (BitVec.ofNat 32 (key.toNat / 2 ^ 32)) c

end Sys2Proof.Machine
end

