-- ==== Sys2Proof/Machine/Check.lean ====
section
/-! DEFINITION. The ranges that each operation names, with the rights of Table 2.2, arenas (R169, R170), and the
queue-time checks of a whole request (R29, R32). -/

namespace Sys2Proof

/-! ### Ranges of an operation -/

/-- One range, or rows at a stride, that a request names, with the rights it needs. -/
structure Span where
  handle : Nat
  off : Nat
  rowLen : Nat
  rows : Nat
  stride : Nat
  need : Nat
  deriving DecidableEq, Repr

/-- Bytes of an atomic's operand: LENGTH [1:0] (Table 12.3). -/
def Addr.width (a : Addr) : Nat :=
  match bitsOf a.length.toNat 0 2 with
  | 0 => 4 | 1 => 8 | 2 => 16 | _ => 0

/-- The aligned offset on which an atomic acts (R126). -/
def Addr.aligned (a : Addr) : Nat := if a.width = 0 then a.offset.toNat else a.offset.toNat / a.width * a.width

/-- Fields of ACCUM's LENGTH (Table 12.3). -/
def Addr.elems (a : Addr) : Nat := bitsOf a.length.toNat 0 11 + 1
def Addr.targetFmt (a : Addr) : Nat := bitsOf a.length.toNat 12 4
def Addr.operandFmt (a : Addr) : Nat := bitsOf a.length.toNat 16 4
def Addr.operator (a : Addr) : Nat := bitsOf a.length.toNat 20 2
def Addr.stoch (a : Addr) : Bool := a.length.getLsbD 22

/-- Bytes of one element of a VFMT code. -/
def fmtBytes (code : Nat) : Nat :=
  match code with
  | 0 => 4 | 1 => 2 | 2 => 2 | 8 => 1 | 9 => 1 | 10 => 2 | 11 => 2 | 12 => 4 | 13 => 4 | 14 => 8 | 15 => 8 | _ => 1

/-- The last 64 KiB unit that a HINT names ends here (Table 12.3). -/
def Addr.hintLen (a : Addr) : Nat := (a.length.toNat + 1) * 65536

/-- The ranges that an operation names, in the order in which they are checked (R32), with the rights of Table 2.2. -/
def ReqOp.spans : ReqOp → List Span
  | .read a => [⟨a.handle.toNat, a.offset.toNat, a.rwLen, 1, 0, 1⟩]
  | .write a d => [⟨a.handle.toNat, a.offset.toNat, d.length, 1, 0, 2⟩]
  | .swap a _ | .cas a _ _ | .fetchAdd a _ | .fetchAnd a _ | .fetchOr a _ | .fetchXor a _ | .fetchSmin a _
  | .fetchSmax a _ | .fetchUmin a _ | .fetchUmax a _ => [⟨a.handle.toNat, a.aligned, a.width, 1, 0, 4⟩]
  | .accum a _ => [⟨a.handle.toNat, a.offset.toNat, a.elems * fmtBytes a.targetFmt, 1, 0, 4⟩]
  | .accumRc a b _ =>
    [⟨a.handle.toNat, a.offset.toNat, a.elems * fmtBytes a.targetFmt, 1, 0, 4⟩,
     ⟨b.handle.toNat, b.offset.toNat, a.elems * fmtBytes a.targetFmt, 1, 0, 4⟩]
  | .move a b rl rows ss ds =>
    [⟨a.handle.toNat, a.offset.toNat, rl.toNat + 1, bitsOf rows.toNat 0 24 + 1, ss.toNat, 1⟩,
     ⟨b.handle.toNat, b.offset.toNat, rl.toNat + 1, bitsOf rows.toNat 0 24 + 1, ds.toNat, 2⟩]
  | .hint a _ => [⟨a.handle.toNat, a.offset.toNat, a.hintLen, 1, 0, 1⟩]
  | .kvAlloc h => [⟨h.toNat, 0, 0, 1, 0, 0⟩]
  | .kvFree h _ => [⟨h.toNat, 0, 0, 1, 0, 0⟩]
  | .publish h _ _ => [⟨h.toNat, 0, 0, 1, 0, 2⟩]
  | .republish h _ _ _ => [⟨h.toNat, 0, 0, 1, 0, 2⟩]
  | .ringReduce l e _ sc _ bag sa d =>
    [⟨l.handle.toNat, l.offset.toNat, (bitsOf l.length.toNat 0 8 + 1) * 16, 1, 0, 1⟩] ++
    (if sc then [⟨sa.handle.toNat, sa.offset.toNat,
      (if bag.toNat = 0 then 0 else (e.toNat + 1 + bag.toNat - 1) / bag.toNat) * 4, 1, 0, 1⟩] else []) ++
    [⟨d.handle.toNat, d.offset.toNat, (e.toNat + 1) * 4, 1, 0, 2⟩]
  | .ringRoute p t =>
    [⟨p.handle.toNat, p.offset.toNat, (bitsOf p.length.toNat 0 20 + 1) * 8, 1, 0, 1⟩,
     ⟨t.handle.toNat, t.offset.toNat, (bitsOf t.length.toNat 0 8 + 1) * 32, 1, 0, 1⟩]
  | _ => []

/-- The granules of its extent that a span touches lie within these offsets. -/
def Span.bounds (x : Span) : Nat × Nat := (x.off, x.off + (x.rows - 1) * x.stride + x.rowLen)

/-- Two spans may touch a common granule. -/
def Span.meets (x y : Span) : Bool :=
  x.handle % 2 ^ 18 = y.handle % 2 ^ 18 && x.bounds.1 / 64 * 64 < y.bounds.2 && y.bounds.1 / 64 * 64 < x.bounds.2

end Sys2Proof

namespace Sys2Proof.Machine

/-! ### Arenas and blocks -/

def arenaOfBlock (b : Nat) : Nat := b / 2 ^ 24

/-- The registered arena whose extent has index `i` (R169). -/
def State.arenaOf (s : State) (i : Nat) : Option Nat :=
  (List.range 256).find? fun a =>
    s.fld (R.PFX_ARENA_VALID.at (8 * a)) = 1 && s.fld (R.PFX_ARENA_INDEX.at (8 * a)) = i

def State.arenaIndex (s : State) (a : Nat) : Nat := s.fld (R.PFX_ARENA_INDEX.at (8 * a))
def State.arenaBlocks (s : State) (a : Nat) : Nat := s.fld (R.PFX_ARENA_BLOCKS.at (8 * a))
def State.arenaUnits (s : State) (a : Nat) : Nat := s.fld (R.PFX_ARENA_BLOCK_UNITS.at (8 * a))

def freeBlock : Block := ⟨0, 0⟩

def State.block (s : State) (b : Nat) : Block := mgetD s.pfx.blocks b freeBlock

/-- The set of a block: that of its arena's extent (R320). -/
def State.setOfBlock (s : State) (b : Nat) : Nat := setOfIndex (s.arenaIndex (arenaOfBlock b))

/-- Put a block into a state of Table 8.1. -/
def State.setBlock (s : State) (b st owner : Nat) : State :=
  let s := s.pfxUp fun x => { x with blocks := msetD x.blocks b ⟨st, owner⟩ freeBlock }
  s.logEntry (s.setOfBlock b) (.block b st owner)

/-- The block is STAGED by the holder. -/
def State.stagedBy (s : State) (b holder : Nat) : Bool := s.block b = ⟨1, holder⟩

/-- The bytes `[off, off + n)` of an arena all lie in blocks that are STAGED by the holder (R170). -/
def State.stagedBytes (s : State) (a off n holder : Nat) : Bool :=
  let sz := s.arenaUnits a * 65536
  if sz = 0 ∨ n = 0 then false
  else
    let first := off / sz
    let last := (off + n - 1) / sz
    (List.range (last - first + 1)).all fun k =>
      first + k < s.arenaBlocks a && s.stagedBy (a * 2 ^ 24 + first + k) holder

/-! ### Queue-time checks of a request -/

/-- Where an arena refuses a write with NO_RIGHTS although its holder has the right (R170). -/
def State.arenaRefuses (s : State) (r : Req) (i : Nat) (x : Span) : Bool :=
  x.need &&& 6 ≠ 0 && x.rowLen ≠ 0 &&
    (match s.arenaOf i with
     | none => false
     | some a => !((List.range x.rows).all fun k => s.stagedBytes a (x.off + k * x.stride) x.rowLen r.holder))

/-- The checks of Table 2.4 on one span, R170 as part of check 3. -/
def State.checkSpan (s : State) (eng : Nat) (r : Req) (x : Span) (opnd : Nat) : State × Except Ans (Nat × Extent) :=
  let (s, res) := s.checkRows eng r.holder r.tenant x.handle x.off x.rowLen x.rows x.stride x.need opnd
  let i := x.handle % 2 ^ 18
  let refused := s.arenaRefuses r i x
  match res with
  | .ok y => (s, if refused then .error (failAns Status.noRights 0 x.handle x.off) else .ok y)
  | .error a =>
    if (a.status = Status.unmapped ∨ a.status = Status.busyLine) ∧ refused then
      (s, .error (failAns Status.noRights 0 x.handle x.off))
    else (s, .error a)

/-- The checks on spans in order; the first failure ends them (R32). -/
def State.checkSpans (s : State) (eng : Nat) (r : Req) (l : List Span) (opnd : Nat) :
    State × Except Ans (List (Nat × Extent)) :=
  match l with
  | [] => (s, .ok [])
  | x :: t =>
    match s.checkSpan eng r x opnd with
    | (s, .error a) => (s, .error a)
    | (s, .ok y) =>
      match s.checkSpans eng r t (opnd + 1) with
      | (s, .error a) => (s, .error a)
      | (s, .ok ys) => (s, .ok (y :: ys))

/-- The engine that a request's checks use: an access engine, or a bulk-move engine (R310). -/
def State.engineOf (s : State) (r : Req) : Nat :=
  match r.op with
  | .move .. => 16 + Config.engine s.freeCtr % 4
  | _ => Config.engine s.freeCtr % 16

/-- The extents of a request whose checks have passed before. -/
def State.spanExtents (s : State) (l : List Span) : List (Nat × Extent) :=
  l.map fun x => (x.handle % 2 ^ 18, (s.extent (x.handle % 2 ^ 18)).getD emptyExtent)

/-- The queue-time checks of a request (R29): made once, at its arrival; a request that was held after them runs under
its old check (R34). -/
def State.checkReq (s : State) (r : Req) : State × Except Ans (List (Nat × Extent)) :=
  if r.checked then (s, .ok (s.spanExtents r.op.spans))
  else s.tick.checkSpans (s.engineOf r) r r.op.spans 0

end Sys2Proof.Machine
end

