-- ==== Sys2Proof/Machine/Kv.lean ====
section
/-! DEFINITION. Arenas, blocks, the prefix index and pins (R169 to R179, R188). -/

namespace Sys2Proof.Machine

/-! ### Pins (R175) -/

def State.pinned (s : State) (b : Nat) : Bool := s.pfx.pins.any fun p => p.block = b

/-- A pin of a holder ends; a RETIRED block with no other pin becomes FREE. -/
def State.endPin (s : State) (holder b : Nat) : State :=
  if s.pfx.pins.any fun p => p.holder = holder && p.block = b then
    let s := s.pfxUp fun x => { x with pins := x.pins.filter fun p => !(p.holder = holder && p.block = b) }
    let s := s.logEntry (s.setOfBlock b) (.pin holder b 0)
    if (s.block b).st = 3 ∧ !s.pinned b then s.setBlock b 0 0 else s
  else s

/-- Pin a block for 2 ms, or reset the holder's pin on it. -/
def State.pinFor (s : State) (holder b : Nat) : State :=
  let ends := s.now + 2000 * usCycles
  let s := s.pfxUp fun x => { x with
    pins := (x.pins.filter fun p => !(p.holder = holder && p.block = b)) ++ [⟨holder, b, ends⟩] }
  s.logEntry (s.setOfBlock b) (.pin holder b 2000)

/-- µs to the earliest expiry among the pins on the blocks that satisfy `p`; 1 when there is none. -/
def State.pinHint (s : State) (p : Nat → Bool) : Nat :=
  match leastOf ((s.pfx.pins.filter fun x => p x.block).map (·.ends)) with
  | some t => s.usUntil t
  | none => 1

/-! ### The index (R172, R173) -/

/-- Set of a tenant's key. -/
def State.keySet (s : State) (t : Nat) (key : BitVec 128) : Nat :=
  let d := 0x10 * t
  s.fld (R.PFX_TSETS_SET_BASE.at d) +
    (key.toNat % 2 ^ 64 ^^^ key.toNat / 2 ^ 64) % s.fld (R.PFX_TSETS_SET_COUNT.at d)

/-- A block of a set that this device holds or takes over. -/
def State.ownBlock (s : State) (b : Nat) : Bool := s.holds (s.setOfBlock b) || s.taking (s.setOfBlock b)

/-- The entry of a tenant's key in a set that this device holds or takes over. -/
def State.findKey (s : State) (t : Nat) (key : BitVec 128) : Option PfxEntry :=
  s.pfx.entries.find? fun e => e.tenant = t && e.key = key && s.ownBlock e.block

/-- The next recency stamp. -/
def State.nextStamp (s : State) : Nat × State := (s.pfx.stamp + 1, s.pfxUp fun x => { x with stamp := x.stamp + 1 })

/-- Put an entry into the index, with a fresh stamp. -/
def State.putEntry (s : State) (t : Nat) (key : BitVec 128) (block version : Nat) : State :=
  let (st, s) := s.nextStamp
  let s := s.pfxUp fun x => { x with
    entries := (x.entries.filter fun e => !(e.tenant = t && e.key = key && s.ownBlock e.block)) ++
      [⟨t, key, block, version, st⟩] }
  s.logEntry (s.setOfBlock block) (.pfx t key block version st)

/-- Remove an entry. -/
def State.dropEntry (s : State) (e : PfxEntry) : State :=
  let s := s.pfxUp fun x => { x with entries := x.entries.erase e }
  s.logEntry (s.setOfBlock e.block) (.pfx e.tenant e.key e.block 0 0)

/-- A published block leaves the index: RETIRED while pins hold it, else FREE (Table 8.1). -/
def State.unpublishBlock (s : State) (b : Nat) : State := s.setBlock b (if s.pinned b then 3 else 0) 0

/-- Evict an entry whose block is not pinned, which its tenant's count shows (R174). A copy of the partner's entry leaves
this index alone. -/
def State.evictPfx (s : State) (e : PfxEntry) : State :=
  let s := s.count (R.PFX_TSTAT_EVICTIONS.at (0x10 * e.tenant))
  if !s.ownBlock e.block then s.pfxUp fun x => { x with entries := x.entries.erase e }
  else (s.dropEntry e).setBlock e.block 0 0

/-- The least recent entry with an unpinned block among those that satisfy `p`. -/
def State.leastRecent (s : State) (p : PfxEntry → Bool) : Option PfxEntry :=
  (s.pfx.entries.filter fun e => p e && !s.pinned e.block).foldl (fun m e =>
    match m with
    | none => some e
    | some x => if e.stamp < x.stamp then some e else some x) none

/-- The version after `v` (R173). -/
def nextVersion (v : Nat) : Nat := if v = 0xFFFFFFFF then 1 else v + 1

/-! ### The operations (Table 8.2) -/

/-- Changes that R178 and R328 hold back are answered after their record; the others at once. -/
def State.kvAnswer (s : State) (r : Req) (k i : Nat) (a : Ans) : State :=
  match s.extent i with
  | some e => if e.prot = 2 then s.respondRecorded k r a else (s.logReplay k r a).respond r a
  | none => s.respond r a

/-- The arena that a request names, checked by R29; the answer of the failing check otherwise. -/
def State.arenaCheck (s : State) (r : Req) (handle : Nat) : State × Except Ans (Nat × Nat) :=
  match s.checkReq r with
  | (s, .error a) => (s, .error a)
  | (s, .ok l) =>
    let i := (l.headD (0, emptyExtent)).1
    match s.arenaOf i with
    | some a => (s, .ok (i, a))
    | none => (s, .error (failAns Status.noRights 0 handle 0))

/-- KV_ALLOC. -/
def State.doKvAlloc (s : State) (r : Req) (handle : Nat) : State :=
  match s.arenaCheck r handle with
  | (s, .error a) => s.respond r a
  | (s, .ok (i, a)) =>
    let n := s.arenaBlocks a
    let used := (s.pfx.blocks.filter fun b => arenaOfBlock b.1 = a).length
    let give := fun (s : State) (b : Nat) =>
      (s.setBlock b 1 r.holder).kvAnswer r (setOfIndex i) i (mkAns r.op Status.ok b)
    match (if used < n then (List.range (min n (used + 1))).find? fun b => (s.block (a * 2 ^ 24 + b)).st = 0 else none) with
    | some b => give s (a * 2 ^ 24 + b)
    | none =>
      match s.leastRecent (fun e => arenaOfBlock e.block = a) with
      | some e => give (s.evictPfx e) e.block
      | none => s.refuse r Status.retryAfter (s.pinHint fun b => arenaOfBlock b = a)

/-- KV_FREE. -/
def State.doKvFree (s : State) (r : Req) (handle block : Nat) : State :=
  match s.arenaCheck r handle with
  | (s, .error a) => s.respond r a
  | (s, .ok (i, a)) =>
    if arenaOfBlock block = a ∧ s.stagedBy block r.holder then
      let s := s.setBlock block 0 0
      let ans := mkAns r.op Status.ok
      (s.logReplay (setOfIndex i) r ans).respond r ans
    else s.refuse r Status.noRights

/-- PUBLISH. -/
def State.doPublish (s : State) (r : Req) (handle block : Nat) (key : BitVec 128) : State :=
  match s.arenaCheck r handle with
  | (s, .error a) => s.respond r a
  | (s, .ok (i, a)) =>
    let t := r.tenant
    if s.fld (R.PFX_TSETS_SET_COUNT.at (0x10 * t)) = 0 then s.refuse r Status.noRights
    else if !(arenaOfBlock block = a && s.stagedBy block r.holder) then s.refuse r Status.noRights
    else
      match s.findKey t key with
      | some w =>
        (s.setBlock block 0 0).kvAnswer r (setOfIndex i) i (mkAns r.op Status.exists_ (w.block + w.version * 2 ^ 32))
      | none =>
        let set := s.keySet t key
        let inSet := fun (e : PfxEntry) => e.tenant = t && s.keySet t e.key = set
        let finish := fun (s : State) =>
          ((s.putEntry t key block 1).setBlock block 2 0).kvAnswer r (setOfIndex i) i (mkAns r.op Status.ok (2 ^ 32))
        if (s.pfx.entries.filter inSet).length < 8 then finish s
        else
          match s.leastRecent inSet with
          | some e => finish (s.evictPfx e)
          | none =>
            let hint := s.pinHint fun b => s.pfx.entries.any fun e => inSet e && e.block = b
            ((s.count R.PFX_COUNTS_SET_FULL).raise 22 8).refuse r Status.retryAfter hint

/-- REPUBLISH. -/
def State.doRepublish (s : State) (r : Req) (handle block : Nat) (key : BitVec 128) (version : Nat) : State :=
  match s.arenaCheck r handle with
  | (s, .error a) => s.respond r a
  | (s, .ok (i, a)) =>
    let t := r.tenant
    if s.fld (R.PFX_TSETS_SET_COUNT.at (0x10 * t)) = 0 then s.refuse r Status.noRights
    else if !(arenaOfBlock block = a && s.stagedBy block r.holder) then s.refuse r Status.noRights
    else
      match s.findKey t key with
      | some e =>
        if e.version = version then
          let v := nextVersion version
          let s := s.unpublishBlock e.block
          ((s.putEntry t key block v).setBlock block 2 0).kvAnswer r (setOfIndex i) i
            (mkAns r.op Status.ok (v * 2 ^ 32))
        else s.refuse r Status.conflict e.version
      | none => s.refuse r Status.conflict 0

/-- UNPUBLISH. -/
def State.doUnpublish (s : State) (r : Req) (key : BitVec 128) (version : Nat) : State :=
  match s.findKey r.tenant key with
  | some e =>
    let k := s.setOfBlock e.block
    if s.taking k then s.refuse r Status.retryAfter 4
    else if e.version = version then
      let i := s.arenaIndex (arenaOfBlock e.block)
      ((s.dropEntry e).unpublishBlock e.block).kvAnswer r k i (mkAns r.op Status.ok)
    else s.refuse r Status.conflict e.version
  | none => s.refuse r Status.conflict 0

/-- The body of a LOOKUP's answer (Table 12.3). -/
def lookupBody (found : Bool) (handle block version off us : Nat) : List Byte :=
  leBytes 4 (bit01 found 1) ++ leBytes 4 handle ++ leBytes 4 block ++ leBytes 4 version ++ leBytes 8 off ++
    leBytes 4 us ++ leBytes 4 0

/-- Pins of the pin table: those of a takeover, number 4096, are no holder's and take no entry of it (R175, R178). -/
def State.heldPins (s : State) : List Pin := s.pfx.pins.filter fun p => p.holder < 4096

/-- Pins that a tenant's holders have. -/
def State.pinsOf (s : State) (t : Nat) : Nat := (s.heldPins.filter fun p => s.holderTenant p.holder = t).length

/-- The entry that a LOOKUP finds: none for a tenant without sets, nor in an arena whose extent is not OPEN (R172, R179). -/
def State.hitKey (s : State) (t : Nat) (key : BitVec 128) : Option PfxEntry :=
  if s.fld (R.PFX_TSETS_SET_COUNT.at (0x10 * t)) = 0 then none
  else (s.findKey t key).filter fun e =>
    match s.extent (s.arenaIndex (arenaOfBlock e.block)) with | some x => x.state = .opened | none => false

/-- LOOKUP. -/
def State.doLookup (s : State) (r : Req) (key : BitVec 128) : State :=
  match s.hitKey r.tenant key with
  | none => s.respond r (mkAns r.op Status.ok 0 (lookupBody false 0 0 0 0 0))
  | some e =>
    let k := s.setOfBlock e.block
    let a := arenaOfBlock e.block
    let i := s.arenaIndex a
    match s.extent i with
    | none => s.respond r (mkAns r.op Status.ok 0 (lookupBody false 0 0 0 0 0))
    | some x =>
      if s.taking k then s.refuse r Status.retryAfter 4
      else if !covers (s.rightsOf r.holder i x) rRead then s.refuse r Status.noRights
      else
        let mine := s.pfx.pins.any fun p => p.holder = r.holder && p.block = e.block
        let full := (1048576 ≤ s.heldPins.length ∨
          s.fld (R.PFX_TSETS_MAX_PINS.at (0x10 * r.tenant)) ≤ s.pinsOf r.tenant) ∧ !mine
        if full then ((s.count R.PFX_COUNTS_PIN_FULL).raise 22 9).refuse r Status.retryAfter 1
        else
          let (st, s) := s.nextStamp
          let s := s.pfxUp fun y => { y with
            entries := mapIf (fun z => z.tenant = e.tenant && z.key = e.key) (fun z => { z with stamp := st }) y.entries }
          let s := s.logEntry k (.pfx e.tenant e.key e.block e.version st)
          (s.pinFor r.holder e.block).respond r (mkAns r.op Status.ok 0
            (lookupBody true (handleOf x.gen i) e.block e.version (e.block % 2 ^ 24 * s.arenaUnits a * 65536) 2000))

/-- UNPIN. -/
def State.doUnpin (s : State) (r : Req) (block : Nat) : State :=
  (s.endPin r.holder block).respond r (mkAns r.op Status.ok)

/-- A pin lapses 2 ms after its LOOKUP took effect. -/
def State.pinExpire (s : State) (holder block : Nat) : State :=
  match s.pfx.pins.find? (fun p => p.holder = holder && p.block = block) with
  | some p => (s.toTime p.ends).endPin holder block
  | none => s

/-- A pin lapses. -/
def execPinExpire (holder block : Nat) (s : State) : Out := .next (s.pinExpire holder block)

/-- Every block that a holder has STAGED becomes FREE. -/
def State.reclaim (s : State) (holder : Nat) : State :=
  (s.pfx.blocks.filter fun b => b.2 = ⟨1, holder⟩).foldl (fun s b => s.setBlock b.1 0 0) s

/-- A write of `PFX_RECLAIM` with GO: the HOLDER in force is reclaimed (R171, R410). -/
def execPfxReclaim (src : RegSrc) (w : Word64) (s : State) : Out :=
  let s := s.storeReg src 0x16118 (w ||| BitVec.ofNat 64 (2 ^ 63))
  .next (s.reclaim (s.fld R.PFX_RECLAIM_HOLDER))

/-- An arena loses its entries and pins, and its blocks go (R36 step 1, R188). -/
def State.emptyArena (s : State) (a : Nat) : State :=
  let es := s.pfx.entries.filter fun e => arenaOfBlock e.block = a
  let s := es.foldl (fun s e => s.dropEntry e) s
  let ps := s.pfx.pins.filter fun p => arenaOfBlock p.block = a
  let s := ps.foldl (fun s p => s.endPin p.holder p.block) s
  let bs := s.pfx.blocks.filter fun b => arenaOfBlock b.1 = a && b.2.st ≠ 1
  bs.foldl (fun s b => s.setBlock b.1 0 0) s

/-- An arena is removed: VALID 0, no block left, and ARENA_REMOVED raised. -/
def State.removeArena (s : State) (a : Nat) : State :=
  let s := s.emptyArena a
  let bs := s.pfx.blocks.filter fun b => arenaOfBlock b.1 = a
  let s := bs.foldl (fun s b => s.setBlock b.1 0 0) s
  let s := s.setFld (R.PFX_ARENA_VALID.at (8 * a)) 0
  let s := s.setFld (R.PFX_ARENA_BLOCKS.at (8 * a)) 0
  s.raise 22 11

/-- Blocks of mirrored arenas of set `k` that a takeover pins until `t`: no holder's pin, so that they are held by
number 4096, which no holder has (R178). -/
def State.takeoverPins (s : State) (k t : Nat) : State :=
  let bs := s.pfx.blocks.filter fun b =>
    b.2.st = 2 && s.setOfBlock b.1 = k &&
      (match s.extent (s.arenaIndex (arenaOfBlock b.1)) with | some e => e.prot = 2 | none => false)
  s.pfxUp fun x => { x with pins := x.pins ++ bs.map fun b => ⟨4096, b.1, t⟩ }

end Sys2Proof.Machine
end

