-- ==== Sys2Proof/Machine/Access.lean ====
section
/-! DEFINITION. Access plane operations (chapter 6): reads and writes, atomics, accumulates, bulk moves, hints, fences
and the replay cache. -/

namespace Sys2Proof.Machine

/-! ### Ranges of an extent -/

/-- Device byte address of an extent offset. -/
def Extent.addr (e : Extent) (off : Nat) : Nat := e.start * 65536 + off

/-- POISONED at a granule of operand `opnd` (Table 12.4). -/
def poisonAns (handle : Nat) (e : Extent) (g opnd : Nat) : Ans :=
  carriedAns Status.poisoned handle (g * 64 - e.start * 65536) opnd

/-- INTERNAL_ERROR at a granule that a write cannot reach: one of a retired pseudo-channel (R222, R247). -/
def shutAns (handle : Nat) (e : Extent) (g : Nat) : Ans := failAns Status.internalError 0 handle (g * 64 - e.start * 65536)

/-- One more operation executed (`ACC_OPS`). -/
def State.opDone (s : State) : State := s.countWrap R.ACC_OPS_OPS

/-- An engine takes a request: it is counted once, whatever it waits for later. -/
def State.opTaken (s : State) (r : Req) : State := if r.begun then s else s.opDone

/-! ### Errors in the on-chip tables (R237) -/

/-- The device ranges of a request's spans; a MOVE's chunks touch theirs one by one. -/
def State.spanRanges (s : State) (r : Req) : List (Nat × Nat) :=
  match r.op with
  | .move .. => []
  | op => op.spans.filterMap fun x => (s.extent (x.handle % 2 ^ 18)).map fun e => (e.addr x.off, x.rowLen)

/-- A request that touches the device ranges `l` needs an entry of the tables or queues: the extent and what a holder keeps of
it, the line's directory entry, the sync object, the plan, the prefix index's entry of its key, its tenant's, its
connection's, a unit's bits, a granule's spare or queued write, and its own. -/
def State.needsCell (s : State) (r : Req) (l : List (Nat × Nat)) (c : SramCell) : Bool :=
  let touches := fun (w k : Nat) => l.any fun x => x.2 ≠ 0 && x.1 / w ≤ k && k ≤ (x.1 + x.2 - 1) / w
  match c with
  | .extent i => r.op.names i
  | .tlb h i | .grant h i => r.holder = h && r.op.names i
  | .units u | .vcache u => touches 65536 u
  | .remap g | .write g => touches 64 g
  | .dir d => touches 128 d && (match s.extentAt (d * 128) with | some (_, e) => e.coherent | none => false)
  | .conn n => r.conn = n
  | .object n => match r.op with | .sync _ x => x.obj.toNat = n | _ => false
  | .plan k => match r.op with
    | .call c => bitsOf c.plan.toNat 0 10 = k
    | .planLoad i .. | .planCommit i .. | .planUnload i => i.toNat = k
    | _ => false
  | .prefixKey t k => match r.op with
    | .publish _ _ y | .republish _ _ y _ | .unpublish y _ | .lookup y => r.tenant = t && y = k
    | _ => false
  | .tenant t => r.tenant = t
  | .queued h i => r.holder = h && r.reqId = i
  | _ => false

/-- The entries that a request needs for the ranges `l` are read: single-bit errors are corrected; a double-bit error is counted
out to the operator, and the flag is set. It stays until a full reset, but for the request's own entry, which ends with it
(R237). -/
def State.rangesLook (s : State) (r : Req) (l : List (Nat × Nat)) : State × Bool :=
  let hit := s.ecc.sram.filter fun x => s.needsCell r l x.1
  if hit = [] then (s, false)
  else
    let s := s.sramDrop fun c => hit.any fun x => x.1 = c && (x.2 = 1 || c = .queued r.holder r.reqId)
    if hit.all fun x => x.2 = 1 then (s, false)
    else
      ((s.raise 24 12).mgmtFault ⟨(s.now - s.frameStart) % frameCycles, s.frame, Status.internalError, 0xFF, 0, 0, true, 0, 0, 0⟩,
        true)

/-- The entries that a request needs are read (R237). -/
def State.tableLook (s : State) (r : Req) : State × Bool := s.rangesLook r (s.spanRanges r)

/-- Send an answer now, or once the acknowledgements that it waits for have come. -/
def State.finish (s : State) (key : Nat) (r : Req) (a : Ans) (mirror : Bool) (set : Nat) : State :=
  let n := s.acksOf key
  if n = 0 then s.respond r a else s.park key r a n mirror set none

/-- The whole granules that cover device bytes `[a, a + n)`, as mirrored data. -/
def State.coverBytes (s : State) (a n : Nat) : Nat × List Byte :=
  match granulesOf a n with
  | [] => (a / 64 * 64, [])
  | g :: t => (g * 64, s.ecc.mem.read (g * 64) (64 * (t.length + 1)))

/-- Whether changes of the extent are mirrored. -/
def Extent.mirroredMode (e : Extent) : Bool := e.prot = 2 || e.prot = 4 || (e.prot = 3 && poolUnits ≤ e.start)

/-- Send the MIRROR of a change of device bytes `[a, a + n)` (R329): kind 0 a write, 1 an atomic or accumulate with its
replay entry. -/
def State.mirrorRange (s : State) (i : Nat) (e : Extent) (a n kind : Nat) (r : Req) (ans : Ans) (park : Nat) :
    State :=
  if e.mirroredMode then
    let (off, bs) := s.coverBytes a n
    let rep := if kind = 1 then
        some (.replay r.tenant r.keyHolder r.keyId ans.status (BitVec.ofNat 64 ans.aux) (ans.body.take 96))
      else none
    s.mirrorSend i kind off bs rep park
  else s

/-- The first granule in a list that a write cannot reach (R222, R247). -/
def State.firstShut (s : State) (e : Extent) (gs : List Nat) : Option Nat := gs.find? fun g => !s.writable e g

/-! ### READ -/

/-- READ: data of the range, filling lines by their hint; POISONED at the first poisoned granule (R122, R125, R140). -/
def State.doRead (s : State) (r : Req) (handle off n : Nat) : State :=
  match s.checkReq r with
  | (s, .error a) => s.respond r a
  | (s, .ok l) =>
    let (i, e) := l.headD (0, emptyExtent)
    let a := e.addr off
    let lines := linesOf a n
    if s.dirHolds r e lines then s.accCoherent { r with checked := true } i lines
    else
      let s := s.opTaken r
      match s.readRange i e a n r.fetched with
      | (s, .ok) => (s.fillLines i e lines (granulesOf a n)).respond r (mkAns r.op Status.ok 0 (s.ecc.mem.read a n))
      | (s, .poisoned g) => s.respond r (poisonAns handle e g 0)
      | (s, .remote gs) => s.fetchFor { r with checked := true } i e gs

/-! ### WRITE -/

/-- WRITE: partial granules are merged with what they held; the answer follows the visibility point and, for mirrored
extents, the partner (R122, R123, R125, R138). -/
def State.doWrite (s : State) (r : Req) (handle off : Nat) (data : List Byte) : State :=
  match s.checkReq r with
  | (s, .error a) => s.respond r a
  | (s, .ok l) =>
    let (i, e) := l.headD (0, emptyExtent)
    let a := e.addr off
    let n := data.length
    if s.dirHolds r e (linesOf a n) then s.accCoherent { r with checked := true } i (linesOf a n)
    else
      let s := s.opTaken r
      let gs := granulesOf a n
      match s.firstShut e gs with
      | some g => s.respond r (shutAns handle e g)
      | none =>
        let (key, t) := s.newKey
        let w : Writer := ⟨key, false, none, e.ownReads a n⟩
        let needs := t.writeNeeds i e gs w
        if t.writeShort gs needs r.turn then s.waitWrite gs needs r
        else
          match t.writeReads i e gs (partialGranules a n) r.fetched with
          | (s, .poisoned g) => s.respond r (poisonAns handle e g 0)
          | (s, .remote gs) => s.fetchFor { r with checked := true } i e gs
          | (s, .ok) =>
            let ans := mkAns r.op Status.ok
            ((s.writeGranules i e a data .clear w gs).mirrorRange i e a n 0 r ans key).finish key r ans e.mirroredMode
              (setOfIndex i)

/-! ### Atomics (R126, R127) -/

end Sys2Proof.Machine

namespace Sys2Proof

open Machine

/-- The new value that an atomic writes; none when it writes nothing. -/
def ReqOp.newValue (op : ReqOp) (old : List Byte) : Option (List Byte) :=
  let w := old.length
  let o := leNat old
  let bits := 8 * w
  let sgn := fun (v : Nat) => intOf bits true v
  match op with
  | .swap _ x => some (fitBytes w x)
  | .cas _ c x => if old = fitBytes w c then some (fitBytes w x) else none
  | .fetchAdd _ x => some (leBytes w (o + leNat x))
  | .fetchAnd _ x => some (leBytes w (o &&& leNat x))
  | .fetchOr _ x => some (leBytes w (o ||| leNat x))
  | .fetchXor _ x => some (leBytes w (o ^^^ leNat x))
  | .fetchSmin _ x => some (if sgn (leNat x) < sgn o then fitBytes w x else old)
  | .fetchSmax _ x => some (if sgn o < sgn (leNat x) then fitBytes w x else old)
  | .fetchUmin _ x => some (if leNat x < o then fitBytes w x else old)
  | .fetchUmax _ x => some (if o < leNat x then fitBytes w x else old)
  | _ => none

end Sys2Proof

namespace Sys2Proof.Machine

/-- An atomic on the naturally aligned operand: its old value is returned, its new value written. -/
def State.doAtomic (s : State) (r : Req) (x : Addr) : State :=
  match s.checkReq r with
  | (s, .error a) => s.respond r a
  | (s, .ok l) =>
    let (i, e) := l.headD (0, emptyExtent)
    let a := e.addr x.aligned
    let n := x.width
    let lines := linesOf a n
    if s.dirHolds r e lines then s.accCoherent { r with checked := true } i lines
    else
      let s := s.opTaken r
      let gs := granulesOf a n
      match s.firstShut e gs with
      | some g => s.respond r (shutAns x.handle.toNat e g)
      | none =>
        let (key, t) := s.newKey
        let w : Writer := ⟨key, true, none, gs⟩
        let needs := t.writeNeeds i e gs w
        if t.writeShort gs needs r.turn then s.waitWrite gs needs r
        else
          match t.writeReads i e gs gs r.fetched none true with
          | (s, .poisoned g) => s.respond r (poisonAns x.handle.toNat e g 0)
          | (s, .remote gs) => s.fetchFor { r with checked := true } i e gs
          | (s, .ok) =>
            let old := s.ecc.mem.read a n
            let ans := mkAns r.op Status.ok 0 old
            let s := match r.op.newValue old with
              -- nothing is written: the partner has the replay record alone (R18)
              | none => (s.fillLines i e lines gs).mirrorRange i e a 0 1 r ans key
              | some new => (s.writeGranules i e a new .clear w gs).mirrorRange i e a n 1 r ans key
            s.finish key r ans e.mirroredMode (setOfIndex i)

/-! ### Accumulates (R133 to R138) -/

/-- Table 6.2: target format, operand format, operator and rounding bit of a supported ACCUM. -/
def accumOk (t x op : Nat) (sr : Bool) : Bool :=
  if t = 0 then x = 0 && op ≠ 1
  else if t = 1 ∨ t = 2 then (x = t || x = 0) && op ≠ 1
  else if 12 ≤ t ∧ t ≤ 15 then x = t && !sr
  else false

/-- R137: the combinations of an ACCUM_RC. -/
def accumRcOk (t x op : Nat) : Bool := (t = 1 || t = 2) && (x = t || x = 0) && op = 0

/-- One element of an ACCUM: the target's new code and its flags. -/
def accumElem (t x op : Nat) (mode : Mode) (draw : BitVec 32) (tv xv : Nat) : Flagged Nat :=
  if t < 8 then
    let f := fmtOf t
    let a := f.decode tv
    let b := (fmtOf x).decode xv
    if op = 0 then f.addV mode draw a b
    else if a.isNan ∨ b.isNan then ⟨f.qnan, sigFlag a ||| sigFlag b⟩
    else
      let takeX := if op = 2 then b.lt true a else a.lt true b
      if takeX then f.convert mode false draw b else clean tv
  else
    let w := intWidth t
    let sg := intSigned t
    let a := intOf w sg tv
    let b := intOf w sg xv
    match op with
    | 0 => fitInt w sg false (a + b)
    | 1 => fitInt w sg true (a + b)
    | 2 => clean (if b < a then xv else tv)
    | _ => clean (if a < b then xv else tv)

/-- The 32-bit words of a counter block, least significant first. -/
def blockWords (n : Nat) : List (BitVec 32) := (List.range 4).map fun i => BitVec.ofNat 32 (n / 2 ^ (32 * i))

/-- The draw of an atomic unit's own Philox4x32-10 generator at its `n`th evaluation since the reset that keyed it (R134).
The spec does not say where its counter starts nor which of an evaluation's words is drawn (entry 56). -/
def State.unitWord (s : State) (u n : Nat) : BitVec 32 :=
  (philox (Config.atomicKey u s.acc.srSeed) (blockWords ((Config.atomicCounter u).toNat + n))).getD (Config.atomicWord % 4) 0

/-- The next draw of the atomic unit that owns a granule, with the generator's advance (R134). -/
def State.unitDraw (s : State) (g : Nat) : BitVec 32 × State :=
  let u := Config.atomicUnit g % 64
  let n := mgetD s.acc.srCtr u 0
  (s.unitWord u n, s.accUp fun a => { a with srCtr := mset a.srCtr u (n + 1) })

/-- The new bytes of a target range, element by element in ascending order, and the flags. -/
def State.accumAll (s : State) (t x op : Nat) (sr : Bool) (a k : Nat) (old xs : List Byte) (n : Nat) :
    State × List Byte × Nat :=
  match n with
  | 0 => (s, [], 0)
  | m + 1 =>
    let tw := fmtBytes t
    let xw := fmtBytes x
    let (d, s) := if sr then s.unitDraw ((a + k * tw) / 64) else (0, s)
    let r := accumElem t x op (if sr then 4 else 0) d (leNat (old.take tw)) (leNat (xs.take xw))
    let (s, bs, fl) := s.accumAll t x op sr a (k + 1) (old.drop tw) (xs.drop xw) m
    (s, leBytes tw r.val ++ bs, r.flags ||| fl)

/-- ACCUM. Its combination has been judged already (R133). -/
def State.doAccum (s : State) (r : Req) (x : Addr) (data : List Byte) : State :=
  match s.checkReq r with
  | (s, .error a) => s.respond r a
  | (s, .ok l) =>
    let (i, e) := l.headD (0, emptyExtent)
    let a := e.addr x.offset.toNat
    let n := x.elems * fmtBytes x.targetFmt
    let lines := linesOf a n
    if s.dirHolds r e lines then s.accCoherent { r with checked := true } i lines
    else
      let s := s.opTaken r
      let gs := granulesOf a n
      match s.firstShut e gs with
      | some g => s.respond r (shutAns x.handle.toNat e g)
      | none =>
        let (key, t) := s.newKey
        let w : Writer := ⟨key, true, none, gs⟩
        let needs := t.writeNeeds i e gs w
        if t.writeShort gs needs r.turn then s.waitWrite gs needs r
        else
          match t.writeReads i e gs gs r.fetched none true with
          | (s, .poisoned g) => s.respond r (poisonAns x.handle.toNat e g 0)
          | (s, .remote gs) => s.fetchFor { r with checked := true } i e gs
          | (s, .ok) =>
            let (s, new, fl) := s.accumAll x.targetFmt x.operandFmt x.operator x.stoch a 0 (s.ecc.mem.read a n) data x.elems
            let ans := mkAns r.op Status.ok fl
            ((s.writeGranules i e a new .clear w gs).mirrorRange i e a n 1 r ans key).finish key r ans e.mirroredMode
              (setOfIndex i)

/-- The exact sum of two values; NaN marked as signaling where the sum of two infinities is invalid, and where an operand
is so marked. -/
def exactAdd (x y : FVal) : FVal :=
  match x, y with
  | .nan a, .nan b => .nan (a || b)
  | .nan a, _ | _, .nan a => .nan a
  | .inf a, .inf b => if a = b then .inf a else .nan true
  | .inf a, _ => .inf a
  | _, .inf b => .inf b
  | .fin n1 m1 e1, .fin n2 m2 e2 =>
    let (n, m, e) := addFin n1 m1 e1 n2 m2 e2
    if m = 0 then .fin (m1 = 0 && m2 = 0 && n1 = n2 && n1) 0 e else .fin n m e

/-- Round a value to a format (R70, R71). -/
def Fmt.roundV (f : Fmt) (mode : Mode) (src : Source) (draw : BitVec 32) (x : FVal) : Flagged Nat :=
  match x with
  | .nan s => ⟨f.qnan, if s then flagNV else 0⟩
  | .inf n => clean (f.infCode n)
  | .fin n m e => f.round mode src draw n m e

/-- One element of an ACCUM_RC: t′, r′ and the flags (R137). -/
def accumRcElem (t x : Nat) (mode : Mode) (draw : BitVec 32) (tv rv xv : Nat) : Nat × Nat × Nat :=
  let f := fmtOf t
  let a := f.decode tv
  let b := f.decode rv
  let c := (fmtOf x).decode xv
  let sr := fp32.roundV 0 .exact 0 (exactAdd (exactAdd a b) c)
  let sv := fp32.decode sr.val
  let t' := f.convert mode false draw sv
  let r' := match sv with
    | .fin .. => (f.roundV 0 .exact 0 (exactAdd sv (f.decode t'.val).neg)).val
    | _ => 0
  (t'.val, r', sr.flags ||| t'.flags ||| sigFlag a ||| sigFlag b ||| sigFlag c)

/-- The elements of an ACCUM_RC in order, over a working copy of the bytes in which the shadow write is applied second;
`flagged` names the target granules whose residual flag was set. -/
def State.accumRcAll (s : State) (t x : Nat) (sr : Bool) (ta sa k : Nat) (flagged : List Nat) (buf : Mem)
    (xs : List Byte) (n : Nat) : State × Mem × Nat :=
  match n with
  | 0 => (s, buf, 0)
  | m + 1 =>
    let xw := fmtBytes x
    let g := (ta + 2 * k) / 64
    let (d, s) := if sr then s.unitDraw g else (0, s)
    let rv := if flagged.contains g then leNat (buf.read (sa + 2 * k) 2) else 0
    let (t', r', fl) := accumRcElem t x (if sr then 4 else 0) d (leNat (buf.read (ta + 2 * k) 2)) rv (leNat (xs.take xw))
    let buf := (buf.write (ta + 2 * k) (leBytes 2 t')).write (sa + 2 * k) (leBytes 2 r')
    let (s, buf, fl') := s.accumRcAll t x sr ta sa (k + 1) flagged buf (xs.drop xw) m
    -- overlapping bytes hold r′, whatever a later element of the target has written there
    (s, buf.write (sa + 2 * k) (leBytes 2 r'), fl ||| fl')

/-- The granules of an ACCUM_RC are written from its working copy: those of the target with their residual flags set, then
those of the shadow that are not the target's with theirs kept. -/
def State.accumRcWrite (s : State) (i : Nat) (e : Extent) (j : Nat) (f : Extent) (tg sg : List Nat) (buf : Mem) (w : Writer) :
    State :=
  let s := tg.foldl (fun s g => s.writeGranule i e g (buf.read (g * 64) 64) .set w) s
  (sg.filter fun g => !tg.contains g).foldl (fun s g => s.writeGranule j f g (buf.read (g * 64) 64) .keep w) s

/-- ACCUM_RC. Its combination has been judged already. -/
def State.doAccumRc (s : State) (r : Req) (x y : Addr) (data : List Byte) : State :=
  match s.checkReq r with
  | (s, .error a) => s.respond r a
  | (s, .ok l) =>
    let (i, e) := l.headD (0, emptyExtent)
    let (j, f) := (l.drop 1).headD (0, emptyExtent)
    let n := x.elems * 2
    let ta := e.addr x.offset.toNat
    let sa := f.addr y.offset.toNat
    let tg := granulesOf ta n
    let sg := granulesOf sa n
    let lines := (if e.coherent then linesOf ta n else []) ++ (if f.coherent then linesOf sa n else [])
    if s.dirHolds r { e with coherent := e.coherent || f.coherent } lines then
      s.accCoherent { r with checked := true } i lines
    else
      let s := s.opTaken r
      match s.firstShut e tg, s.firstShut f sg with
      | some g, _ => s.respond r (shutAns x.handle.toNat e g)
      | none, some g => s.respond r (shutAns y.handle.toNat f g)
      | none, none =>
        let (key, t) := s.newKey
        let w : Writer := ⟨key, true, none, tg ++ sg⟩
        let needs := (t.writeNeeds i e tg w ++ t.writeNeeds j f sg w).eraseDups
        if t.writeShort (tg ++ sg) needs r.turn then s.waitWrite (tg ++ sg) needs r
        else
          match t.writeReads i e tg tg r.fetched none true with
          | (s, .poisoned g) => s.respond r (poisonAns x.handle.toNat e g 0)
          | (s, .remote gs) => s.fetchFor { r with checked := true } i e gs
          | (s, .ok) =>
            match s.writeReads j f sg sg r.fetched none true with
            | (s, .poisoned g) => s.respond r (poisonAns y.handle.toNat f g 1)
            | (s, .remote gs) => s.fetchFor { r with checked := true } j f gs
            | (s, .ok) =>
              let flagged := tg.filter fun g => s.written g && metaResidual (s.gmeta g)
              let (s, buf, fl) := s.accumRcAll x.targetFmt x.operandFmt x.stoch ta sa 0 flagged s.ecc.mem data x.elems
              let ans := mkAns r.op Status.ok fl
              let s := s.accumRcWrite i e j f tg sg buf w
              ((s.mirrorRange i e ta n 1 r ans key).mirrorRange j f sa n 1 r ans key).finish key r ans
                (e.mirroredMode || f.mirroredMode) (setOfIndex i)

/-! ### MOVE (R128, R129) -/

/-- Rows and strides of a MOVE. -/
structure MoveShape where
  src : Addr
  dst : Addr
  rowLen : Nat
  rows : Nat
  ss : Nat
  ds : Nat
  deriving DecidableEq, Repr

end Sys2Proof.Machine

namespace Sys2Proof

open Machine

/-- The shape of a MOVE. -/
def ReqOp.moveShape (op : ReqOp) : MoveShape :=
  match op with
  | .move a b rl rows ss ds => ⟨a, b, rl.toNat + 1, bitsOf rows.toNat 0 24 + 1, ss.toNat, ds.toNat⟩
  | _ => ⟨⟨0, 0, 0⟩, ⟨0, 0, 0⟩, 0, 0, 0, 0⟩

end Sys2Proof

namespace Sys2Proof.Machine

/-- A MOVE is checked, queued and accepted; a full queue refuses it (R129, R267). -/
def State.doMove (s : State) (r : Req) : State :=
  match s.checkReq r with
  | (s, .error a) => s.respond r a
  | (s, .ok l) =>
    if 1024 ≤ s.acc.moves.length then s.refuse r Status.retryAfter 4
    else
      let (i, e) := l.headD (0, emptyExtent)
      let (j, f) := (l.drop 1).headD (0, emptyExtent)
      let m := r.op.moveShape
      let (key, s) := s.newKey
      let s := s.accept r
      let mv : Move := ⟨key, { r with accepted := true, checked := true }, e.addr m.src.offset.toNat,
        f.addr m.dst.offset.toNat, i, j, 0, 0, 0, none, false, none, none⟩
      let s := s.accUp fun a => { a with moves := a.moves ++ [mv] }
      s.requeueChunk key

def State.findMove (s : State) (key : Nat) : Option Move := s.acc.moves.find? fun m => m.key = key

def State.setMove (s : State) (m : Move) : State :=
  s.accUp fun a => { a with moves := mapIf (fun x => x.key = m.key) (fun _ => m) a.moves }

/-- A MOVE ends and awaits its completion: its status and the bytes moved (R128). -/
def Move.ended (m : Move) (a : Ans) : Move := { m with fate := some a, held := none }

/-- The chunk that a MOVE copies next: source and destination device addresses and length. A row whose destination lies
above its source and overlaps it runs in descending order. -/
def Move.chunk (m : Move) : Nat × Nat × Nat :=
  let x := m.req.op.moveShape
  let s := m.srcOff + m.row * x.ss
  let d := m.dstOff + m.row * x.ds
  let c := min 4096 (x.rowLen - m.done)
  if s < d ∧ d < s + x.rowLen then (s + (x.rowLen - m.done - c), d + (x.rowLen - m.done - c), c)
  else (s + m.done, d + m.done, c)

/-- A chunk has been copied: the next one, or the end: of the whole, or of what was stopped meanwhile (R34, R36). -/
def Move.advance (m : Move) (c : Nat) : Move :=
  let x := m.req.op.moveShape
  let m := { m with moved := m.moved + c, held := none }
  let m := if m.done + c < x.rowLen then { m with done := m.done + c } else { m with done := 0, row := m.row + 1 }
  if m.row < x.rows then (match m.stop with | some st => m.ended (m.answer st) | none => m)
  else m.ended (m.answer Status.ok)

/-- The request that stands for a chunk where it waits: for lines, for write queues, for other devices. -/
def Move.pseudo (m : Move) (op : ReqOp) (from_ : Req) : Req :=
  { m.req with op := op, chunk := some m.key, fetched := from_.fetched, txns := from_.txns, begun := true,
               turn := from_.turn }

/-- The read half of a chunk (R128 steps 4 and 6): the data, or what ends or delays it. -/
def State.chunkRead (s : State) (m : Move) (e : Extent) (r : Req) : State × Option (List Byte) :=
  let (sa, _, c) := m.chunk
  let h := m.req.op.moveShape.src.handle.toNat
  let pseudo := m.pseudo (.read ⟨0, 0, 0⟩) r
  let lines := linesOf sa c
  let (s, lost) := s.rangesLook m.req [(sa, c)]
  if lost then (s.setMove (m.ended { m.answer Status.internalError with handle := h }), none)
  else if s.dirHolds pseudo e lines then (s.accCoherent pseudo m.srcIdx lines, none)
  else
    match s.readAll m.srcIdx e (granulesOf sa c) pseudo.fetched (some m.key) with
    | (s, .ok) => (s, some (s.ecc.mem.read sa c))
    | (s, .remote gs) => (s.fetchFor pseudo m.srcIdx e gs, none)
    | (s, .poisoned g) =>
      let a := { poisonAns h e g 0 with detail := min m.moved 0xFFFFFFFF }
      (s.setMove (m.ended a), none)

/-- The write half of a chunk. -/
def State.chunkWrite (s : State) (m : Move) (e : Extent) (data : List Byte) (r : Req) : State :=
  let (_, da, c) := m.chunk
  let h := m.req.op.moveShape.dst.handle.toNat
  let pseudo := m.pseudo (.write ⟨0, 0, 0⟩ []) r
  let m := { m with held := some data }
  let s := s.setMove m
  let lines := linesOf da c
  let gs := granulesOf da c
  let part := partialGranules da c
  let w : Writer := ⟨m.key, false, some m.key, e.ownReads da c⟩
  let needs := s.writeNeeds m.dstIdx e gs w
  let (s, lost) := s.rangesLook m.req [(da, c)]
  if lost then s.setMove (m.ended { m.answer Status.internalError with handle := h })
  else if s.dirHolds pseudo e lines then s.accCoherent pseudo m.dstIdx lines
  else
    match s.firstShut e gs with
    | some g => s.setMove (m.ended { shutAns h e g with detail := min m.moved 0xFFFFFFFF })
    | none =>
      if s.writeShort gs needs pseudo.turn then s.waitWrite gs needs pseudo
      else
        match s.writeReads m.dstIdx e gs part pseudo.fetched (some m.key) with
        | (s, .poisoned g) => s.setMove (m.ended { poisonAns h e g 1 with detail := min m.moved 0xFFFFFFFF })
        | (s, .remote gs) => s.fetchFor pseudo m.dstIdx e gs
        | (s, .ok) =>
          let s := s.writeGranules m.dstIdx e da data .clear w gs
          let s := (s.mirrorRange m.dstIdx e da c 0 m.req (mkAns m.req.op 0) m.key).opDone
          -- the next chunk issues once this one is acknowledged (R18, R19, R340)
          (s.setMove (m.advance c)).finish m.key pseudo (mkAns m.req.op Status.ok) e.mirroredMode (setOfIndex m.dstIdx)

/-- One chunk of a MOVE that has been dispatched; `r` is the MOVE's own request at first, and stands for the chunk when it
comes back from a wait. -/
def State.moveStep (s : State) (key : Nat) (r : Req) : State :=
  match s.findMove key with
  | none => s
  | some m =>
    if m.fate.isSome then s
    else
      match s.extent m.srcIdx, s.extent m.dstIdx with
      | some e, some f =>
        let fresh := { r with fetched := [], txns := [] }
        match m.held with
        | some data => s.chunkWrite m f data (if r.op.writes then r else fresh)
        | none =>
          match s.chunkRead m e (if r.op.writes then fresh else r) with
          | (s, none) => s
          | (s, some data) => s.chunkWrite { m with held := some data } f data fresh
      | _, _ => s.setMove (m.ended (m.answer Status.revoked))

/-- A bulk-move engine copies the chunk of a MOVE that the scheduler has given it (R128, R129, R311). -/
def State.moveChunk (s : State) (key : Nat) : State :=
  match s.findMove key with
  | some m => if m.issued then (s.setMove { m with issued := false }).moveStep key { m.req with fetched := [], txns := [] } else s
  | none => s

/-- A MOVE that has ended completes (R128), once its last chunk has been acknowledged. -/
def State.moveComplete (s : State) (key : Nat) : State :=
  match s.findMove key with
  | some m =>
    match m.fate with
    | some a =>
      if s.acksOf key ≠ 0 then s
      else
        let s := s.accUp fun x => { x with moves := x.moves.filter fun y => y.key ≠ key }
        s.respond m.req a
    | none => s
  | none => s

/-! ### HINT (R139, R141) -/

/-- Units of a range of an extent. -/
def hintUnits (e : Extent) (off n : Nat) : List Nat :=
  if n = 0 then []
  else (List.range ((off + n - 1) / 65536 - off / 65536 + 1)).map fun k => e.start + off / 65536 + k

/-- Pinned units of a tenant. -/
def State.pinnedUnits (s : State) (t : Nat) : Nat := (s.acc.pins.filter fun p => p.2 = t).length

/-- Pinned lines that a cushion set holds: those of pinned units that map to it, in strict mode of the tenant's own. -/
def State.pinnedIn (s : State) (t set : Nat) : Nat :=
  (((s.acc.pins.filter fun p => !s.strict || p.2 = t).map fun p => ((List.range 512).filter fun k => cushSet (p.1 * 512 + k) = set).length)).sum

/-- Most pinned lines in one set for a tenant (R141). -/
def State.pinLimit (s : State) (t : Nat) : Nat :=
  if s.strict then (s.waysOf t).length - 1 else s.fld R.ACC_CFG_PIN_WAYS

/-- A unit can be pinned whole: the quota, and the limit in each set. -/
def State.canPin (s : State) (t u : Nat) : Bool :=
  (s.pinnedUnits t + 1) * 64 ≤ s.fld (R.ACC_TCUSH_PIN_QUOTA_MIB.at (0x10 * t)) * 1024 &&
    (List.range 512).all fun k =>
      let set := cushSet (u * 512 + k)
      let own := ((List.range 512).filter fun j => cushSet (u * 512 + j) = set).length
      s.pinnedIn t set + own ≤ s.pinLimit t

/-- Pin the units in ascending order until a limit is reached; the rest act as HOT and are counted. -/
def State.pinUnits (s : State) (t : Nat) (us : List Nat) (stopped : Bool) : State :=
  match us with
  | [] => s
  | u :: rest =>
    if (mget s.acc.pins u).isSome then s.pinUnits t rest stopped
    else if !stopped && s.canPin t u then
      let s := s.accUp fun a => { a with pins := mset a.pins u t, hints := mset a.hints u hintPin }
      (s.syncPins u).pinUnits t rest false
    else
      let s := s.accUp fun a => { a with hints := mset a.hints u hintHot }
      let s := (s.count (R.ACC_TSTAT_PIN_SHORT.at (0x10 * t))).raise 20 10
      s.pinUnits t rest true

/-- Set another hint: the units' lines are unpinned, and under COLD the dirty ones are written back. -/
def State.setHint (s : State) (us : List Nat) (h : Nat) : State :=
  us.foldl (fun s u =>
    let s := s.accUp fun a => { a with pins := mdel a.pins u, hints := mset a.hints u h }
    let s := s.syncPins u
    if h = hintCold then
      (s.acc.lines.filter fun c => c.line / 512 = u && c.dirty).foldl (fun s c => (s.writeBack c).cleanLine c.line) s
    else s) s

/-- HINT. With PREFETCH, the pinned units' absent lines are filled before the answer (R141). -/
def State.doHint (s : State) (r : Req) (a : Addr) (b : BitVec 8) : State :=
  match s.checkReq r with
  | (s, .error x) => s.respond r x
  | (s, .ok l) =>
    let (i, e) := l.headD (0, emptyExtent)
    let us := hintUnits e a.offset.toNat a.hintLen
    let h := bitsOf b.toNat 0 2
    let s := s.opDone
    let s := if h = hintPin then s.pinUnits e.tenant us false else s.setHint us h
    let pinned := us.filter fun u => (mget s.acc.pins u).isSome
    let ans := mkAns r.op Status.ok (pinned.length * 65536)
    if b.getLsbD 2 then
      let (key, s) := s.newKey
      let s := s.accept r
      let lines := (pinned.flatMap fun u => (List.range 512).map (u * 512 + ·)).filter fun x => (s.cline i e x).isNone
      let (s, good) := lines.foldl (fun (acc : State × List Nat) x =>
        match acc.1.fillRest i e x [] with
        | (s, true) => (s, acc.2 ++ [x])
        | (s, false) => (s, acc.2)) (s, [])
      let r := { r with accepted := true, bound := none }
      s.accUp fun x => { x with prefetch := x.prefetch ++ [⟨key, r, good, ans⟩] }
    else s.respond r ans

/-- The last fill of a HINT with PREFETCH has been read from its stack: its lines are in the cushion, and its completion is
sent. -/
def State.prefetchDone (s : State) (key : Nat) : State :=
  match s.acc.prefetch.find? (fun p => p.key = key) with
  | none => s
  | some p =>
    if p.lines.any fun x => s.readQueued (2 * x) || s.readQueued (2 * x + 1) then s
    else
      let s := p.lines.foldl (fun s x =>
        match s.extentAt (x * 128) with
        | some (i, e) => if (s.cline i e x).isSome then s else (s.allocLine i e x false).1
        | none => s) s
      let s := s.accUp fun x => { x with prefetch := x.prefetch.filter fun q => q.key ≠ key }
      s.respond p.req p.ans

/-! ### FENCE (R131) -/

/-- A request on connection `c` that arrived before place `n` in the order of arrival has not been answered. -/
def State.outstanding (s : State) (c n : Nat) : Bool :=
  let mine := fun (r : Req) => r.conn = c && r.ord < n && (match r.via with | .rdma _ _ => false | _ => true)
  (s.acc.fences.any fun f => mine f.2) || (s.sec.rotating.any fun x => mine x.2) || (s.sec.verifying.any fun x => mine x.2.1) ||
    s.pendingWork mine || (s.seq.commits.any fun x => mine x.req) || (s.syn.waiters.any fun w => mine w.req) ||
    s.xlt.invals.any fun x => mine x.req

/-- FENCE: it is accepted, completes at once with nothing outstanding ahead of it, and else waits (R131, R267). -/
def State.doFence (s : State) (r : Req) : State :=
  let waits := s.outstanding r.conn r.ord
  let s := s.accept r
  let r := { r with accepted := true }
  if waits then
    let (key, s) := s.newKey
    s.accUp fun a => { a with fences := a.fences ++ [(key, r)] }
  else s.opDone.respond r (mkAns r.op Status.ok)

/-- The oldest FENCE of a connection, every request ahead of which has been answered, completes. A FENCE that a header
flag stands for has no answer of its own. -/
def State.fenceComplete (s : State) (c : Nat) : State :=
  match s.acc.fences.find? (fun f => f.2.conn = c) with
  | none => s
  | some (key, r) =>
    if s.outstanding c r.ord then s
    else
      let s := s.accUp fun a => { a with fences := a.fences.filter fun f => f.1 ≠ key }
      -- a flagged request is bound from now on (Table 6.5)
      let mine := fun (x : AccItem) => match x.kind with | .req q => q.same r | _ => false
      let from_ := fun (x : AccItem) => match x.kind with
        | .req q => { x with kind := .req { q with bound := q.bound.map fun _ => s.now } }
        | _ => x
      let s := s.qosUp fun q => { q with acq := mapIf mine from_ q.acq }
      if r.op = .fence then s.opDone.respond r (mkAns r.op Status.ok) else s

/-- A FENCE that came before place `n` in the order of arrival, or the flag of the request there, holds requests of the
connection. -/
def State.fenced (s : State) (c n : Nat) : Bool := s.acc.fences.any fun f => f.2.conn = c && f.2.ord ≤ n

/-! ### The replay cache (R143 to R145) -/

/-- The entry that a request matches; the partner's entries count once their set is held here (R327, R334). -/
def State.replayEntry (s : State) (r : Req) : Option ReplayEntry :=
  s.acc.replay.find? fun e => e.tenant = r.tenant && e.holder = r.keyHolder && e.reqId = r.keyId &&
    (!e.partner || s.holds e.set)

end Sys2Proof.Machine

namespace Sys2Proof

/-- The set whose stale mark an operation is held against (R335); 2, the device's own, for one that names no set. -/
def ReqOp.set (op : ReqOp) : Nat :=
  match op with
  | .sync _ x => x.obj.toNat / 2 ^ 15 % 2
  | op => match op.firstAddr with
    | some a => a.handle.toNat / 2 ^ 17 % 2
    | none => 2

end Sys2Proof

namespace Sys2Proof.Machine

/-- REQ_ID `a` is at or below `b`, compared modulo 2^48 over a window of 2^47 (R144). -/
def reqIdLe (a b : Nat) : Bool := (b + 2 ^ 48 - a % 2 ^ 48) % 2 ^ 48 < 2 ^ 47

/-- Key of a stale mark. -/
def markKey (holder set : Nat) : Nat := 3 * holder + set

/-- The stale mark that an operation is held against: with pairing on, that of the set that it names (R335), or the device's own
for one that names none; with pairing off the holder has one (R144, R320). -/
def State.markSet (s : State) (op : ReqOp) : Nat := if s.paired then op.set else 2

/-- A request is a stale duplicate (R144). A request of a set that this device does not hold is answered by R29, and none
is stale while a takeover's entries are kept (R335). -/
def State.stale (s : State) (r : Req) : Bool :=
  (s.markSet r.op = 2 || (s.holds r.op.set && (s.pset r.op.set).holdUntil.isNone)) &&
  match mget s.acc.marks (markKey r.holder (s.markSet r.op)) with
  | some m => reqIdLe r.reqId.toNat m
  | none => false

/-- Take an entry when a request begins to execute (R143). -/
def State.replayTake (s : State) (r : Req) : State :=
  s.accUp fun a => { a with replay := a.replay ++ [⟨r.tenant, r.keyHolder, r.keyId, none, none, false, false, s.markSet r.op⟩] }

/-- An entry expires 64 µs after its response, and its holder's stale mark advances; entries kept for the partner's
requests do not expire on their own (R329). -/
def State.replayExpire (s : State) (tenant holder : Nat) (reqId : BitVec 48) : State :=
  match s.acc.replay.find? (fun e => e.tenant = tenant && e.holder = holder && e.reqId = reqId) with
  | none => s
  | some e =>
    match e.expires with
    | none => s
    | some t =>
      if e.partner then s
      else
        let s := s.toTime t
        let s := s.accUp fun a => { a with replay := a.replay.erase e }
        if 4096 ≤ holder then s
        else
          let k := markKey holder e.set
          let m := match mget s.acc.marks k with
            | some m => if reqIdLe reqId.toNat m then m else reqId.toNat
            | none => reqId.toNat
          let s := s.accUp fun a => { a with marks := mset a.marks k m }
          if e.set = 2 then s else s.logEntry e.set (.mark holder (BitVec.ofNat 48 m))

end Sys2Proof.Machine
end

