-- ==== Sys2Proof/Machine/RingOps.lean ====
section
/-! DEFINITION. The ring operators RING_REDUCE and RING_ROUTE at their root, and this device's part in those of another root
(R184 to R186). The layout of the messages between the devices is open (entry 58): what one says is `Config.ringMsg` of its
bytes, and what is sent is logged as the words it carries. -/

namespace Sys2Proof.Machine

/-- This device's index in its domain (Table 2.8). -/
def State.devIndex (s : State) : Nat := s.fld R.XLT_DEV_INDEX_DEV_INDEX

/-- One entry of the member list of RING_REDUCE: device, handle, offset. -/
def ringEntry (b : List Byte) : Nat × Nat × Nat :=
  let v := leNat b
  (bitsOf v 0 8, bitsOf v 32 32, bitsOf v 64 40)

/-- The entries of a list of `n` records of `w` bytes at device address `a`. -/
def State.records (s : State) (a w n : Nat) : List (List Byte) := (List.range n).map fun k => s.ecc.mem.read (a + w * k) w

end Sys2Proof.Machine

namespace Sys2Proof

/-- The ranges at the root of a ring operator's list or table. -/
def ReqOp.ringList : ReqOp → Nat × Nat
  | .ringReduce l .. => (16, bitsOf l.length.toNat 0 8 + 1)
  | .ringRoute _ t => (32, bitsOf t.length.toNat 0 8 + 1)
  | _ => (0, 0)

/-- The operands of RING_REDUCE beside its list. -/
structure ReduceArgs where
  elems : Nat
  isMax : Bool
  scale : Bool
  emptyZero : Bool
  bag : Nat
  deriving DecidableEq, Repr

/-- The operands of a RING_REDUCE. -/
def ReqOp.reduceArgs : ReqOp → ReduceArgs
  | .ringReduce _ e mx sc ez bl _ _ => ⟨e.toNat + 1, mx, sc, ez, bl.toNat⟩
  | _ => ⟨0, false, false, false, 0⟩

end Sys2Proof

namespace Sys2Proof.Machine

/-- The answer of a ring operator that the member at list position `pos` ended: AUX by status (Table 12.4), a hint of at least
1, and for a carried offset the member's own handle in the fault entry (R38, R186). -/
def RingOp.failure (x : RingOp) (status aux pos : Nat) : Ans :=
  let a := mkAns x.req.op status
  if status = Status.retryAfter ∨ status = Status.notReady ∨ status = Status.busyLine then
    { a with aux := max 1 (aux % 2 ^ 32), detail := pos }
  else if status = Status.unmapped ∨ status = Status.poisoned then
    { a with aux := aux % 2 ^ 48, detail := pos, handle := ((x.members[pos]?).getD (0, 0, 0)).2.1, off := aux % 2 ^ 40 }
  else { a with detail := pos }

/-- The AUX of the member that ended an operator: the word behind the members' parts. -/
def RingOp.failAux (x : RingOp) (parts : List (List Word64)) : Nat := ((parts.getD x.members.length []).headD 0).toNat

/-- FP32 partials combined in list order (R184), element by element: RNE addition or the NaN-propagating maximum. -/
def combineElems (isMax : Bool) (acc : List Nat) (rest : List (List Nat)) : List Nat :=
  rest.foldl (fun a p => List.zipWith (fun x y =>
    if isMax then (fp32.minmax true x y).val else (fp32.addV 0 0 (fp32.decode x) (fp32.decode y)).val) a p) acc

/-- Scale by the bag's factor, and clear the elements of empty bags; the values are those of the elements from `first` on,
the factors those of the bags from the first one's on. -/
def finishElems (x : ReduceArgs) (scales : List Nat) (first : Nat) (acc : List Nat) : List Nat :=
  (numbered acc).map fun (k, v) =>
    let bag := (first + k) / x.bag - first / x.bag
    let v := if x.scale then (fp32.mulR 0 0 (fp32.decode v) (fp32.decode (scales.getD bag 0))).val else v
    if x.emptyZero ∧ v = fp32.infCode true then 0 else v

/-- The FP32 words of a byte list. -/
def wordsOf (n : Nat) (bs : List Byte) : List Nat :=
  match n with
  | 0 => []
  | k + 1 => leNat (bs.take 4) :: wordsOf k (bs.drop 4)

/-! ### The work of a ring operator at its root -/

/-- The key of a message's words, and the numbers behind it. -/
def ringWords (key : Nat) (l : List Nat) : List Word64 := (key :: l).map fun n => BitVec.ofNat 64 n

/-- The request under which a ring operator's work at its root waits for write queues and for other devices. -/
def RingOp.work (x : RingOp) (fetched : List Nat) (turn : Bool) : Req :=
  { x.req with chunk := some x.key, fetched := fetched, txns := [], begun := true, checked := true, turn := turn }

def State.findRing (s : State) (key : Nat) : Option RingOp := s.pfx.ring.find? fun x => x.key = key

def State.setRing (s : State) (x : RingOp) : State :=
  s.pfxUp fun p => { p with ring := mapIf (fun y => y.key = x.key) (fun _ => x) p.ring }

/-- A ring operator leaves with its answer, which waits for the copies of what it wrote. -/
def State.ringEnd (s : State) (x : RingOp) (a : Ans) (mirror : Bool) (set : Nat) : State :=
  (s.pfxUp fun p => { p with ring := p.ring.filter fun y => y.key ≠ x.key }).finish x.key x.req a mirror set

/-- What a step of the work comes to: done, with what it read; ended with an answer; or waiting. -/
inductive RingStep where
  | ok (bs : List Byte)
  | bad (a : Ans)
  | wait
  deriving DecidableEq, Repr

/-- The work waits. -/
def State.ringBusy (s : State) (x : RingOp) : State := s.setRing { x with busy := true }

/-- Read a range for a ring operator; `w` is the request that waits for other devices, `bad` the answer at a poisoned
granule (R125). -/
def State.ringRead (s : State) (x : RingOp) (w : Req) (i : Nat) (e : Extent) (off n : Nat) (bad : Nat → Ans) :
    State × RingStep :=
  match s.readRange i e (e.addr off) n w.fetched with
  | (s, .ok) => (s, .ok (s.ecc.mem.read (e.addr off) n))
  | (s, .poisoned g) => (s, .bad (bad g))
  | (s, .remote gs) => ((s.ringBusy x).fetchFor w i e gs, .wait)

/-- Bytes that a ring operator writes to an extent. -/
structure RingBytes where
  handle : Nat
  i : Nat
  e : Extent
  off : Nat
  bs : List Byte
  deriving DecidableEq, Repr

def RingBytes.gs (y : RingBytes) : List Nat := granulesOf (y.e.addr y.off) y.bs.length

/-- The reads that some writes need. -/
def State.ringReads (s : State) (x : RingOp) (w : Req) : List RingBytes → State × RingStep
  | [] => (s, .ok [])
  | y :: t =>
    match s.writeReads y.i y.e y.gs (partialGranules (y.e.addr y.off) y.bs.length) w.fetched with
    | (s, .poisoned g) => (s, .bad (poisonAns y.handle y.e g 0))
    | (s, .remote gs) => ((s.ringBusy x).fetchFor w y.i y.e gs, .wait)
    | (s, .ok) => s.ringReads x w t

/-- The first granule of some writes that lies at a retired pseudo-channel (R222). -/
def State.ringShut (s : State) (l : List RingBytes) : Option Ans :=
  l.findSome? fun y => (s.firstShut y.e y.gs).map fun g => shutAns y.handle y.e g

/-- Write the bytes, with the copies that their protection modes ask for, as a WRITE would. -/
def State.ringWrite (s : State) (x : RingOp) (w : Req) (l : List RingBytes) : State × RingStep :=
  match s.ringShut l with
  | some a => (s, .bad a)
  | none =>
    let wr := fun (y : RingBytes) => (⟨x.key, false, none, y.e.ownReads (y.e.addr y.off) y.bs.length⟩ : Writer)
    let gs := l.flatMap RingBytes.gs
    let needs := (l.flatMap fun y => s.writeNeeds y.i y.e y.gs (wr y)).eraseDups
    if s.writeShort gs needs w.turn then ((s.ringBusy x).waitWrite gs needs w, .wait)
    else
      match s.ringReads x w l with
      | (s, .ok _) =>
        (l.foldl (fun s y =>
          (s.writeGranules y.i y.e (y.e.addr y.off) y.bs .clear (wr y) y.gs).mirrorRange y.i y.e (y.e.addr y.off) y.bs.length 0
            x.req (mkAns x.req.op 0) x.key) s, .ok [])
      | other => other

/-! ### RING_REDUCE at its root -/

/-- The position of an operand's span, and its extent. -/
def State.ringOperand (s : State) (r : Req) (k : Nat) : Nat × Extent := (s.spanExtents (r.op.spans.drop k)).headD (0, emptyExtent)

/-- The partial of a member: the root's own from its memory, after the checks of R29, another's as its messages brought
it. -/
def State.partOf (s : State) (x : RingOp) (n pos : Nat) (m : Nat × Nat × Nat) (got : List Word64) (w : Req) :
    State × RingStep :=
  if m.1 = s.devIndex then
    match s.checkSpan (s.engineOf x.req) x.req ⟨m.2.1, m.2.2, 4 * n, 1, 0, 1⟩ pos with
    | (s, .error a) => (s, .bad { a with detail := pos })
    | (s, .ok (i, e)) => s.ringRead x w i e m.2.2 (4 * n) fun g => { poisonAns m.2.1 e g 0 with detail := pos }
  else (s, .ok ((got.take n).flatMap fun w => leBytes 4 w.toNat))

/-- Every member's partial in list order, as words, or the first failure. -/
def State.partsOfList (s : State) (x : RingOp) (n pos : Nat) (ms : List (Nat × Nat × Nat)) (got : List (List Word64))
    (w : Req) : State × Except RingStep (List (List Nat)) :=
  match ms with
  | [] => (s, .ok [])
  | m :: t =>
    match s.partOf x n pos m (got.headD []) w with
    | (s, .ok bs) =>
      match s.partsOfList x n (pos + 1) t (got.drop 1) w with
      | (s, .ok ps) => (s, .ok (wordsOf (min n (bs.length / 4)) bs :: ps))
      | (s, .error a) => (s, .error a)
    | (s, other) => (s, .error other)

/-- The scale of a RING_REDUCE, one FP32 value per bag, read with the poison check of any read. -/
def State.ringScales (s : State) (x : RingOp) (w : Req) : State × RingStep :=
  let g := x.req.op.reduceArgs
  match x.req.op with
  | .ringReduce _ _ _ _ _ _ sa _ =>
    if g.scale then
      let (i, e) := s.ringOperand x.req 1
      s.ringRead x w i e sa.offset.toNat (4 * ceilDiv g.elems g.bag) fun p => poisonAns sa.handle.toNat e p 1
    else (s, .ok [])
  | _ => (s, .ok [])

/-- The elements of a RING_REDUCE from element `first` on, as bytes for its destination. -/
def State.ringDest (s : State) (x : RingOp) (first : Nat) (vals : List Nat) : RingBytes :=
  let k := if x.req.op.reduceArgs.scale then 2 else 1
  let (i, e) := s.ringOperand x.req k
  match x.req.op with
  | .ringReduce _ _ _ _ _ _ _ d => ⟨d.handle.toNat, i, e, d.offset.toNat + 4 * first, vals.flatMap (leBytes 4)⟩
  | _ => ⟨0, i, e, 0, []⟩

/-- RING_REDUCE at its end: the combined elements that have not been written yet go to the destination, none where every
element came in a finished chunk; on a failure those of the whole 4 KiB chunks that every member had delivered, and what was
written remains. -/
def State.reduceEnd (s : State) (x : RingOp) (status pos : Nat) (parts : List (List Word64)) (w : Req) : State :=
  let r := x.req
  let g := r.op.reduceArgs
  match s.partsOfList x g.elems 0 x.members parts w with
  | (s, .error (.bad a)) => s.ringEnd x a false 0
  | (s, .error _) => s
  | (s, .ok ps) =>
    match s.ringScales x w with
    | (s, .bad a) => s.ringEnd x a false 0
    | (s, .wait) => s
    | (s, .ok sc) =>
      let all := combineElems g.isMax (ps.headD []) (ps.drop 1)
      let short := max x.done all.length < g.elems
      let ok : Bool := status = Status.ok && !short
      let all := if ok then all else all.take (all.length / 1024 * 1024)
      let out := (finishElems g (wordsOf (sc.length / 4) sc) 0 all).drop x.done
      let y := s.ringDest x x.done out
      match (if out = [] then (s, .ok []) else s.ringWrite x w [y]) with
      | (s, .bad a) => s.ringEnd x a false 0
      | (s, .wait) => s
      | (s, .ok _) =>
        if ok then s.ringEnd x (mkAns r.op Status.ok) y.e.mirroredMode (setOfIndex y.i)
        else s.ringEnd x (x.failure (if status = Status.ok then Status.internalError else status) (x.failAux parts) pos) false 0

/-! ### RING_ROUTE at its root -/

/-- One entry of the destination table of RING_ROUTE (Table 12.3). -/
structure RouteEntry where
  dev : Nat
  handle : Nat
  off : Nat
  cap : Nat
  countOff : Nat
  deriving DecidableEq, Repr

def routeEntry (b : List Byte) : RouteEntry :=
  let v := leNat b
  ⟨bitsOf v 0 8, bitsOf v 32 32, bitsOf v 64 64, bitsOf v 128 32, bitsOf v 192 64⟩

/-- The pointers that entry `x` takes, in input order: those that name its device, up to its capacity; a device's list
is that of its first entry in the table. -/
def routedTo (ptrs : List Nat) (x : RouteEntry) : List Nat := (ptrs.filter fun p => p ≠ 0 && bitsOf p 44 12 = x.dev).take x.cap

/-- The entries that take pointers, with their positions in the table: the first of each device. -/
def firstEntries (l : List RouteEntry) : List (Nat × RouteEntry) :=
  (numbered l).foldl (fun acc x => if acc.any (fun y => y.2.dev = x.2.dev) then acc else acc ++ [x]) []

/-- The lists and count words that lie at the root itself; those of other members are theirs to write. -/
def State.routeLocal (s : State) (r : Req) (es : List (Nat × RouteEntry)) (ptrs : List Nat) :
    State × Except Ans (List RingBytes) :=
  match es with
  | [] => (s, .ok [])
  | (pos, y) :: t =>
    if y.dev ≠ s.devIndex then s.routeLocal r t ptrs
    else
      let got := routedTo ptrs y
      match s.checkSpan (s.engineOf r) r ⟨y.handle, y.off, 8 * got.length, 1, 0, 2⟩ pos with
      | (s, .error a) => (s, .error { a with detail := pos })
      | (s, .ok (i, e)) =>
        match s.checkSpan (s.engineOf r) r ⟨y.handle, y.countOff, 4, 1, 0, 2⟩ pos with
        | (s, .error a) => (s, .error { a with detail := pos })
        | (s, .ok _) =>
          match s.routeLocal r t ptrs with
          | (s, .error a) => (s, .error a)
          | (s, .ok l) =>
            (s, .ok (⟨y.handle, i, e, y.off, got.flatMap (leBytes 8)⟩ :: ⟨y.handle, i, e, y.countOff, leBytes 4 got.length⟩ :: l))

/-- The pointers and the entries of a RING_ROUTE, read with the poison check of any read. -/
def State.routeInput (s : State) (x : RingOp) (w : Req) :
    State × Except RingStep (List Nat × List RouteEntry) :=
  match x.req.op with
  | .ringRoute p t =>
    let (i, e) := s.ringOperand x.req 0
    let (j, f) := s.ringOperand x.req 1
    let n := bitsOf p.length.toNat 0 20 + 1
    let m := bitsOf t.length.toNat 0 8 + 1
    match s.ringRead x w i e p.offset.toNat (8 * n) fun g => poisonAns p.handle.toNat e g 0 with
    | (s, .ok ps) =>
      match s.ringRead x w j f t.offset.toNat (32 * m) fun g => poisonAns t.handle.toNat f g 1 with
      | (s, .ok es) =>
        (s, .ok (((List.range n).map fun k => leNat ((ps.drop (8 * k)).take 8)),
          (List.range m).map fun k => routeEntry ((es.drop (32 * k)).take 32)))
      | (s, other) => (s, .error other)
    | (s, other) => (s, .error other)
  | _ => (s, .ok ([], []))

/-- RING_ROUTE at its end: each list holds its device's pointers and each count word the entries written; the answer
carries the number dropped. A write that the root's own entry fails carries its position (R186). -/
def State.routeEnd (s : State) (x : RingOp) (status pos : Nat) (parts : List (List Word64)) (w : Req) : State :=
  let r := x.req
  if status ≠ Status.ok then s.ringEnd x (x.failure status (x.failAux parts) pos) false 0
  else
    match s.routeInput x w with
    | (s, .error (.bad a)) => s.ringEnd x a false 0
    | (s, .error _) => s
    | (s, .ok (ptrs, table)) =>
      let es := firstEntries table
      let kept := (es.map fun y => (routedTo ptrs y.2).length).sum
      let live := (ptrs.filter (· ≠ 0)).length
      match s.routeLocal r es ptrs with
      | (s, .error a) => s.ringEnd x a false 0
      | (s, .ok l) =>
        match s.ringWrite x w l with
        | (s, .bad a) =>
          s.ringEnd x { a with detail := ((es.find? fun y => y.2.dev = s.devIndex).map (·.1)).getD 0 } false 0
        | (s, .wait) => s
        | (s, .ok _) =>
          s.ringEnd x (mkAns r.op Status.ok (live - kept)) (l.any fun y => y.e.mirroredMode) (setOfIndex ((l.map (·.i)).headD 0))

/-! ### Beginning and ending at the root -/

/-- What a member of a RING_REDUCE is told of its stage: its partial, the element count, the operator, EMPTY_ZERO, the bag
length, the device after it (its own root for the last member), whether it is the last, and then, with a scale, that there
is one, and for the last member its values. -/
def RingOp.stageWords (x : RingOp) (root pos : Nat) (m : Nat × Nat × Nat) (scales : Option (List Nat)) : List Nat :=
  let g := x.req.op.reduceArgs
  let last := pos + 1 = x.members.length
  [m.2.1, m.2.2, g.elems, if g.isMax then 1 else 0, if g.emptyZero then 1 else 0, g.bag,
    if last then root else ((x.members[pos + 1]?).getD (0, 0, 0)).1, if last then 1 else 0, if scales.isSome then 1 else 0] ++
  (if last then scales.getD [] else [])

/-- Tell every other member its stage (R184). The operator's tenant gives the route class of the messages (R186, R295). -/
def State.reduceStages (s : State) (x : RingOp) (scales : Option (List Nat)) : State :=
  (numbered x.members).foldl (fun s m =>
    if m.2.1 = s.devIndex then s
    else s.emit (.ringStage m.2.1 x.req.tenant 0 m.1 (ringWords x.key (x.stageWords s.devIndex m.1 m.2 scales)))) s

/-- Send every other member of a RING_ROUTE its pointers, with where they and their count go (R185). -/
def State.routeStages (s : State) (x : RingOp) (ptrs : List Nat) (es : List (Nat × RouteEntry)) : State :=
  es.foldl (fun s m =>
    if m.2.dev = s.devIndex then s
    else s.emit (.ringStage m.2.dev x.req.tenant 1 m.1
      (ringWords x.key ([m.2.handle, m.2.off, m.2.cap, m.2.countOff] ++ routedTo ptrs m.2)))) s

/-- The operator's list at the root: of RING_REDUCE its members; of RING_ROUTE its table's devices, with the pointers and
the entries that take them. -/
def State.ringList (s : State) (x : RingOp) (w : Req) :
    State × Except RingStep (List (Nat × Nat × Nat) × List Nat × List (Nat × RouteEntry)) :=
  match x.req.op with
  | .ringReduce l .. =>
    let (i, e) := s.ringOperand x.req 0
    let n := bitsOf l.length.toNat 0 8 + 1
    match s.ringRead x w i e l.offset.toNat (16 * n) fun g => poisonAns l.handle.toNat e g 0 with
    | (s, .ok bs) => (s, .ok ((List.range n).map fun k => ringEntry ((bs.drop (16 * k)).take 16), [], []))
    | (s, other) => (s, .error other)
  | _ =>
    match s.routeInput x w with
    | (s, .ok (ptrs, es)) => (s, .ok (es.map fun y => (y.dev, y.handle, y.off), ptrs, firstEntries es))
    | (s, .error a) => (s, .error a)

/-- The work that a ring operator has at its root, one piece: the oldest finished chunk is written where it belongs, or else
its end is carried out. One whose table entry is lost ends (R237). -/
def State.ringRun (s : State) (key : Nat) (fetched : List Nat) (turn : Bool) : State :=
  match s.findRing key with
  | none => s
  | some x =>
    let x := { x with busy := false }
    let s := s.setRing x
    let w := x.work fetched turn
    let (s, lost) := s.tableLook x.req
    if lost then s.ringEnd x (mkAns x.req.op Status.internalError) false 0
    else match x.chunks with
    | (first, vals) :: t =>
      match s.ringWrite x w [s.ringDest x first vals] with
      | (s, .bad a) => s.ringEnd x a false 0
      | (s, .wait) => s
      | (s, .ok _) =>
        let y := { x with chunks := t, done := first + vals.length }
        let s := s.setRing y
        if t = [] ∧ y.ending.isNone then s else s.dirUp fun d => { d with ready := d.ready ++ [y.work [] false] }
    | [] =>
      match x.ending, x.req.op with
      | none, _ => s
      | some (status, pos, parts), .ringReduce .. => s.reduceEnd x status pos parts w
      | some (status, pos, parts), _ => s.routeEnd x status pos parts w

/-- Go on with the operator's work, unless it waits. -/
def State.ringGo (s : State) (x : RingOp) : State := if x.busy then s.setRing x else (s.setRing x).ringRun x.key [] false

/-- A ring operator ends at its root, when the chunks that have come are written. -/
def State.ringComplete (s : State) (key status pos : Nat) (parts : List (List Word64)) : State :=
  match s.findRing key with
  | none => s
  | some x => if x.ending.isSome then s else s.ringGo { x with ending := some (status, pos, parts) }

/-- A member has not answered in time: RETRY_AFTER with a hint of 4 µs, its position in DETAIL; the chunks already written
remain (R186). -/
def State.ringTimeout (s : State) (key pos : Nat) : State :=
  match s.findRing key with
  | none => s
  | some x =>
    let s := s.toTime (x.started + s.fld R.PFX_CFG_RING_TIMEOUT_US * usCycles)
    s.ringEnd x (x.failure Status.retryAfter 4 pos) false 0

/-- RING_MEMBER_TIMEOUT. -/
def execRingMemberTimeout (key pos : Nat) (s : State) : Out := .next (s.ringTimeout key pos)

/-! ### This device's part under another root (R184 to R186) -/

/-- The request by which a member reads its partial or writes its list: under the operator's holder and tenant, with the
checks of R29, on no connection of its own. -/
def ringReq (key holder tenant now : Nat) (op : ReqOp) : Req :=
  ⟨.ring key, 65536, holder, tenant, ⟨0, 0, 0, 0, 0, 0, 0, 0, 0, 0, none, none⟩, 0, 0, false, false, false, 0, now, false, [], [], none, none, false,
    false, false, none, none, op, 0⟩

/-- The operation of a part: a read of its partial's elements, or a write of its pointers and then of its count word. -/
def RingPart.op (y : RingPart) : ReqOp :=
  let addr := fun (h n off : Nat) => (⟨BitVec.ofNat 32 h, BitVec.ofNat 32 (n - 1), BitVec.ofNat 64 off⟩ : Addr)
  match y.msg with
  | .combine _ _ _ _ _ h off first count _ _ _ _ _ _ _ => .read (addr h (4 * count) (off + 4 * first))
  | .list _ _ _ _ _ h off at_ countOff ptrs _ =>
    if y.counting ∨ ptrs = [] then .write (addr h 4 countOff) (leBytes 4 (at_ + ptrs.length))
    else .write (addr h (8 * ptrs.length) (off + 8 * at_)) (ptrs.flatMap (leBytes 8))
  | _ => .fence

/-- The holder and the tenant of a part. -/
def RingPart.who (y : RingPart) : Nat × Nat :=
  match y.msg with
  | .combine _ _ t h .. => (h, t)
  | .list _ _ t h .. => (h, t)
  | _ => (0, 0)

/-- A part begins, or goes on to its count word: its request is put with those that are free to run. -/
def State.ringPart (s : State) (y : RingPart) : State :=
  let (h, t) := y.who
  let s := s.pfxUp fun p => { p with parts := (p.parts.filter fun z => z.key ≠ y.key) ++ [y] }
  s.dirUp fun d => { d with ready := d.ready ++ [ringReq y.key h t s.now y.op] }

/-- A finished chunk reaches the root, and is taken in element order. -/
def State.ringChunk (s : State) (key first : Nat) (vals : List Nat) : State :=
  match s.findRing key with
  | none => s
  | some x =>
    let next := x.done + (x.chunks.map fun c => c.2.length).sum
    if first ≠ next ∨ vals = [] ∨ x.req.op.reduceArgs.elems < first + vals.length then s
    else s.ringGo { x with chunks := x.chunks ++ [(first, vals)] }

/-- A message of a ring operator arrives: this device's stage as a member, or a finished chunk at the root. -/
def State.ringMessage (s : State) (bs : List Byte) : State :=
  match Config.ringMsg bs with
  | .other => s
  | .chunk key first vals => s.ringChunk key first vals
  | msg =>
    let (key, s) := s.newKey
    s.ringPart ⟨key, msg, false⟩

/-- A part fails: its root learns the status, the member's list position and the AUX; at the root itself that ends the
operator. -/
def State.ringPartFails (s : State) (root k t pos : Nat) (a : Ans) : State :=
  match (if root = s.devIndex then s.findRing k else none) with
  | some x => s.ringComplete k a.status pos (List.replicate x.members.length [] ++ [[BitVec.ofNat 64 a.aux]])
  | none => s.emit (.ringStage root t 4 pos (ringWords k [a.status, pos, a.aux]))

/-- What a part has come to goes to the next member or to the root: combined elements, finished ones, the entries written,
or the failure with the member's list position. -/
def State.ringPartEnd (s : State) (y : RingPart) (a : Ans) : State :=
  let s := s.pfxUp fun p => { p with parts := p.parts.filter fun z => z.key ≠ y.key }
  match y.msg with
  | .combine root k t _ pos _ _ first count next mx last acc sc bag ez =>
    if a.status ≠ Status.ok then s.ringPartFails root k t pos a
    else
      let own := wordsOf count a.body
      let v := if pos = 0 then own else combineElems mx acc [own]
      if last then
        let out := finishElems ⟨count, mx, sc.isSome, ez, bag⟩ (sc.getD []) first v
        if root = s.devIndex then s.ringChunk k first out else s.emit (.ringStage root t 3 pos (ringWords k (first :: out)))
      else s.emit (.ringStage next t 2 (pos + 1) (ringWords k (first :: v)))
  | .list root k t _ pos _ _ at_ _ ptrs last =>
    if a.status ≠ Status.ok then s.ringPartFails root k t pos a
    else if last ∧ !y.counting ∧ ptrs ≠ [] then s.ringPart { y with counting := true }
    else s.emit (.ringStage root t 5 pos (ringWords k [at_ + ptrs.length]))
  | _ => s

/-- The root's own part as the first member of a RING_REDUCE: its partial, chunk by chunk of 4 KiB, to the second (R184). -/
def State.firstParts (s : State) (x : RingOp) : State :=
  let g := x.req.op.reduceArgs
  match x.members with
  | m :: n :: _ =>
    if m.1 ≠ s.devIndex then s
    else
      (List.range (ceilDiv g.elems 1024)).foldl (fun s c =>
        let (key, s) := s.newKey
        s.ringPart ⟨key, .combine s.devIndex x.key x.req.tenant x.req.holder 0 m.2.1 m.2.2 (1024 * c)
          (min 1024 (g.elems - 1024 * c)) n.1 g.isMax false [] none g.bag g.emptyZero, false⟩) s
  | _ => s

/-- RING_REDUCE and RING_ROUTE at the root: once the root's own ranges have passed their checks and its list and scale have
been read, ACCEPT, the first stage to every other member, and the root's own where it is the first. -/
def State.doRing (s : State) (r : Req) : State :=
  match s.checkReq r with
  | (s, .error a) => s.respond r a
  | (s, .ok _) =>
    let s := s.opTaken r
    let (key, s) := s.newKey
    let w := { r with checked := true }
    let x : RingOp := ⟨key, { r with accepted := true, checked := true }, [], s.now, [], 0, none, false⟩
    match s.ringList x w with
    | (s, .error (.bad a)) => s.respond r a
    | (s, .error _) => s
    | (s, .ok (members, ptrs, es)) =>
      match s.ringScales x w with
      | (s, .bad a) => s.respond r a
      | (s, .wait) => s
      | (s, .ok sc) =>
        let x := { x with members := members }
        let s := (s.accept r).pfxUp fun p => { p with ring := p.ring ++ [x] }
        match r.op with
        | .ringReduce .. =>
          (s.reduceStages x (if r.op.reduceArgs.scale then some (wordsOf (sc.length / 4) sc) else none)).firstParts x
        | _ => s.routeStages x ptrs es

/-- The parts that have come to an end. -/
def State.ringPartsEnd (s : State) : State :=
  let l := s.pfx.partEnds
  (l.foldl (fun s p =>
    match s.pfx.parts.find? (fun y => y.key = p.1) with
    | some y => s.ringPartEnd y p.2
    | none => s) (s.pfxUp fun p => { p with partEnds := [] }))

end Sys2Proof.Machine
end

