-- ==== Sys2Proof/Machine/Operands.lean ====
section
/-! DEFINITION. The operand forms of a crozier word: its fields (Tables 5.1 to 5.7) read from its 1,152 bits, the plan
header (Table 5.9) and slot descriptors (Table 5.10) read from a plan image, and the checks of R96, R106 and R436. -/

namespace Sys2Proof.Machine

/-! ### The fields of a crozier word -/

/-- The control field (Table 5.2). -/
structure Control where
  op : Nat
  level : Nat
  mode : Nat
  binpass : Bool
  count : Nat
  caddr : Nat
  scope : Nat
  wtag : Nat
  deriving DecidableEq, Repr

/-- The control field of a word. -/
def controlOf (w : Nat) : Control :=
  ⟨bitsOf w 0 3, bitsOf w 3 2, bitsOf w 5 2, bitsOf w 7 1 = 1, bitsOf w 8 20, bitsOf w 28 21, bitsOf w 49 7, bitsOf w 56 7⟩

/-- The sync slot (Table 5.3). -/
structure SyncSlot where
  sop : Nat
  obj : Nat
  frond : Nat
  breg : Nat
  deriving DecidableEq, Repr

/-- The sync slot of a word. -/
def syncSlotOf (w : Nat) : SyncSlot := ⟨bitsOf w 64 4, bitsOf w 68 16, bitsOf w 84 6, bitsOf w 90 4⟩

/-- Mover slot `m` of a word: 72 bits. -/
def moverBits (w m : Nat) : Nat := bitsOf w (96 + 72 * m) 72

/-- The MOP of a mover slot. -/
def mopOf (x : Nat) : Nat := bitsOf x 0 4

/-- The operands of a mover slot (Table 5.4). -/
def moverOf (x : Nat) : MoverField :=
  ⟨bitsOf x 4 4, bitsOf x 8 4, bitsOf x 12 1 = 1, bitsOf x 13 3, bitsOf x 16 3, bitsOf x 19 6, bitsOf x 25 4,
   bitsOf x 29 29, bitsOf x 58 7, bitsOf x 65 6⟩

/-- Clump slot `c` of a word: 96 bits. -/
def clumpBits (w c : Nat) : Nat := bitsOf w (384 + 96 * c) 96

/-- The UOP of a clump slot. -/
def uopOf (x : Nat) : Nat := bitsOf x 8 4

/-- The operands of the unit half of a clump slot (Table 5.5). -/
def unitOf (x : Nat) : UnitField := ⟨BitVec.ofNat 8 (bitsOf x 0 8), bitsOf x 12 4, bitsOf x 16 21, bitsOf x 37 11⟩

/-- The VOP of a clump slot. -/
def vopOf (x : Nat) : Nat := bitsOf x 48 6

/-- The operands of the vector half of a clump slot (Table 5.5). -/
def vecOf (x : Nat) : VecField :=
  ⟨BitVec.ofNat 8 (bitsOf x 0 8), bitsOf x 54 4, bitsOf x 58 21, bitsOf x 79 3, bitsOf x 82 1 = 1, bitsOf x 83 4, bitsOf x 87 9⟩

end Sys2Proof.Machine

namespace Sys2Proof

/-- Registers of a register operation, from VOFF: VD, VA, VB, VC. -/
def VecField.vd (v : VecField) : Nat := bitsOf v.voff 0 5
def VecField.va (v : VecField) : Nat := bitsOf v.voff 5 5
def VecField.vb (v : VecField) : Nat := bitsOf v.voff 10 5
def VecField.vc (v : VecField) : Nat := bitsOf v.voff 15 5

/-- VARG of a register operation: integer saturation, the CMP condition or destination format, MX mode. -/
def VecField.isat (v : VecField) : Bool := bitsOf v.varg 0 1 = 1
def VecField.sel (v : VecField) : Nat := bitsOf v.varg 1 4
def VecField.mx (v : VecField) : Bool := bitsOf v.varg 5 1 = 1

/-- VARG of LD and ST: the register and the size in bytes. -/
def VecField.lsReg (v : VecField) : Nat := bitsOf v.varg 0 5
def VecField.lsSize (v : VecField) : Nat := 4 * 2 ^ min 6 (bitsOf v.varg 5 3)

/-- Bytes moved by LEN. -/
def MoverField.bytes (f : MoverField) : Nat := 64 * 2 ^ bitsOf f.len 0 3

/-- SETAREG names the read set. -/
def MoverField.readSet (f : MoverField) : Bool := bitsOf f.dsel 0 1 = 1

end Sys2Proof

namespace Sys2Proof.Machine

/-- The read pointer issues a mover field (R100): RD, GATHER, and SETAREG of the read set. -/
def readClass (mop : Nat) (f : MoverField) : Bool := mop = 1 || mop = 3 || (mop = 8 && f.readSet)

/-! ### The plan image -/

/-- Little-endian field of an image. -/
def imgField (m : Mem) (off n : Nat) : Nat := leNat (m.read off n)

/-- The header of a plan (Table 5.9). -/
structure Header where
  magic : Nat
  format : Nat
  fronds : Nat
  slots : Nat
  words : Nat
  cycles : Nat
  leadBase : Nat
  leadLimit : Nat
  planned : Nat
  maxGap : Nat
  scalars : Nat
  seed : Nat
  scalarAddr : Nat
  pcMask : Nat
  deriving DecidableEq, Repr

/-- The header of an image. -/
def headerOf (m : Mem) : Header :=
  ⟨imgField m 0 4, imgField m 4 2, imgField m 6 1, imgField m 7 1, imgField m 8 4, imgField m 0xC 4, imgField m 0x10 2,
   imgField m 0x12 2, imgField m 0x14 1, imgField m 0x15 1, imgField m 0x16 1, imgField m 0x17 1, imgField m 0x18 4,
   imgField m 0x20 64⟩

/-- A slot descriptor (Table 5.10): 16 bytes as a number. -/
structure SlotDesc where
  dir : Nat
  cush : Bool
  align : Nat
  minLen : Nat
  deriving DecidableEq, Repr

/-- Descriptor `i` of an image. -/
def slotDesc (m : Mem) (i : Nat) : SlotDesc :=
  let v := imgField m (0x60 + 16 * i) 16
  ⟨bitsOf v 0 2, bitsOf v 2 1 = 1, bitsOf v 8 8, bitsOf v 64 40⟩

/-- Word `k` of the stream. -/
def planWord (m : Mem) (k : Nat) : Nat := imgField m (0x1200 + 144 * k) 144

/-- Base register `r` of logical frond `f` at call start. -/
def planBase (m : Mem) (f r : Nat) : Nat := imgField m (0x200 + 64 * f + 4 * r) 4

/-! ### Checks 4 and 5 of R108 -/

/-- R436 for descriptor `i` of a plan with `n` slots. -/
def descOk (m : Mem) (n i : Nat) : Bool :=
  let v := imgField m (0x60 + 16 * i) 16
  let d := slotDesc m i
  if d.dir = 0 then v = 0
  else i < n && 6 ≤ d.align && d.align ≤ 16 && (!d.cush || d.dir = 1) && bitsOf v 3 5 = 0 && bitsOf v 16 48 = 0 &&
    bitsOf v 104 24 = 0

/-- The header passes Table 5.9 and R436 for an image of `len` bytes. -/
def headerOk (m : Mem) (len : Nat) : Bool :=
  let h := headerOf m
  h.magic = 0x315A5243 && h.format = 1 && 1 ≤ h.fronds && h.fronds ≤ 64 && h.slots ≤ 16 && len = 0x1200 + 144 * h.words &&
    h.leadBase ≤ 8191 && h.leadBase ≤ h.leadLimit && h.leadLimit ≤ 8191 && h.planned ≤ 96 && h.maxGap ≤ 127 &&
    h.scalars ≤ 16 && (h.seed < h.scalars || h.seed = 255) && h.scalarAddr % 256 = 0 && h.scalarAddr < 2 ^ 21 &&
    imgField m 0x1C 4 = 0 && imgField m 0x160 160 = 0 && ((List.range 16).all fun i => descOk m h.slots i) &&
    (List.range 1024).all fun k => bitsOf (imgField m (0x200 + 4 * k) 4) 21 11 = 0

/-- Formats of MMA and BLOAD, and the reserved bits of UARG, are defined for a unit operation (Table 5.6). -/
def uargOk (uop arg : Nat) : Bool :=
  match uop with
  | 1 => bitsOf arg 6 4 ≤ 9
  | 2 => bitsOf arg 7 4 = 0
  | 3 => bitsOf arg 0 4 ≤ 9 && bitsOf arg 4 7 = 0
  | 4 => bitsOf arg 0 2 ≤ 2 && bitsOf arg 2 9 = 0
  | 7 => bitsOf arg 2 9 = 0
  | 9 => bitsOf arg 4 7 = 0
  | _ => arg = 0

/-- Every code of a clump slot is one that the tables define, and its reserved bits are 0 (R96). -/
def clumpOk (x : Nat) : Bool :=
  let v := vecOf x
  let reg := !(vopOf x = 32 || vopOf x = 33)
  uopOf x ≤ 9 && uargOk (uopOf x) (unitOf x).uarg && vopOf x ≤ 37 && v.rm ≤ 4 &&
    (vopOf x ≠ 9 || v.sel ≤ 6) && (reg || bitsOf v.varg 5 3 ≤ 6)

/-- A mover slot has a defined MOP and DKIND, for a clump kind a selector that names one of the 8 clumps, a reserved bit of 0,
and a split gives each frond that the plan declares in its clump, or in all, at least 64 B (R96, R104). -/
def moverOk (fronds x : Nat) : Bool :=
  let f := moverOf x
  let members := ((List.range 8).filter fun k => 8 * f.dsel + k < fronds).length
  mopOf x ≤ 8 && f.dkind ≤ 5 && bitsOf x 71 1 = 0 &&
    (mopOf x = 0 || mopOf x = 8 || ((f.dkind ≠ 0 && f.dkind ≠ 4) || f.dsel < 8) &&
      (if f.dkind = 0 then 64 * members ≤ f.bytes else f.dkind ≠ 1 || 64 * fronds ≤ f.bytes))

/-- A word passes R96, its loop structure left out. -/
def wordOk (fronds w : Nat) : Bool :=
  let c := controlOf w
  c.op ≤ 3 && (c.op ≠ 1 || (c.mode ≤ 2 && 1 ≤ c.count)) && c.mode ≤ 2 && c.scope ≤ 64 && bitsOf w 63 1 = 0 &&
    (!c.binpass || c.mode = 2) && (let p := (syncSlotOf w).sop; p ≤ 12) && bitsOf w 94 2 = 0 &&
    ((List.range 4).all fun m => moverOk fronds (moverBits w m)) && (List.range 8).all fun k => clumpOk (clumpBits w k)

/-- The words that the main pointer issues for the words from `k` on (`n` of them), with every loop at its COUNT; `open_`
holds the levels, counts and word counts of the loops open, innermost first. None when R96 fails. -/
def countWords (m : Mem) (fronds n k : Nat) (open_ : List (Nat × Nat)) (acc : Nat) : Option Nat :=
  match n with
  | 0 => none
  | n + 1 =>
    let w := planWord m k
    let c := controlOf w
    if !wordOk fronds w then none
    else match c.op with
      | 0 => countWords m fronds n (k + 1) open_ (acc + 1)
      | 1 =>
        if c.level = open_.length then countWords m fronds n (k + 1) ((c.count, acc + 1) :: open_) 0 else none
      | 2 =>
        match open_ with
        | (count, before) :: t =>
          if c.level = t.length then countWords m fronds n (k + 1) t (before + count * (acc + 1)) else none
        | [] => none
      | _ => if open_ = [] ∧ n = 0 then some (acc + 1) else none

/-- W of a stream that passes R96. -/
def streamWords (m : Mem) : Option Nat := countWords m (headerOf m).fronds (headerOf m).words 0 [] 0

end Sys2Proof.Machine
end

