-- ==== Sys2Proof/Machine/Sync.lean ====
section
/-! DEFINITION. Synchronisation objects (chapter 9): the operations of Table 9.2, the conditions of Table 9.3, waiting
(R196 to R198), and what fences and takeovers do to objects (R201, R333). -/

namespace Sys2Proof.Machine

/-! ### Objects (R190) -/

/-- An object of TYPE NONE. -/
def noneObj : SyncObj := ⟨0, false, false, false, 0, List.replicate 8 0⟩

def State.obj (s : State) (n : Nat) : SyncObj := mgetD s.syn.objs n noneObj

def SyncObj.word (o : SyncObj) (i : Nat) : Word64 := o.w.getD i 0

/-- Words with word `i` replaced. -/
def setW (w : List Word64) (i : Nat) (v : Word64) : List Word64 := w.set i v

/-- Eight result words. -/
def q8 (l : List Word64) : List Word64 := (l ++ List.replicate 8 0).take 8

/-- The 64 payload bytes of words. -/
def wordBytes (w : List Word64) : List Byte := fitBytes 64 (w.flatMap (bvBytes 8))

/-- The epoch entry of an object. -/
def syncEntry (n : Nat) (o : SyncObj) : EpochEntry := .sync n o.typ o.durable o.faulted o.full o.crc.toNat o.w

/-- Put an object's new state; the change goes into the running frame's record (R200). -/
def State.setObj (s : State) (n : Nat) (o : SyncObj) : State :=
  let s := s.synUp fun x => { x with objs := msetD x.objs n o noneObj }
  s.logEntry (setOfObj n) (syncEntry n o)

/-- The object lies in the tenant's range (R189). -/
def State.ownsObj (s : State) (t n : Nat) : Bool :=
  let b := s.fld (R.SYN_TCFG_OBJ_BASE.at (0x10 * t))
  b ≤ n && n < b + s.fld (R.SYN_TCFG_OBJ_COUNT.at (0x10 * t))

/-! ### The operations (Table 9.2) -/

/-- What an operation gives: STATUS, MET and Q0 to Q7 (R191). -/
structure SyncRes where
  status : Nat
  met : Bool
  q : List Word64
  deriving DecidableEq, Repr

/-- The status word (R191). -/
def SyncRes.word (r : SyncRes) (takeover : Bool := false) : Nat :=
  r.status + bit01 r.met 256 + bit01 takeover 512

/-- The body of a response: the status word and Q0 to Q7 (Table 12.3). -/
def SyncRes.body (r : SyncRes) (takeover : Bool := false) : List Byte :=
  leBytes 8 (r.word takeover) ++ wordBytes r.q

/-- The type that an operation serves; 7 any type but NONE, 8 any (Table 9.2). -/
def sopType (sop : Nat) : Nat :=
  match sop with
  | 1 => 8 | 2 => 7 | 3 => 1 | 4 => 1 | 5 => 2 | 6 => 3 | 7 => 3 | 8 => 4 | 9 => 4 | 10 => 5 | 11 => 5 | 12 => 6
  | _ => 8

/-- The state words in Table 9.1 order; a mailbox's payload, or zeros when it is empty. -/
def SyncObj.readWords (o : SyncObj) : List Word64 :=
  match o.typ with
  | 1 | 3 | 6 => q8 [o.word 0]
  | 2 => q8 [o.word 0, o.word 1, o.word 2]
  | 4 => q8 [o.word 0, o.word 1]
  | 5 => if o.full then q8 o.w else q8 []
  | _ => q8 []

/-- The conditions of Table 9.3. -/
def SyncObj.met (o : SyncObj) (a : List Word64) : Bool :=
  let a0 := a.getD 0 0
  match o.typ with
  | 1 | 3 => a0.toNat ≤ (o.word 0).toNat
  | 2 => o.word 0 ≠ a0
  | 4 => (o.word 1 - a0).toNat < 2 ^ 63
  | 5 => o.full = a0.getLsbD 0
  | 6 =>
    if a.getD 1 0 = 1 then o.word 0 &&& a0 = a0
    else if a.getD 1 0 = 0 then o.word 0 &&& a0 ≠ 0
    else false
  | _ => false

/-- The mailbox's payload fails its CRC (R194). -/
def SyncObj.badCrc (o : SyncObj) : Bool := o.typ = 5 && o.full && crc32c (wordBytes o.w) ≠ o.crc

def resOk (met : Bool) (q : List Word64) : SyncRes := ⟨Status.ok, met, q8 q⟩

/-- One operation on an object that is not FAULTED and whose type fits. `waits` tells that an S_ACQUIRE waits at the
object. The object is unchanged where the operation changes nothing. -/
def SyncObj.apply (o : SyncObj) (sop : Nat) (a : List Word64) (waits : Bool) : SyncObj × SyncRes :=
  let a0 := a.getD 0 0
  let a1 := a.getD 1 0
  let w0 := o.word 0
  let w1 := o.word 1
  match sop with
  | 1 => (o, resOk (if o.typ = 5 then o.full else true) o.readWords)
  | 2 => (o, resOk (o.met a) o.readWords)
  | 3 => ({ o with w := setW o.w 0 (w0 + a0) }, resOk true [w0])
  | 4 => if w0 = a0 then ({ o with w := setW o.w 0 a1 }, resOk true [w0]) else (o, resOk false [w0])
  | 5 =>
    let n := w1 + 1
    if n = o.word 2 then ({ o with w := setW (setW o.w 1 0) 0 (w0 + 1) }, resOk true [w0, w1])
    else ({ o with w := setW o.w 1 n }, resOk false [w0, w1])
  | 6 =>
    if a0.toNat ≤ w0.toNat ∧ !waits then ({ o with w := setW o.w 0 (w0 - a0) }, resOk true [w0 - a0])
    else (o, resOk false [w0])
  | 7 =>
    if 2 ^ 64 ≤ w0.toNat + a0.toNat then (o, ⟨Status.conflict, false, q8 [w0]⟩)
    else ({ o with w := setW o.w 0 (w0 + a0) }, resOk true [w0 + a0])
  | 8 => ({ o with w := setW o.w 0 (w0 + 1) }, resOk (w0 = w1) [w0, w1])
  | 9 =>
    if w1 = w0 then (o, ⟨Status.conflict, false, q8 [w1]⟩)
    else ({ o with w := setW o.w 1 (w1 + 1) }, resOk true [w1 + 1])
  | 10 =>
    if o.full then (o, resOk false [])
    else ({ o with w := q8 a, crc := crc32c (wordBytes (q8 a)), full := true }, resOk true [])
  | 11 => if o.full then ({ o with full := false }, resOk true o.w) else (o, resOk false [])
  | _ => ({ o with w := setW o.w 0 ((w0 &&& ~~~a1) ||| a0) }, resOk true [w0])

/-- The operation checks the mailbox's CRC first (R194). -/
def sopChecksCrc (sop : Nat) : Bool := sop = 1 || sop = 2 || sop = 11

/-- Unit 4 checks the payload of a full mailbox against its descriptor's CRC (R194, R249). -/
def State.crcCheck (s : State) (n : Nat) : State :=
  let o := s.obj n
  if o.typ = 5 ∧ o.full then s.crcCompare 4 o.crc.toNat (crc32c (wordBytes o.w)).toNat else s

/-- A mailbox payload has failed its CRC: FAULTED until INIT, counted and raised (R194). -/
def State.crcFault (s : State) (n : Nat) : State :=
  ((s.setObj n { s.obj n with faulted := true }).count R.SYN_COUNTS_CRC_FAIL).raise 23 8

/-- An S_ACQUIRE waits at the object. -/
def State.acquireWaits (s : State) (n : Nat) : Bool := s.syn.waiters.any fun w => w.obj = n && w.sop = 6

/-- One operation of Table 9.2 at object `n`, `waits` as for `apply`: R192's refusals, R194's check, its effect. -/
def State.syncOp (s : State) (n sop : Nat) (a : List Word64) (waits : Bool) : State × SyncRes :=
  let o := s.obj n
  let s := s.countWrap R.SYN_OPS_COUNT
  let t := sopType sop
  if o.faulted then (s, ⟨Status.poisoned, false, q8 []⟩)
  else if t ≠ 8 ∧ t ≠ o.typ ∧ !(t = 7 ∧ o.typ ≠ 0) then
    (s, ⟨Status.conflict, false, q8 [BitVec.ofNat 64 o.typ]⟩)
  else
    let s := if sopChecksCrc sop then s.crcCheck n else s
    if sopChecksCrc sop ∧ o.badCrc then (s.crcFault n, ⟨Status.poisoned, false, q8 []⟩)
    else
      let (o', r) := o.apply sop a waits
      (if o' = o then s else s.setObj n o', r)

/-! ### Waiters (R196 to R198) -/

/-- The wait of a registered request is over: what it waits for. -/
def SyncObj.waitMet (o : SyncObj) (w : SyncWaiter) : Bool :=
  match w.sop with
  | 5 => o.word 0 ≠ w.q.getD 0 0
  | 8 => (o.word 1 - w.q.getD 0 0).toNat < 2 ^ 63
  | _ => o.met w.a

/-- An acquiring waiter (R197). -/
def SyncWaiter.acquires (w : SyncWaiter) : Bool := w.sop = 6 || w.sop = 10 || w.sop = 11

/-- The operand words of a waiter's entry: those of its request; for B_ARRIVE and T_TAKE, which use none, what the
operation gave when it took effect, which the standby needs for its answer (R201; entry 13). -/
def SyncWaiter.carried (w : SyncWaiter) : List Word64 := if w.sop = 5 ∨ w.sop = 8 then q8 w.q else w.a

/-- The epoch entry of a waiter; `sop` 0 removes it. -/
def State.waiterEntry (s : State) (w : SyncWaiter) (sop : Nat) : EpochEntry :=
  .waiter w.obj w.req.holder w.req.reqId sop
    (match w.due with | some t => ceilDiv (t - s.now) usCycles | none => 0) w.carried

/-- A waiting request is answered by NOTIFY (R197, R198): its entry leaves the table, and the answer follows the
record that carries a DURABLE object's change (R200), and the request's ACCEPT where that is still held back (R267). -/
def State.endWait (s : State) (w : SyncWaiter) (res : SyncRes) (takeover : Bool := false) : State :=
  let k := setOfObj w.obj
  let s := s.synUp fun x => { x with waiters := x.waiters.erase w }
  let s := s.logEntry k (s.waiterEntry w 0)
  let a : Ans := { mkAns w.req.op res.status 0 (res.body takeover) with handle := 0 }
  let acceptHeld := s.parked.any fun p => p.toAccept && p.req.same w.req
  s.respondHeld (((s.obj w.obj).durable || acceptHeld) && s.recorded k) k w.req a

/-- The result of a wait whose condition holds: READ's words for WAIT_FOR, Q0 and Q1 as they were taken for B_ARRIVE, the
ticket and SERVING for T_TAKE, and the state for the others. -/
def SyncObj.waitWords (o : SyncObj) (w : SyncWaiter) : List Word64 :=
  match w.sop with
  | 5 => q8 w.q
  | 8 => q8 [w.q.getD 0 0, o.word 1]
  | 6 => q8 [o.word 0]
  | 2 => o.readWords
  | _ => q8 []

/-- The result of a wait that has run out, taken from the current state, but for the ticket that T_TAKE keeps (R198). -/
def SyncObj.timeoutWords (o : SyncObj) (w : SyncWaiter) : List Word64 :=
  if w.sop = 5 then q8 [o.word 0, o.word 1] else o.waitWords w

/-- Examine one waiter; `stopped` tells that an earlier acquiring waiter could not take effect (R197). -/
def State.examine (s : State) (w : SyncWaiter) (stopped : Bool) : State × Bool :=
  let o := s.obj w.obj
  if w.acquires then
    if stopped then (s, true)
    else
      let (s', r) := s.syncOp w.obj w.sop w.a false
      if r.status = Status.ok ∧ !r.met then (s, true) else (s'.endWait w r, false)
  else if o.faulted then (s, stopped)
  else if o.waitMet w then
    let s := if w.sop = 2 then s.crcCheck w.obj else s
    if w.sop = 2 ∧ o.badCrc then ((s.crcFault w.obj).endWait w ⟨Status.poisoned, false, q8 []⟩, stopped)
    else (s.endWait w (resOk true (o.waitWords w)), stopped)
  else (s, stopped)

/-- The pass over an object's waiters after an operation that changed it, in registration order (R197). -/
def State.syncPass (s : State) (n : Nat) : State :=
  ((s.syn.waiters.filter fun w => w.obj = n).foldl (fun (acc : State × Bool) w => acc.1.examine w acc.2) (s, false)).1

/-- An operation followed by its pass, when it changed the object; the flag tells that it did, whatever the pass then makes
of the object. -/
def State.syncRun (s : State) (n sop : Nat) (a : List Word64) : State × SyncRes × Bool :=
  let o := s.obj n
  let (s, r) := s.syncOp n sop a (s.acquireWaits n)
  if s.obj n = o then (s, r, false) else (s.syncPass n, r, true)

/-! ### INIT (R190, R198) -/

/-- Parameters of an INIT that Table 9.1 allows. -/
def initOk (a : List Word64) : Bool :=
  let t := bitsOf (a.getD 0 0).toNat 0 3
  1 ≤ t && t ≤ 6 && (t ≠ 2 || (1 ≤ (a.getD 1 0).toNat && (a.getD 1 0).toNat < 2 ^ 32))

/-- The object that INIT leaves. -/
def initObj (a : List Word64) : SyncObj :=
  let t := bitsOf (a.getD 0 0).toNat 0 3
  let p := a.getD 1 0
  let w := match t with
    | 1 | 3 | 6 => [p]
    | 2 => [0, 0, p]
    | _ => []
  ⟨t, (a.getD 0 0).getLsbD 3, false, false, 0, q8 w⟩

/-- INIT: every waiter of the object completes with REVOKED, then the object is set. -/
def State.syncInit (s : State) (n : Nat) (a : List Word64) : State :=
  let ws := s.syn.waiters.filter fun w => w.obj = n
  let s := ws.foldl (fun s w => s.endWait w ⟨Status.revoked, false, q8 []⟩) s
  (s.countWrap R.SYN_OPS_COUNT).setObj n (initObj a)

/-! ### IPT SYNC -/

/-- Codes to which WAIT applies (chapter 9, Waiting). -/
def sopMayWait (sop : Nat) : Bool := sop = 2 || sop = 5 || sop = 6 || sop = 8 || sop = 10 || sop = 11

/-- The waiters that this device's own operations see: not the copies of a set that it does not serve (R327). -/
def State.ownWaiters (s : State) : List SyncWaiter := s.syn.waiters.filter fun w => s.holds (setOfObj w.obj)

/-- Waiter entries of a tenant. -/
def State.waitersOf (s : State) (t : Nat) : Nat := (s.ownWaiters.filter fun w => w.req.tenant = t).length

/-- An entry of the waiter table is available to the tenant (R196). -/
def State.waiterRoom (s : State) (t : Nat) : Bool :=
  s.ownWaiters.length < 65536 && s.waitersOf t < s.fld (R.SYN_TCFG_MAX_WAITERS.at (0x10 * t))

/-- Register a waiting request: it is accepted now, or once its WAITER entry's record is acknowledged (R196, R200). -/
def State.registerWait (s : State) (r : Req) (n sop : Nat) (x : SyncArgs) (q : List Word64) : State :=
  let k := setOfObj n
  let due := if x.timeout = 0 then none else some (s.now + x.timeout.toNat * usCycles)
  let w : SyncWaiter := ⟨n, sop, { r with accepted := true, bound := none }, q8 x.a, q8 (q.take 2), due⟩
  let s := s.synUp fun y => { y with waiters := y.waiters ++ [w] }
  let s := s.logEntry k (s.waiterEntry w sop)
  if s.recorded k then
    let (key, s) := s.newKey
    { s with parked := s.parked ++ [⟨key, r, mkAns r.op 0, 0, false, k, some (s.nextRecord k), true⟩] }
  else s.accept r

/-- Answer a SYNC request; a change to a DURABLE object is acknowledged after its record (R200). -/
def State.syncAnswer (s : State) (r : Req) (n : Nat) (changed : Bool) (res : SyncRes) : State :=
  let k := setOfObj n
  let a := mkAns r.op res.status 0 res.body
  s.respondHeld (changed && (s.obj n).durable && s.recorded k) k r a

/-- A SYNC request (R189 to R198). -/
def State.doSync (s : State) (r : Req) (sop : Nat) (x : SyncArgs) : State :=
  let n := x.obj.toNat
  let k := setOfObj n
  if s.taking k then s.refuse r Status.retryAfter 4
  else if !s.holds k then s.refuse r Status.notHolder
  else if !s.ownsObj r.tenant n ∨ sop = 0 ∨ 13 ≤ sop ∧ sop ≠ 16 then s.refuse r Status.noRights
  else if sop = 16 then
    if initOk x.a then
      (s.syncInit n x.a).syncAnswer r n true (resOk true [])
    else s.refuse r Status.noRights
  else
    let (s', res, changed) := s.syncRun n sop x.a
    let unmet := res.status = Status.ok ∧ !res.met
    if x.wait ∧ sopMayWait sop ∧ unmet then
      if s.waiterRoom r.tenant then
        -- the operation's own effect stands (B_ARRIVE, T_TAKE); the wait is for the rest
        s'.registerWait r n sop x res.q
      else ((s.count R.SYN_COUNTS_WAIT_FULL).raise 23 9).refuse r Status.retryAfter 4
    else s'.syncAnswer r n changed res

/-- A wait reaches its TIMEOUT_US (R198): OK and MET 0, with the result taken from the current state. -/
def State.waitTimeout (s : State) (n holder : Nat) (reqId : BitVec 48) : State :=
  match s.syn.waiters.find? (fun w => w.obj = n && w.req.holder = holder && w.req.reqId = reqId) with
  | some w =>
    match w.due with
    | some t =>
      if !s.holds (setOfObj n) then s else
      let s := s.toTime t
      let s := s.count (R.SYN_TSTAT_TIMEOUTS.at (0x10 * w.req.tenant))
      s.endWait w (resOk false ((s.obj n).timeoutWords w))
    | none => s
  | none => s

/-! ### Sync-slot operations (R103, R199) -/

/-- A sync-slot operation that has not taken effect is withdrawn (R199). -/
def State.withdrawOps (s : State) (ops : List SlotOp) : State :=
  let n := (ops.filter fun o => o.result.isNone).length
  if n = 0 then s else (s.count R.SYN_COUNTS_WITHDRAWN n).raise 23 11

/-! ### Takeover and fencing (R201, R333) -/

/-- Objects of a set after a takeover: FAULTED where they are not DURABLE and changed in the frame whose record was
lost. The standby cannot see that frame, so it cannot know which objects changed; `lost` names them. -/
def State.faultObjects (s : State) (lost : List Nat) : State :=
  lost.foldl (fun s n =>
    let o := s.obj n
    if o.durable then s
    else ((s.synUp fun x => { x with objs := mset x.objs n { o with faulted := true } }).raise 23 10)) s

/-- Drop the waiters of a set that have their ACCEPT; the others complete with NOT_HOLDER, once, whatever their NOTIFY waits for
(R333 step 2). -/
def State.fenceWaiters (s : State) (k : Nat) : State :=
  let mine := fun (w : SyncWaiter) => setOfObj w.obj = k
  let waiting := s.parked.filter fun p => p.toAccept && p.set = k
  let s : State := { s with parked := s.parked.filter fun p => !(waiting.any fun q => q.req.same p.req) }
  let s := s.synUp fun x => { x with waiters := x.waiters.filter fun w => !mine w }
  waiting.foldl (fun s p => s.refuse p.req Status.notHolder) s

end Sys2Proof.Machine
end

