-- ==== Sys2Proof/Machine/Plane.lean ====
section
/-! DEFINITION. The compute plane's stores and its running call: frond stores and slab store (R62 to R64, R104), the
results in flight (R61, R63), slips (R54, R55), planned writes (R211), and the end of a running call (R91, R116). -/

namespace Sys2Proof.Machine

/-! ### Time in the other clocks (Table 3.1) -/

/-- CK_MC cycle of a CK_FT time: 16 for every 5. -/
def mcOf (t : Nat) : Nat := t * 16 / 5

/-- The present CK_MC cycle. -/
def State.mcNow (s : State) : Nat := mcOf s.now

/-! ### Fronds -/

/-- A logical frond at the start of a call (R61, R115). The spec resets its registers without naming the values; the model
takes 0 for predicates, vector registers and accumulators, so every lane is off until PSET or CMP (DESIGN CHOICE, entry
61). -/
def emptyFrond : Frond := ⟨[], [], List.replicate 16 0, [], 0, [], 0, [], [], 0, 0, List.replicate 256 0⟩

def State.frond (s : State) (f : Nat) : Frond := mgetD s.seq.fronds f emptyFrond

def State.setFrond (s : State) (f : Nat) (x : Frond) : State :=
  s.seqUp fun q => { q with fronds := mset q.fronds f x }

/-- Change the running call. -/
def State.runUp (s : State) (g : Run → Run) : State := s.seqUp fun q => { q with run := q.run.map g }

/-- One byte of a frond store: a block whose validity bit is clear reads as zeros (R64). -/
def Frond.byte (x : Frond) (a : Nat) : Byte :=
  let a := a % 2 ^ 21
  if x.valid.contains (a / 256) then x.store.byte a else 0

/-- `n` bytes of a frond store, addresses modulo 2 MiB. -/
def Frond.read (x : Frond) (a n : Nat) : List Byte := (List.range n).map fun k => x.byte (a + k)

/-- The first write to an invalid block stores zeros in all of it and sets its bit (R64). -/
def Frond.touch (x : Frond) (b : Nat) : Frond :=
  if x.valid.contains b then x
  else { x with valid := b :: x.valid, store := x.store.filter fun e => e.1 / 256 ≠ b }

/-- Write bytes to a frond store. -/
def Frond.write (x : Frond) (a : Nat) (bs : List Byte) : Frond :=
  match bs with
  | [] => x
  | b :: t =>
    let p := a % 2 ^ 21
    let x := x.touch (p / 256)
    Frond.write { x with store := x.store.store p b } (a + 1) t

/-- A unit access of `n` bytes, `n` a power of two from 4 to 256: the low address bits are ignored (R62). -/
def alignTo (a n : Nat) : Nat := a % 2 ^ 21 / n * n

/-- Base register `r` plus an offset, modulo 2 MiB (R66). -/
def Frond.addr (x : Frond) (r off : Nat) : Nat := (x.base.getD r 0 + off) % 2 ^ 21

/-- Raise flags of a frond (R89). -/
def State.frondFlags (s : State) (f fl : Nat) : State :=
  if fl = 0 then s else
  let x := s.frond f
  s.setFrond f { x with flags := x.flags ||| BitVec.ofNat 16 fl }

/-- Bytes `[a, a + n)` hold the 64-bit word `w` whole. -/
def wholeWord (a n w : Nat) : Bool := a ≤ 8 * w && 8 * w + 8 ≤ a + n

/-- A store write of a frond, with what it replaced kept for the count words of the next 12 cycles (R98), and with new check
bits. -/
def State.frondWrite (s : State) (f a : Nat) (bs : List Byte) : State :=
  let x := s.frond f
  let s := s.runUp fun r => { r with undo := (r.cyc, f, a, x.read a bs.length) :: r.undo.filter fun u => r.cyc < u.1 + 13 }
  let s := s.sramDrop fun c => match c with | .frond f' w => f' = f && wholeWord a bs.length w | _ => false
  s.setFrond f (x.write a bs)

/-! ### The slab store (R104) -/

/-- Bytes of the slab store: 98,304 blocks of 4 KiB. -/
def slabBytes : Nat := 98304 * 4096

/-- One byte of the slab store; an invalid block, and an address beyond the store, reads as zero. -/
def State.slabByte (s : State) (a : Nat) : Byte :=
  let a := a % 2 ^ 29
  if s.seq.slabValid.contains (a / 4096) then s.seq.slab.byte a else 0

def State.slabRead (s : State) (a n : Nat) : List Byte := (List.range n).map fun k => s.slabByte (a + k)

/-- Write bytes to the slab store, block by block as R64 has it for fronds. -/
def State.slabWrite (s : State) (a : Nat) (bs : List Byte) : State :=
  match bs with
  | [] => s
  | b :: t =>
    let p := a % 2 ^ 29
    let s := if slabBytes ≤ p then s else s.seqUp fun q =>
      let q := if q.slabValid.contains (p / 4096) then q
        else { q with slabValid := (p / 4096) :: q.slabValid, slab := q.slab.filter fun e => e.1 / 4096 ≠ p / 4096 }
      { q with slab := q.slab.store p b }
    s.slabWrite (a + 1) t

/-! ### Scoreboard and results in flight -/

/-- Add to the pending count of a tag; tag 0 is none. -/
def State.tagUp (s : State) (t : Nat) : State :=
  if t = 0 then s else s.runUp fun r => { r with tags := mset r.tags t (mgetD r.tags t 0 + 1) }

/-- Part of a tagged move has landed. -/
def State.tagDown (s : State) (t : Nat) : State :=
  if t = 0 then s else s.runUp fun r => { r with tags := msetD r.tags t (mgetD r.tags t 0 - 1) 0 }

/-- Lanes of a vector register. -/
def Frond.vreg (x : Frond) (r : Nat) : List (BitVec 32) := mgetD x.vregs r (List.replicate 64 0)

/-- A result reaches its place. -/
def State.land (s : State) (e : Effect) : State :=
  match e with
  | .vreg f r mask lanes =>
    let x := s.frond f
    let new := (List.range 64).map fun k =>
      if mask.getLsbD k then lanes.getD k 0 else (x.vreg r).getD k 0
    s.setFrond f { x with vregs := mset x.vregs r new }
  | .pred f mask bits =>
    let x := s.frond f
    s.setFrond f { x with preds := (x.preds &&& ~~~mask) ||| (bits &&& mask) }
  | .store f a bs => s.frondWrite f a bs
  | .base f r v =>
    let x := s.frond f
    s.setFrond f { x with base := x.base.set r v }
  | .arrive f bs =>
    let x := s.frond f
    s.setFrond f { x with arrived := bs }
  | .bbuf f fmt bs sc =>
    let x := s.frond f
    s.setFrond f { x with bfmt := fmt, bbuf := bs, bscale := sc }
  | .slab a bs =>
    (s.slabWrite a bs).sramDrop fun c => match c with | .slab w => wholeWord (a % 2 ^ 29) bs.length w | _ => false
  | .tag t => s.tagDown t

/-- The results that are due by the call cycle under way, movers' before units' (R63). -/
def State.retire (s : State) : State :=
  match s.seq.run with
  | none => s
  | some r =>
    let due := r.pipe.filter fun p => p.due ≤ r.cyc
    let s := s.runUp fun r => { r with pipe := r.pipe.filter fun p => r.cyc < p.due }
    let s := (due.filter (·.mover)).foldl (fun s p => s.land p.eff) s
    (due.filter fun p => !p.mover).foldl (fun s p => s.land p.eff) s

/-- Send a result to its place `lat` call cycles from now. -/
def State.after (s : State) (lat : Nat) (mover : Bool) (e : Effect) : State :=
  s.runUp fun r => { r with pipe := r.pipe ++ [⟨r.cyc + lat, mover, e⟩] }

/-! ### The running call -/

/-- The call that runs, from CALL_START to its completion. -/
def State.runCall (s : State) : Option (Run × CallRec) :=
  match s.seq.run with
  | none => none
  | some r => (s.seq.calls.find? fun c => c.key = r.key).map fun c => (r, c)

/-- The image of a plan. -/
def State.planImage (s : State) (i : Nat) : Mem := match mget s.seq.plans i with | some p => p.image | none => []

/-- Logical fronds that the running call's plan declares. -/
def State.declared (s : State) : Nat :=
  match s.runCall with
  | some (_, c) => (headerOf (s.planImage c.plan)).fronds
  | none => 64

/-- Tenant of the running call. -/
def State.runTenant (s : State) : Nat := match s.runCall with | some (_, c) => c.tenant | none => 0

/-- The window of a call. -/
def State.windowOf (s : State) (key : Nat) : Option Window := s.ftm.windows.find? fun w => w.call = key

/-- The committed call whose window covers the running frame (R8), whether or not its first word has issued. -/
def State.windowCall (s : State) : Option (Window × CallRec) :=
  match s.ftm.windows.find? (fun w => w.first ≤ s.frame && s.frame < w.first + w.frames) with
  | none => none
  | some w => (s.seq.calls.find? fun c => c.key = w.call).map fun c => (w, c)

/-! ### Slips (R54, R55) -/

/-- The plane slips: `n` events of one cause, `cycles` in all; the call and its tenant are charged. -/
def State.slipBy (s : State) (cause : Fd) (n cycles : Nat) : State :=
  match s.runCall with
  | none => s
  | some (_, c) =>
    let d := 0x20 * c.tenant
    let s := s.count (cause.at d) n
    let s := s.countWrap (R.FTM_TS_CYCLES_SLIP_CYCLES.at d) cycles
    s.runUp fun r => { r with slip := r.slip + cycles }

/-! ### Planned writes -/

/-- The bytes of a granule that a planned command moves. -/
def PlannedCmd.part (x : PlannedCmd) (bs : List Byte) : List Byte := (bs.drop x.skip).take (x.len - x.off)

/-- A planned write reaches the stack: a granule whole, its flags and poison cleared (R125, R138). One of part of a granule is
merged into it; what the granule is worth when it holds poison or no longer decodes is not stated for a planned write.
DESIGN CHOICE (entry 70): it then stays as it is, as R125 leaves one that an access request writes in part. -/
def State.plannedStore (s : State) (x : PlannedCmd) : State :=
  match s.extentAt (x.g * 64) with
  | none => s
  | some (_, e) =>
    if x.data.length = 64 then s.putGranule x.g e.tenant e.prot x.data false false
    else
      match s.decoded x.g with
      | (s, .lost) => s.uncorrectable x.g
      | (s, _) =>
        if metaPoison (s.gmeta x.g) then s
        else
          let old := s.granule x.g
          s.putGranule x.g e.tenant e.prot (old.take x.skip ++ x.data ++ old.drop (x.skip + x.data.length)) false false

/-- Pseudo-channels that have something in their planned queues. -/
def State.busyPcs (s : State) : List Nat := (s.smc.pcs.filter fun p => p.2.planned ≠ []).map (·.1)

/-- Slab writes already issued complete; reads that have not issued are dropped (R91 step 2, R116 step 1). -/
def State.drainPlanned (s : State) : State :=
  let s := s.busyPcs.foldl (fun s p =>
    let x := s.pc p
    let s := (x.planned.filter (·.write)).foldl (fun s c => s.plannedStore c) s
    let y := s.pc p
    s.setPc p { y with planned := [], late := false }) s
  s.seqUp fun q => { q with landings := [] }

/-! ### The end of a call -/

/-- The flags of the call's logical fronds, ORed (R89). -/
def State.callFlags (s : State) (n : Nat) : Nat :=
  (List.range n).foldl (fun v f => v ||| (s.frond f).flags.toNat) 0

/-- Frames of a window up to its closing boundary at the end of the running frame. -/
def State.framesRun (s : State) (w : Window) : Nat := s.frame + 1 - w.first

/-- Call cycles issued, slips and the cycle under way included (RUN_CYCLES of Table 5.13). -/
def Run.issued (r : Run) : Nat := r.cyc + r.slip + (if r.inCycle && r.stall = 0 then 1 else 0)

/-- The running call ends with its one status (R91 steps 1 to 4, R116): slab writes issued complete, output lines are
invalidated, locks are released, the rest of the frame's PLANNED slots are lent (R9), and its record is sent. -/
def State.endRun (s : State) (status detail aux : Nat) : State :=
  match s.runCall with
  | none => s
  | some (r, c) =>
    let n := (headerOf (s.planImage c.plan)).fronds
    let w := (s.windowOf c.key).getD ⟨c.key, c.tenant, s.frame, 1, 0⟩
    let s := s.drainPlanned
    let s := s.withdrawOps r.ops
    let s := s.countWrap (R.FTM_TS_FRAMES_WINDOW_FRAMES.at (0x20 * c.tenant)) (s.framesRun w)
    let e : CallEnd := ⟨status, detail, aux, s.callFlags n, if status = Status.binOverflow then r.binOver else 0, r.slip,
      w.ext, r.passes, r.skips, r.issued, r.clamp⟩
    let s := s.seqUp fun q => { q with run := none }
    let s := s.ftmUp fun f => { f with lent := some c.tenant }
    s.endCall c e r.durable

/-- The call of the running window ends before its first word has issued, or as a running one. -/
def State.endWindow (s : State) (status detail aux : Nat) : State :=
  match s.runCall with
  | some _ => s.endRun status detail aux
  | none =>
    match s.windowCall with
    | none => s
    | some (w, c) =>
      let s := s.countWrap (R.FTM_TS_FRAMES_WINDOW_FRAMES.at (0x20 * c.tenant)) (s.framesRun w)
      let s := s.ftmUp fun f => { f with lent := some c.tenant }
      s.endCall c { queuedEnd status detail aux with ext := w.ext }

/-- A plane fault (R102). -/
def State.planeFault (s : State) : State :=
  ((s.count R.SEQ_FAULTS_PLANE).raise 16 8).endRun Status.callFault 6 0

/-! ### Frond faults and the check bits of the stores (R63, R91, R92, R104, R237) -/

def State.setPhys (s : State) (p : Nat) (x : Phys) : State := { s with frd := mset s.frd p x }

/-- A frond fault: counted, the frond becomes RETIRING, and the running call ends. -/
def State.frondFault (s : State) (p : Nat) : State :=
  if 64 < p then s else
  let x := s.phys p
  let s := s.setPhys p { x with ue := min (x.ue + 1) 255, st := if x.st = 0 then 2 else x.st }
  let s := s.raise 18 8
  s.endRun Status.callFault 5 0

/-- A corrected store error of a physical frond: counted, and from `CE_RETIRE` on an ACTIVE frond becomes RETIRING while the
spare is SPARE and no frond already RETIRING will take it; else CE_LIMIT is raised and no more, for a retirement would then cost
compute (Table 4.7, R92). -/
def State.frondCe (s : State) (p : Nat) : State :=
  let x := s.phys p
  let n := min (x.ce + 1) 0xFFFF
  let s := s.setPhys p { x with ce := n }
  let lim := s.fld R.FRD_CFG_CE_RETIRE
  let inState := fun (k : Nat) => ((List.range 65).filter fun q => (s.phys q).st = k).length
  if lim = 0 ∨ n < lim ∨ x.st ≠ 0 then s
  else if inState 2 < inState 1 then s.setPhys p { x with ce := n, st := 2 }
  else s.raise 18 11

/-- Bytes `[a, a + n)` of a store of `size` bytes, addresses modulo its size, touch the 64-bit word `w`. -/
def touchesWord (size a n w : Nat) : Bool := (8 * w + size - a % size) % size < n || a % size < 8 * w + 8 && 8 * w ≤ a % size

/-- A read of a frond's store: words of valid blocks pass their check bits. A single-bit error is corrected, written back and
counted; one of two bits is a frond fault (R63, R64). -/
def State.look (s : State) (f a n : Nat) : State :=
  let hit := s.ecc.sram.filter fun e => match e.1 with
    | .frond g w => g = f && touchesWord (2 ^ 21) a n w && (s.frond f).valid.contains (w / 32)
    | _ => false
  if hit = [] ∨ n = 0 then s
  else
    match (List.range 65).find? fun p => (s.phys p).logical = f with
    | none => s
    | some p =>
      let s := s.sramDrop fun c => hit.any fun e => e.1 = c
      let s := hit.foldl (fun s e => if e.2 = 1 then s.frondCe p else s) s
      if hit.any fun e => 2 ≤ e.2 then s.frondFault p else s

/-- Reads of several ranges of a frond's store. -/
def State.looks (s : State) (f : Nat) (l : List (Nat × Nat)) : State := l.foldl (fun s x => s.look f x.1 x.2) s

/-- A read of the slab store: a block lost to a double-bit error reads as zeros, and the call completes with POISONED (R237,
R248). -/
def State.lookSlab (s : State) (a n : Nat) : State :=
  let hit := s.ecc.sram.filter fun e => match e.1 with
    | .slab w => touchesWord (2 ^ 29) a n w && s.seq.slabValid.contains (w / 512)
    | _ => false
  if hit = [] ∨ n = 0 then s
  else
    let s := s.sramDrop fun c => hit.any fun e => e.1 = c
    hit.foldl (fun s e => match e.1 with
      | .slab w =>
        if e.2 = 1 then s
        else (s.seqUp fun q => { q with slabValid := q.slabValid.filter fun b => b ≠ w / 512 }).runUp fun r =>
          { r with poisoned := true }
      | _ => s) s

/-- A call cycle, or a field issued on its own, is under way while `g` acts. -/
def State.within (s : State) (g : State → State) : State :=
  (g (s.runUp fun r => { r with inCycle := true })).runUp fun r => { r with inCycle := false }

/-- A mover access outside its slot (R105). -/
def State.boundsFault (s : State) (slot : Nat) : State :=
  ((s.count R.SLB_SKIPS_BOUNDS).raise 17 8).endRun Status.callFault 10 slot

/-- The lead would pass its limit (R101). -/
def State.leadFault (s : State) : State :=
  ((s.count R.SEQ_FAULTS_LEAD).raise 16 10).endWindow Status.callFault 7 0

/-- ACCESS writes of a granule that a planned write replaces are dropped: those in the write queue, where correcting ones are
counted, and those of lines and corrections that wait for it (R53, R209, R215). -/
def State.dropQueued (s : State) (g : Nat) : State :=
  let p := pcOf (g * 64)
  let y := s.pc p
  let drops := (y.wq.filter fun e => e.g = g && e.cond).length
  let s := if drops = 0 then s else s.count (R.SMC_HAZ_SCRUB_DROPS.at (stackOfPc p * 0x1000)) drops
  let s := if y.wq.any (fun e => e.g = g) then
      s.setPc p (Pc.settle { y with wq := y.wq.filter fun e => e.g ≠ g } (s.wqLow p))
    else s
  let mine := fun (w : WaitWrite) => match w.who with | .entry e => e.g = g | .req _ => false
  if s.smc.waits.any mine then (s.smcUp fun m => { m with waits := m.waits.filter fun w => !mine w }).recount else s

/-- A planned command of the running call enters its pseudo-channel's queue; a write drops ACCESS writes of the granule that it
replaces whole (R53),
and a queue that would exceed 256 commands is a plane fault, after which no more enter (R91, R102). -/
def State.planEnter (s : State) (x : PlannedCmd) : State :=
  let p := pcOf (x.g * 64)
  let y := s.pc p
  if s.seq.run.isNone then s
  else if 256 ≤ y.planned.length then s.planeFault
  else
    let s := if x.write && x.data.length = 64 then s.dropQueued x.g else s
    let y := s.pc p
    let s := s.setPc p { y with planned := y.planned ++ [{ x with entered := s.mcNow }] }
    let s := s.countMax R.SLB_QMAX_QMAX (y.planned.length + 1)
    s.tagUp x.tag

end Sys2Proof.Machine
end

