-- ==== Sys2Proof/Machine/Trans.lean ====
section
/-! DEFINITION. The transcendental results of R78 in FP32: how a candidate compares with the exact result, the bound in ulp
that a result keeps, and the result. Which value within its bound the hardware gives is a free value of `Config`; where that
value lies outside the bound, the nearest one stands, so that every result of the model keeps it. -/

namespace Sys2Proof.Machine

/-! ### Logarithms in fixed point -/

/-- `n` bits of the fraction of log2 of y, 1 ≤ y < 2 with `w` fraction bits: y is squared for each bit. -/
def logFrac (w : Nat) : Nat → Nat → Nat
  | 0, _ => 0
  | n + 1, y =>
    let z := y * y / 2 ^ w
    if 2 ^ (w + 1) ≤ z then 2 ^ n + logFrac w n (z / 2) else logFrac w n z

/-- log2 (m · 2^e) in units of 2^-160, rounded down. -/
def logFix (m : Nat) (e : Int) : Int :=
  ((Nat.log2 m : Int) + e) * 2 ^ 160 + logFrac 320 160 (m * 2 ^ 320 / 2 ^ Nat.log2 m)

/-- m is a power of two: the only magnitudes whose logarithm is rational. -/
def isPow2 (m : Nat) : Bool := m = 2 ^ Nat.log2 m

/-! ### Candidates against an exact result -/

/-- m · 2^e in units of 2^-k. -/
def scaled (k m : Nat) (e : Int) : Nat := m * 2 ^ (e + k).toNat

/-- m · 2^e against 1/x, x = mx · 2^ex. -/
def cmpRcp (mx : Nat) (ex : Int) (m : Nat) (e : Int) : Ordering := compare (scaled 600 (m * mx) (e + ex)) (2 ^ 600)

/-- m · 2^e against the reciprocal square root of x. -/
def cmpRsqrt (mx : Nat) (ex : Int) (m : Nat) (e : Int) : Ordering :=
  compare (scaled 900 (m * m * mx) (e + e + ex)) (2 ^ 900)

/-- m · 2^e against 2^x, x given in units of 2^-160. -/
def cmpExp2 (x : Int) (m : Nat) (e : Int) : Ordering :=
  if m = 0 then .lt
  else if isPow2 m then compare (((Nat.log2 m : Int) + e) * 2 ^ 160) x
  else if x ≤ logFix m e then .gt else .lt

/-- m · 2^e against the magnitude of log2 x, x = mx · 2^ex. -/
def cmpLog2 (mx : Nat) (ex : Int) (m : Nat) (e : Int) : Ordering :=
  let v := logFix mx ex
  let c : Int := scaled 160 m e
  if isPow2 mx then compare c v.natAbs
  else if 0 ≤ v then (if c ≤ v then .lt else .gt)
  else if c < v.natAbs then .lt else .gt

/-! ### Bounds and results -/

/-- Exponent of the last significand bit of an FP32 result of exponent `ex`: one ulp. -/
def ulp32 (ex : Int) : Int := max ex (-126) - 23

/-- The greatest number of `n` bits, above `k`, that satisfies `p`. -/
def greatest (p : Nat → Bool) : Nat → Nat → Nat
  | 0, k => k
  | n + 1, k => if p (k + 2 ^ n) then greatest p n (k + 2 ^ n) else greatest p n k

/-- The exact result of exponent `ex` and sign `neg`, rounded to nearest. -/
def nearest32 (cmp : Nat → Int → Ordering) (ex : Int) (neg : Bool) : Flagged Nat :=
  let q := ulp32 ex - 1
  let k := greatest (fun k => cmp k q ≠ .gt) 26 0
  fp32.round 0 .exact 0 neg (2 * k + (if cmp k q = .lt then 1 else 0)) (q - 1)

/-- A code lies within `n` ulp of the exact result. -/
def within32 (cmp : Nat → Int → Ordering) (ex : Int) (neg : Bool) (n code : Nat) : Bool :=
  match fp32.decode code with
  | .fin s m e =>
    let b := min e (ulp32 ex)
    let r := m * 2 ^ (e - b).toNat
    let u := n * 2 ^ (ulp32 ex - b).toNat
    s = neg && (r ≤ u || cmp (r - u) b ≠ .gt) && cmp (r + u) b ≠ .lt
  | _ => false

/-- A result of R78: the hardware's value within its bound, with NX when it is not exact and UF when it is tiny as well; an
exact result beyond the format overflows (R89). -/
def boundedResult (cmp : Nat → Int → Ordering) (ex : Int) (neg : Bool) (n : Nat) (cfg : BitVec 32) : Flagged Nat :=
  let t := nearest32 cmp ex neg
  if t.flags &&& flagOF ≠ 0 then t
  else
    let v := if within32 cmp ex neg n cfg.toNat then cfg.toNat else t.val
    match fp32.decode v with
    | .fin _ m e =>
      if cmp m e = .eq then clean v
      else ⟨v, flagNX + (if bitsOf v 23 8 = 0 then flagUF else 0)⟩
    | _ => t

/-- Exponent of 1/x. -/
def rcpExp (m : Nat) (e : Int) : Int := -magExp m e - (if isPow2 m then 0 else 1)

/-- Exponent of the reciprocal square root of x. -/
def rsqrtExp (m : Nat) (e : Int) : Int :=
  let x := magExp m e
  if x % 2 = 0 then -(x / 2) - (if isPow2 m then 0 else 1) else -((x + 1) / 2)

/-- A value in units of 2^-160. -/
def fixOf (neg : Bool) (m : Nat) (e : Int) : Int := if neg then -(scaled 160 m e : Int) else scaled 160 m e

end Sys2Proof.Machine
end

