-- ==== Sys2Proof/Machine/Vector.lean ====
section
/-! DEFINITION. The vector unit (R70 to R79, Table 4.4, Table 5.7): one definition of each operation's lanes, and the
issue of an operation by the fronds of a clump (R65, R66, R73). -/

namespace Sys2Proof.Machine

/-! ### Lanes -/

/-- Floating formats that lanes hold, with their elements per lane (R77). -/
def floatLane (fmt : Nat) : Option (Fmt × Nat) :=
  match fmt with
  | 0 => some (fp32, 1) | 1 => some (fp16, 2) | 2 => some (bf16, 2) | _ => none

/-- Integer formats that lanes hold: width, signedness, elements per lane (R77). -/
def intLane (fmt : Nat) : Option (Nat × Bool × Nat) :=
  match fmt with
  | 8 => some (8, true, 4) | 9 => some (8, false, 4) | 12 => some (32, true, 1) | 13 => some (32, false, 1) | _ => none

/-- Element `k` of width `w` in a lane. -/
def elemOf (w k lane : Nat) : Nat := bitsOf lane (w * k) w

/-- A lane from its `n` elements of width `w`, flags together. -/
def packLane (n w : Nat) (g : Nat → Flagged Nat) : Flagged Nat :=
  (List.range n).foldl (fun acc k =>
    let r := g k
    ⟨acc.val + r.val % 2 ^ w * 2 ^ (w * k), acc.flags ||| r.flags⟩) ⟨0, 0⟩

/-- The draw of element `k` of a lane: the lane's own for the first (R61, R72); the spec states no other. -/
def elemDraw (draw : BitVec 32) (k : Nat) : BitVec 32 := if k = 0 then draw else BitVec.ofNat 32 (Config.srBits (64 + k) draw)

/-- The operands of one lane, the draw it takes and a free value for what the spec leaves open. -/
structure LaneIn where
  a : Nat
  b : Nat
  c : Nat
  draw : BitVec 32
  free : Nat
  deriving DecidableEq, Repr

/-- An element-wise floating operation; a format that lanes do not hold gives a free value. -/
def laneFloat (fmt : Nat) (g : Fmt → BitVec 32 → Nat → Nat → Nat → Flagged Nat) (x : LaneIn) : Flagged Nat :=
  match floatLane fmt with
  | some (f, n) =>
    packLane n f.width fun k => g f (elemDraw x.draw k) (elemOf f.width k x.a) (elemOf f.width k x.b) (elemOf f.width k x.c)
  | none => clean x.free

/-- An element-wise integer operation; a format that lanes do not hold gives a free value. -/
def laneInt (fmt : Nat) (g : Nat → Bool → Nat → Nat → Flagged Nat) (x : LaneIn) : Flagged Nat :=
  match intLane fmt with
  | some (w, sg, n) => packLane n w fun k => g w sg (elemOf w k x.a) (elemOf w k x.b)
  | none => clean x.free

/-! ### The operations of Table 5.7 -/

def laneAdd (v : VecField) : LaneIn → Flagged Nat :=
  laneFloat v.vfmt fun f d a b _ => f.addV v.rm d (f.decode a) (f.decode b)

def laneSub (v : VecField) : LaneIn → Flagged Nat :=
  laneFloat v.vfmt fun f d a b _ => f.addV v.rm d (f.decode a) (f.decode b).neg

def laneMul (v : VecField) : LaneIn → Flagged Nat :=
  laneFloat v.vfmt fun f d a b _ => f.mulR v.rm d (f.decode a) (f.decode b)

def laneFma (v : VecField) : LaneIn → Flagged Nat :=
  laneFloat v.vfmt fun f d a b c => f.fmaR v.rm d (f.decode a) (f.decode b) (f.decode c)

/-- Minimum or maximum of two integers. -/
def intPick (isMax : Bool) (w : Nat) (sg : Bool) (a b : Nat) : Flagged Nat :=
  clean (if isMax then (if intOf w sg a < intOf w sg b then b else a) else (if intOf w sg b < intOf w sg a then b else a))

/-- MIN and MAX: NaN-propagating; integers in integer formats. -/
def laneMinMax (v : VecField) (isMax : Bool) (x : LaneIn) : Flagged Nat :=
  if v.vfmt < 8 then laneFloat v.vfmt (fun f _ a b _ => f.minmax isMax a b) x
  else laneInt v.vfmt (intPick isMax) x

/-- MINNUM and MAXNUM. -/
def laneMinMaxNum (v : VecField) (isMax : Bool) (x : LaneIn) : Flagged Nat :=
  if v.vfmt < 8 then laneFloat v.vfmt (fun f _ a b _ => f.minmaxNum isMax a b) x
  else laneInt v.vfmt (intPick isMax) x

/-- A comparison of two values by condition (Table 5.5): EQ, NE and UNORDERED are quiet, the others signal NV on any
NaN, as IEEE 754-2019 has it; −0 orders below +0 (Table 4.4). -/
def compareVals (cond : Nat) (x y : FVal) : Bool × Nat :=
  let un := x.isNan || y.isNan
  let fl := if 2 ≤ cond ∧ cond ≤ 5 then (if un then flagNV else 0) else sigFlag x ||| sigFlag y
  let lt := x.lt true y
  let gt := y.lt true x
  let eq := x.eq y && !lt && !gt
  (match cond with
   | 0 => eq | 1 => !eq | 2 => lt | 3 => lt || eq | 4 => gt | 5 => gt || eq | _ => un, fl)

/-- CMP: the predicate of a lane with one element; a lane with more has no stated predicate, and a format that lanes
do not hold neither. -/
def laneCmp (v : VecField) (x : LaneIn) : Flagged Bool :=
  match floatLane v.vfmt, intLane v.vfmt with
  | some (f, 1), _ => let (b, fl) := compareVals v.sel (f.decode x.a) (f.decode x.b); ⟨b, fl⟩
  | _, some (w, sg, 1) => ⟨(compareVals v.sel (valOfInt (intOf w sg x.a)) (valOfInt (intOf w sg x.b))).1, 0⟩
  | _, _ => clean (x.free.testBit 0)

/-- Value of an element of a VFMT code. -/
def valOfCode (fmt code : Nat) : FVal :=
  if fmt < 8 then (fmtOf fmt).decode code else valOfInt (intOf (intWidth fmt) (intSigned fmt) code)

/-- Elements of a VFMT code that a lane holds: none for 64-bit ones. R77 gives the counts of FP32, INT32, UINT32, FP16, BF16
and the 8-bit integers. DESIGN CHOICE (entry 71): in CVT a lane holds two 16-bit integers, and four elements of E4M3, E5M2, FP6
or FP4, each in the low bits of its byte. -/
def laneElems (fmt : Nat) : Nat :=
  let w := widthOf fmt
  if 32 < w then 0 else if w = 32 then 1 else if w = 16 then 2 else 4

/-- One element converted (R75). -/
def convertElem (v : VecField) (draw : BitVec 32) (code : Nat) : Flagged Nat :=
  let x := valOfCode v.vfmt code
  if v.sel < 8 then (fmtOf v.sel).convert v.rm v.sat draw x
  else toIntV (intWidth v.sel) (intSigned v.sel) v.rm draw x

/-- CVT without MX mode: as many elements as both formats have in a lane, from the lowest; lane bits beyond them are
open. -/
def laneCvt (v : VecField) (x : LaneIn) : Flagged Nat :=
  let n := min (laneElems v.vfmt) (laneElems v.sel)
  let w := widthOf v.sel
  if n = 0 then clean x.free
  else
    let r := packLane n w fun k => convertElem v (elemDraw x.draw k) (elemOf (widthOf v.vfmt) k x.a)
    ⟨r.val + (x.free % 2 ^ 32) / 2 ^ (n * w) * 2 ^ (n * w), r.flags⟩

/-- Integer ADD, SUB and MUL (low half), wrapping or saturating. -/
def laneIntOp (v : VecField) (op : Int → Int → Int) (x : LaneIn) : Flagged Nat :=
  laneInt v.vfmt (fun w sg a b => fitInt w sg v.isat (op (intOf w sg a) (intOf w sg b))) x

/-- Shifts by the element of VB; a shift by the width or more has no stated result. -/
def laneShift (v : VecField) (g : Nat → Nat → Nat → Nat) (x : LaneIn) : Flagged Nat :=
  match intLane v.vfmt with
  | some (w, _, n) => packLane n w fun k =>
      let b := elemOf w k x.b
      clean (if b < w then g w (elemOf w k x.a) b else elemOf w k x.free)
  | none => clean x.free

def shlBits (w a b : Nat) : Nat := a * 2 ^ b % 2 ^ w
def shrBits (_w a b : Nat) : Nat := a / 2 ^ b
def sarBits (w a b : Nat) : Nat := ((intOf w true a / (2 ^ b : Int)) % (2 ^ w : Int)).toNat

/-- Bits set in a number of `w` bits. -/
def popBits (w a : Nat) : Nat := ((List.range w).filter fun k => a.testBit k).length

/-- Leading zeros of a number of `w` bits. -/
def clzBits (w a : Nat) : Nat := if a % 2 ^ w = 0 then w else w - 1 - Nat.log2 (a % 2 ^ w)

def lanePop (v : VecField) : LaneIn → Flagged Nat := laneInt v.vfmt fun w _ a _ => clean (popBits w a)
def laneClz (v : VecField) : LaneIn → Flagged Nat := laneInt v.vfmt fun w _ a _ => clean (clzBits w a)

/-- DOT4: the sum of four products of 8-bit integers. DEDUCED (entry 71): the sum replaces the INT32 lane of VD; Table 4.4 names no
third operand. -/
def laneDot4 (v : VecField) (x : LaneIn) : Flagged Nat :=
  if v.vfmt = 8 ∨ v.vfmt = 9 then
    let sg := v.vfmt = 8
    let p := fun (k : Nat) => intOf 8 sg (elemOf 8 k x.a) * intOf 8 sg (elemOf 8 k x.b)
    clean (((p 0 + p 1 + p 2 + p 3) % (2 ^ 32 : Int)).toNat)
  else clean x.free

/-- EXP2, within 2 ulp (R78). From −150 on the result is no zero: at the least the smallest subnormal, which is within the
bound. -/
def laneExp2 (x : LaneIn) : Flagged Nat :=
  match fp32.decode x.a with
  | .nan s => ⟨fp32.qnan, if s then flagNV else 0⟩
  | .inf n => clean (if n then 0 else fp32.infCode false)
  | .fin n m e =>
    let v := FVal.fin n m e
    if !(v.lt true (valOfInt 128)) then ⟨fp32.infCode false, flagOF + flagNX⟩
    else if v.lt true (valOfInt (-150)) then ⟨0, flagUF + flagNX⟩
    else
      let k := fixOf n m e
      let cfg := Config.exp2 (BitVec.ofNat 32 x.a)
      let r := boundedResult (cmpExp2 k) (k / 2 ^ 160) false 2 (if cfg = 0 then 1 else cfg)
      if r.val = 0 then ⟨1, r.flags⟩ else r

/-- LOG2, within 2 ulp (R78). -/
def laneLog2 (x : LaneIn) : Flagged Nat :=
  match fp32.decode x.a with
  | .nan s => ⟨fp32.qnan, if s then flagNV else 0⟩
  | .inf n => if n then ⟨fp32.qnan, flagNV⟩ else clean (fp32.infCode false)
  | .fin n m e =>
    if m = 0 then ⟨fp32.infCode true, flagDZ⟩
    else if n then ⟨fp32.qnan, flagNV⟩
    else
      let v := logFix m e
      if v = 0 then clean 0
      else boundedResult (cmpLog2 m e) (magExp v.natAbs (-160)) (v < 0) 2 (Config.log2 (BitVec.ofNat 32 x.a))

/-- RCP, within 1 ulp (R78). -/
def laneRcp (x : LaneIn) : Flagged Nat :=
  match fp32.decode x.a with
  | .nan s => ⟨fp32.qnan, if s then flagNV else 0⟩
  | .inf n => clean (fp32.sign n)
  | .fin n m e =>
    if m = 0 then ⟨fp32.infCode n, flagDZ⟩
    else boundedResult (cmpRcp m e) (rcpExp m e) n 1 (Config.rcp (BitVec.ofNat 32 x.a))

/-- RSQRT, within 1 ulp (R78). -/
def laneRsqrt (x : LaneIn) : Flagged Nat :=
  match fp32.decode x.a with
  | .nan s => ⟨fp32.qnan, if s then flagNV else 0⟩
  | .inf n => if n then ⟨fp32.qnan, flagNV⟩ else clean 0
  | .fin n m e =>
    if m = 0 then ⟨fp32.infCode n, flagDZ⟩
    else if n then ⟨fp32.qnan, flagNV⟩
    else boundedResult (cmpRsqrt m e) (rsqrtExp m e) false 1 (Config.rsqrt (BitVec.ofNat 32 x.a))

/-- A transcendental operation, in FP32 only. -/
def laneTrans (v : VecField) (g : LaneIn → Flagged Nat) (x : LaneIn) : Flagged Nat :=
  if v.vfmt = 0 then g x else clean x.free

/-! ### Reductions (R79) -/

/-- One level of the pairwise tree. -/
def pairUp (g : BitVec 32 → Nat → Nat → Flagged Nat) (draws : List (BitVec 32)) (l : List Nat) : List Nat × Nat :=
  match l with
  | a :: b :: t =>
    let r := g (draws.headD 0) a b
    let (rest, fl) := pairUp g (draws.drop 1) t
    (r.val :: rest, r.flags ||| fl)
  | l => (l, 0)

/-- `n` levels of the tree, each with draws of its own. DESIGN CHOICE (entry 71): under SR the additions of the first level take
the draws in the order of their pairs, those of a later level draws that the spec leaves open (R79, R71 to R73). -/
def treeReduce (g : BitVec 32 → Nat → Nat → Flagged Nat) (n : Nat) (draws : List (BitVec 32)) (l : List Nat) : Nat × Nat :=
  match n with
  | 0 => (l.headD 0, 0)
  | k + 1 =>
    let (l', fl) := pairUp g draws l
    let (v, fl') := treeReduce g k (draws.map fun d => BitVec.ofNat 32 (Config.srBits (128 + k) d)) l'
    (v, fl ||| fl')

/-- One step of a reduction on two lanes, element by element: `kind` 0 SUM, 1 MAX, 2 MIN. A format that lanes do not hold
gives a free value. -/
def reduceStep (v : VecField) (kind free : Nat) (draw : BitVec 32) (a b : Nat) : Flagged Nat :=
  let x : LaneIn := ⟨a, b, 0, draw, free⟩
  if kind ≠ 0 then laneMinMax v (kind = 1) x
  else if v.vfmt < 8 then laneAdd v x
  else laneIntOp v (· + ·) x

/-- The lane that a reduction over 64 lanes gives, and its flags. -/
def reduceLanes (v : VecField) (kind free : Nat) (draws : List (BitVec 32)) (l : List Nat) : Nat × Nat :=
  treeReduce (reduceStep v kind free) 6 draws l

/-! ### MX blocks (R76) -/

/-- Exponent e of an MX element format: E4M3, E5M2, E3M2, E2M3, E2M1, MXINT8. -/
def mxExp (fmt : Nat) : Option Int :=
  match fmt with
  | 3 => some 8 | 4 => some 15 | 5 => some 4 | 6 => some 2 | 7 => some 2 | 8 => some 0 | _ => none

/-- ⌊log2⌋ of the largest magnitude of some values; none when all are zero. -/
def topExp (l : List FVal) : Option Int :=
  l.foldl (fun acc x =>
    match x with
    | .fin _ m e =>
      if m = 0 then acc
      else match acc with
        | none => some (magExp m e)
        | some t => some (if t < magExp m e then magExp m e else t)
    | _ => acc) none

/-- The value times 2^k. -/
def FVal.scaleBy (x : FVal) (k : Int) : FVal := match x with | .fin n m e => .fin n m (e + k) | y => y

/-- One element of an MX block: rounded and saturated (Table 4.3). -/
def mxElem (fmt : Nat) (mode : Mode) (draw : BitVec 32) (x : FVal) : Flagged Nat :=
  if fmt = 8 then
    let r := toIntV 8 true mode draw (x.scaleBy 6)
    ⟨r.val, if r.flags &&& flagNV ≠ 0 then flagOF + flagNX else r.flags⟩
  else (fmtOf fmt).convert mode true draw x

/-- A block of 32 values in an MX format: its scale and elements, with the flags. -/
def mxBlock (fmt : Nat) (e : Int) (mode : Mode) (draws : List (BitVec 32)) (l : List FVal) : Nat × List Nat × Nat :=
  let zeros := List.replicate l.length 0
  if l.any fun x => match x with | .fin .. => false | _ => true then (0xFF, zeros, 0)
  else match topExp l with
    | none => (0, zeros, 0)
    | some t =>
      let x := if t - e < -127 then -127 else t - e
      let r := (List.zip l draws).map fun p => mxElem fmt mode p.2 (p.1.scaleBy (-x))
      ((x + 127).toNat, r.map (·.val), orFlags (r.map (·.flags)))

/-! ### Issue by a clump -/

/-- Key of the generator: the seed scalar that the plan names, or 0 (R72). -/
def State.seed (s : State) : Word64 :=
  match s.runCall with
  | some (_, c) =>
    let h := headerOf (s.planImage c.plan)
    if h.seed = 255 then 0 else c.scalars.getD h.seed 0
  | none => 0

/-- The 64 draws of a frond's evaluation (R72). -/
def frondDraws (seed : Word64) (draw f : Nat) : List (BitVec 32) :=
  (List.range 16).flatMap fun g =>
    philox seed [BitVec.ofNat 32 draw, BitVec.ofNat 32 (draw / 2 ^ 32), BitVec.ofNat 32 f, BitVec.ofNat 32 g]

/-- The fronds of clump `c` that the plan declares. -/
def State.clumpFronds (s : State) (c : Nat) : List Nat := ((List.range 8).map (8 * c + ·)).filter (· < s.declared)

/-- The enabled fronds of a clump slot (R65). -/
def State.enabledFronds (s : State) (c : Nat) (en : BitVec 8) : List Nat := (s.clumpFronds c).filter fun f => en.getLsbD (f % 8)

/-- Advance the draw counters of a clump whose slot consumes random bits, enabled or not (R73). -/
def State.drawn (s : State) (c : Nat) (uses : Bool) : State :=
  if uses then (s.clumpFronds c).foldl (fun s f =>
    let x := s.frond f
    s.setFrond f { x with draw := x.draw + 1 }) s
  else s

/-- What a call's results may depend on beside its operands (R83), for the values in it that the spec leaves open: its plan
image, its scalars and how many words the main pointer has issued; no cycle number, which holds the lead and with it
PL_LAT. -/
def State.callSig (s : State) : List Nat :=
  match s.runCall with
  | some (r, c) => (match mget s.seq.plans c.plan with | some p => p.hash.toNat | none => 0) :: r.words :: c.scalars.map (·.toNat)
  | none => []

/-- The field as numbers. -/
def vecSig (v : VecField) : List Nat := [v.en.toNat, v.vbase, v.voff, v.rm, v.varg, v.vfmt, bit01 v.sat 1]

/-- The inputs of the 64 lanes of a frond. The free value of a lane is a function of what R83 lets it depend on. -/
def State.laneIns (s : State) (f : Nat) (v : VecField) : List LaneIn :=
  let x := s.frond f
  let ds := if v.rm = 4 then frondDraws s.seed x.draw f else []
  let a := x.vreg v.va
  let b := x.vreg v.vb
  let c := x.vreg v.vc
  let sig := f :: s.callSig
  (List.range 64).map fun k =>
    let a := (a.getD k 0).toNat
    let b := (b.getD k 0).toNat
    let c := (c.getD k 0).toNat
    ⟨a, b, c, ds.getD k 0, Config.callFree 4 (k :: a :: b :: c :: sig ++ vecSig v) % 2 ^ 32⟩

/-- The flags that active lanes raise. -/
def activeFlags (preds : BitVec 64) (l : List (Flagged Nat)) : Nat :=
  orFlags ((List.zip l (List.range 64)).map fun p => if preds.getLsbD p.2 then p.1.flags else 0)

/-- A vector operation whose lanes are independent. -/
def State.vecLanes (s : State) (c : Nat) (v : VecField) (lat : Nat) (usesSr : Bool) (g : LaneIn → Flagged Nat) : State :=
  let s := (s.enabledFronds c v.en).foldl (fun s f =>
    let x := s.frond f
    let r := (s.laneIns f v).map g
    let s := s.frondFlags f (activeFlags x.preds r)
    s.after lat false (.vreg f v.vd x.preds (r.map fun y => BitVec.ofNat 32 y.val))) s
  s.drawn c (usesSr && v.rm = 4)

/-- CMP writes the predicates of the active lanes. -/
def State.vecCmp (s : State) (c : Nat) (v : VecField) : State :=
  (s.enabledFronds c v.en).foldl (fun s f =>
    let x := s.frond f
    let r := (s.laneIns f v).map (laneCmp v)
    let bits := (List.zip r (List.range 64)).foldl (fun n p => if p.1.val then n + 2 ^ p.2 else n) 0
    let s := s.frondFlags f (activeFlags x.preds (r.map fun y => ⟨0, y.flags⟩))
    s.after 4 false (.pred f x.preds (BitVec.ofNat 64 bits))) s

/-- CVT into MX blocks (R76, Table 5.5): elements to VD, the two scales to lane 0 of VC. DESIGN CHOICE (entry 71): one element of a
lane, the low one, is a value of its block; a lane whose predicate is 0 takes part in the block's maximum and its flags; an RM
other than RNE and SR rounds as it says. -/
def State.vecMx (s : State) (c : Nat) (v : VecField) : State :=
  let s := (s.enabledFronds c v.en).foldl (fun s f =>
    let x := s.frond f
    let ins := s.laneIns f v
    let s := match mxExp v.sel with
      | none =>
        s.after 3 false (.vreg f v.vd x.preds (ins.map fun y => BitVec.ofNat 32 y.free))
      | some e =>
        let vals := ins.map fun y => valOfCode v.vfmt (elemOf (widthOf v.vfmt) 0 y.a)
        let ds := ins.map (·.draw)
        let (s0, e0, f0) := mxBlock v.sel e v.rm (ds.take 32) (vals.take 32)
        let (s1, e1, f1) := mxBlock v.sel e v.rm (ds.drop 32) (vals.drop 32)
        let w := widthOf v.sel
        let lanes := (List.zip (e0 ++ e1) ins).map fun p => BitVec.ofNat 32 (p.1 + p.2.free / 2 ^ w * 2 ^ w)
        let old := ((x.vreg v.vc).getD 0 0).toNat
        let sc : BitVec 32 := BitVec.ofNat 32 (old / 65536 * 65536 + s1 * 256 + s0)
        let s := s.frondFlags f (f0 ||| f1)
        let s := s.after 3 false (.vreg f v.vd x.preds lanes)
        s.after 3 false (.vreg f v.vc (x.preds &&& 1) [sc])
    s) s
  s.drawn c (v.rm = 4)

/-- A reduction: its lane stands in lane 0 of VD, and the other active lanes hold what the spec does not state. DESIGN CHOICE
(entry 71): a SUM with RM 4 advances the draw counter in an integer format too, whose additions round nothing (R73). -/
def State.vecReduce (s : State) (c : Nat) (v : VecField) (kind : Nat) : State :=
  let s := (s.enabledFronds c v.en).foldl (fun s f =>
    let x := s.frond f
    let ins := s.laneIns f v
    let (val, fl) := reduceLanes v kind (ins.headD ⟨0, 0, 0, 0, 0⟩).free (ins.map (·.draw)) (ins.map (·.a))
    let lanes := BitVec.ofNat 32 val :: (ins.drop 1).map fun y => BitVec.ofNat 32 y.free
    let s := s.frondFlags f fl
    s.after 8 false (.vreg f v.vd x.preds lanes)) s
  s.drawn c (kind = 0 && v.rm = 4)

/-- PERMUTE: lane k takes the lane of VA that lane k of VB names; an index of 64 or more has no stated lane. -/
def State.vecPermute (s : State) (c : Nat) (v : VecField) : State :=
  (s.enabledFronds c v.en).foldl (fun s f =>
    let x := s.frond f
    let ins := s.laneIns f v
    let lanes := ins.map fun y =>
      if y.b < 64 then (x.vreg v.va).getD y.b 0 else BitVec.ofNat 32 y.free
    s.after 8 false (.vreg f v.vd x.preds lanes)) s

/-- BROADCAST of one lane of VA; which bits of its field name the lane is not stated. -/
def State.vecBroadcast (s : State) (c : Nat) (v : VecField) : State :=
  let k := Config.broadcastLane (vecSig v) % 64
  (s.enabledFronds c v.en).foldl (fun s f =>
    let x := s.frond f
    s.after 8 false (.vreg f v.vd x.preds (List.replicate 64 ((x.vreg v.va).getD k 0)))) s

/-- The 32-bit words of a byte list. -/
def lanesOf (n : Nat) (bs : List Byte) : List (BitVec 32) :=
  match n with
  | 0 => []
  | k + 1 => BitVec.ofNat 32 (leNat (bs.take 4)) :: lanesOf k (bs.drop 4)

/-- LD: up to 256 B from the store into the first lanes of a register. -/
def State.vecLd (s : State) (c : Nat) (v : VecField) : State :=
  (s.enabledFronds c v.en).foldl (fun s f =>
    let x := s.frond f
    let n := v.lsSize
    let a := alignTo (x.addr v.vbase v.voff) n
    let mask : BitVec 64 := BitVec.ofNat 64 (2 ^ (n / 4) - 1)
    (s.look f a n).after 4 false (.vreg f v.lsReg (x.preds &&& mask) (lanesOf (n / 4) (x.read a n)))) s

/-- The store writes of ST in one frond: the lanes whose predicate is 1, each 64-bit word that has both its lanes in one. -/
def stores (f a n : Nat) (preds : BitVec 64) (lanes : List (BitVec 32)) : List Effect :=
  let lane := fun (k : Nat) => leBytes 4 (lanes.getD k 0).toNat
  let one := fun (k : Nat) => if preds.getLsbD k then [Effect.store f (a + 4 * k) (lane k)] else []
  if n < 8 then one 0
  else (List.range (n / 8)).flatMap fun j =>
    if preds.getLsbD (2 * j) && preds.getLsbD (2 * j + 1) then [.store f (a + 8 * j) (lane (2 * j) ++ lane (2 * j + 1))]
    else one (2 * j) ++ one (2 * j + 1)

/-- ST: the first lanes of a register to the store, lane by lane where the predicate is 1. -/
def State.vecSt (s : State) (c : Nat) (v : VecField) : State :=
  (s.enabledFronds c v.en).foldl (fun s f =>
    let x := s.frond f
    let n := v.lsSize
    (stores f (alignTo (x.addr v.vbase v.voff) n) n x.preds (x.vreg v.lsReg)).foldl (fun s e => s.after 5 false e) s) s

/-- RAND: raw draws into the lanes (R72). -/
def State.vecRand (s : State) (c : Nat) (v : VecField) : State :=
  let s := (s.enabledFronds c v.en).foldl (fun s f =>
    let x := s.frond f
    s.after 4 false (.vreg f v.vd x.preds (frondDraws s.seed x.draw f))) s
  s.drawn c true

/-- SETBASE: a base register takes lane 0 of VA, from the cycle after the latency ends (R66). -/
def State.vecSetbase (s : State) (c : Nat) (v : VecField) : State :=
  (s.enabledFronds c v.en).foldl (fun s f =>
    let x := s.frond f
    s.after 5 false (.base f v.sel (((x.vreg v.va).getD 0 0).toNat % 2 ^ 21))) s

/-- PSET: every predicate takes one value. DESIGN CHOICE (entry 71): SETBASE, PSET and XRECV, which Table 4.4 does not list, take
the 4 cycles of its movement group. -/
def State.vecPset (s : State) (c : Nat) (v : VecField) : State :=
  (s.enabledFronds c v.en).foldl (fun s f =>
    s.after 4 false (.pred f (~~~0) (if v.isat then ~~~0 else 0))) s

/-- XRECV: the clump exchange's arrival into a register (R67). -/
def State.vecXrecv (s : State) (c : Nat) (v : VecField) : State :=
  (s.enabledFronds c v.en).foldl (fun s f =>
    let x := s.frond f
    s.after 4 false (.vreg f v.vd x.preds (lanesOf 64 x.arrived))) s

/-- Bitwise operations on whole lanes. -/
def laneBits (g : BitVec 32 → BitVec 32 → BitVec 32) (x : LaneIn) : Flagged Nat :=
  clean (g (BitVec.ofNat 32 x.a) (BitVec.ofNat 32 x.b)).toNat

/-- A vector opcode of Table 5.7 issued by clump `c`. -/
def State.vecIssue (s : State) (c vop : Nat) (v : VecField) : State :=
  match vop with
  | 1 => s.vecLanes c v 4 true (laneAdd v)
  | 2 => s.vecLanes c v 4 true (laneSub v)
  | 3 => s.vecLanes c v 4 true (laneMul v)
  | 4 => s.vecLanes c v 4 true (laneFma v)
  | 5 => s.vecLanes c v 4 false (laneMinMax v false)
  | 6 => s.vecLanes c v 4 false (laneMinMax v true)
  | 7 => s.vecLanes c v 4 false (laneMinMaxNum v false)
  | 8 => s.vecLanes c v 4 false (laneMinMaxNum v true)
  | 9 => s.vecCmp c v
  | 10 => if v.mx then s.vecMx c v else s.vecLanes c v 3 true (laneCvt v)
  | 11 => s.vecLanes c v 4 false (laneIntOp v (· + ·))
  | 12 => s.vecLanes c v 4 false (laneIntOp v (· - ·))
  | 13 => s.vecLanes c v 4 false (laneIntOp v (· * ·))
  | 14 => s.vecLanes c v 4 false (laneShift v shlBits)
  | 15 => s.vecLanes c v 4 false (laneShift v shrBits)
  | 16 => s.vecLanes c v 4 false (laneShift v sarBits)
  | 17 => s.vecLanes c v 4 false (laneBits (· &&& ·))
  | 18 => s.vecLanes c v 4 false (laneBits (· ||| ·))
  | 19 => s.vecLanes c v 4 false (laneBits (· ^^^ ·))
  | 20 => s.vecLanes c v 4 false (lanePop v)
  | 21 => s.vecLanes c v 4 false (laneClz v)
  | 22 => s.vecLanes c v 4 false (laneDot4 v)
  | 23 => s.vecLanes c v 12 false (laneTrans v laneExp2)
  | 24 => s.vecLanes c v 12 false (laneTrans v laneLog2)
  | 25 => s.vecLanes c v 12 false (laneTrans v laneRcp)
  | 26 => s.vecLanes c v 12 false (laneTrans v laneRsqrt)
  | 27 => s.vecReduce c v 0
  | 28 => s.vecReduce c v 1
  | 29 => s.vecReduce c v 2
  | 30 => s.vecPermute c v
  | 31 => s.vecBroadcast c v
  | 32 => s.vecLd c v
  | 33 => s.vecSt c v
  | 34 => s.vecRand c v
  | 35 => s.vecSetbase c v
  | 36 => s.vecPset c v
  | 37 => s.vecXrecv c v
  | _ => s

/-! ### The rows -/

/-- A vector field issued in the call cycle under way, when a call runs. -/
def State.vecRow (s : State) (c vop : Nat) (v : VecField) : State :=
  if s.seq.run.isSome then s.within fun s => s.vecIssue (c % 8) vop v else s

/-- ADD (VOP 1 of Table 5.7). -/
def execVAdd (c : Nat) (v : VecField) (s : State) : Out := .next (s.vecRow c 1 v)

/-- SUB (VOP 2 of Table 5.7). -/
def execVSub (c : Nat) (v : VecField) (s : State) : Out := .next (s.vecRow c 2 v)

/-- MUL (VOP 3 of Table 5.7). -/
def execVMul (c : Nat) (v : VecField) (s : State) : Out := .next (s.vecRow c 3 v)

/-- FMA (VOP 4 of Table 5.7). -/
def execVFma (c : Nat) (v : VecField) (s : State) : Out := .next (s.vecRow c 4 v)

/-- MIN (VOP 5 of Table 5.7). -/
def execVMin (c : Nat) (v : VecField) (s : State) : Out := .next (s.vecRow c 5 v)

/-- MAX (VOP 6 of Table 5.7). -/
def execVMax (c : Nat) (v : VecField) (s : State) : Out := .next (s.vecRow c 6 v)

/-- MINNUM (VOP 7 of Table 5.7). -/
def execVMinnum (c : Nat) (v : VecField) (s : State) : Out := .next (s.vecRow c 7 v)

/-- MAXNUM (VOP 8 of Table 5.7). -/
def execVMaxnum (c : Nat) (v : VecField) (s : State) : Out := .next (s.vecRow c 8 v)

/-- CMP (VOP 9 of Table 5.7). -/
def execVCmp (c : Nat) (v : VecField) (s : State) : Out := .next (s.vecRow c 9 v)

/-- CVT (VOP 10 of Table 5.7). -/
def execVCvt (c : Nat) (v : VecField) (s : State) : Out := .next (s.vecRow c 10 v)

/-- INTADD (VOP 11 of Table 5.7). -/
def execVIntAdd (c : Nat) (v : VecField) (s : State) : Out := .next (s.vecRow c 11 v)

/-- INTSUB (VOP 12 of Table 5.7). -/
def execVIntSub (c : Nat) (v : VecField) (s : State) : Out := .next (s.vecRow c 12 v)

/-- INTMUL (VOP 13 of Table 5.7). -/
def execVIntMul (c : Nat) (v : VecField) (s : State) : Out := .next (s.vecRow c 13 v)

/-- SHL (VOP 14 of Table 5.7). -/
def execVShl (c : Nat) (v : VecField) (s : State) : Out := .next (s.vecRow c 14 v)

/-- SHR (VOP 15 of Table 5.7). -/
def execVShr (c : Nat) (v : VecField) (s : State) : Out := .next (s.vecRow c 15 v)

/-- SAR (VOP 16 of Table 5.7). -/
def execVSar (c : Nat) (v : VecField) (s : State) : Out := .next (s.vecRow c 16 v)

/-- AND (VOP 17 of Table 5.7). -/
def execVAnd (c : Nat) (v : VecField) (s : State) : Out := .next (s.vecRow c 17 v)

/-- OR (VOP 18 of Table 5.7). -/
def execVOr (c : Nat) (v : VecField) (s : State) : Out := .next (s.vecRow c 18 v)

/-- XOR (VOP 19 of Table 5.7). -/
def execVXor (c : Nat) (v : VecField) (s : State) : Out := .next (s.vecRow c 19 v)

/-- POPCNT (VOP 20 of Table 5.7). -/
def execVPopcnt (c : Nat) (v : VecField) (s : State) : Out := .next (s.vecRow c 20 v)

/-- CLZ (VOP 21 of Table 5.7). -/
def execVClz (c : Nat) (v : VecField) (s : State) : Out := .next (s.vecRow c 21 v)

/-- DOT4 (VOP 22 of Table 5.7). -/
def execVDot4 (c : Nat) (v : VecField) (s : State) : Out := .next (s.vecRow c 22 v)

/-- EXP2 (VOP 23 of Table 5.7). -/
def execVExp2 (c : Nat) (v : VecField) (s : State) : Out := .next (s.vecRow c 23 v)

/-- LOG2 (VOP 24 of Table 5.7). -/
def execVLog2 (c : Nat) (v : VecField) (s : State) : Out := .next (s.vecRow c 24 v)

/-- RCP (VOP 25 of Table 5.7). -/
def execVRcp (c : Nat) (v : VecField) (s : State) : Out := .next (s.vecRow c 25 v)

/-- RSQRT (VOP 26 of Table 5.7). -/
def execVRsqrt (c : Nat) (v : VecField) (s : State) : Out := .next (s.vecRow c 26 v)

/-- SUMREDUCE (VOP 27 of Table 5.7). -/
def execVSumReduce (c : Nat) (v : VecField) (s : State) : Out := .next (s.vecRow c 27 v)

/-- MAXREDUCE (VOP 28 of Table 5.7). -/
def execVMaxReduce (c : Nat) (v : VecField) (s : State) : Out := .next (s.vecRow c 28 v)

/-- MINREDUCE (VOP 29 of Table 5.7). -/
def execVMinReduce (c : Nat) (v : VecField) (s : State) : Out := .next (s.vecRow c 29 v)

/-- PERMUTE (VOP 30 of Table 5.7). -/
def execVPermute (c : Nat) (v : VecField) (s : State) : Out := .next (s.vecRow c 30 v)

/-- BROADCAST (VOP 31 of Table 5.7). -/
def execVBroadcast (c : Nat) (v : VecField) (s : State) : Out := .next (s.vecRow c 31 v)

/-- LD (VOP 32 of Table 5.7). -/
def execVLd (c : Nat) (v : VecField) (s : State) : Out := .next (s.vecRow c 32 v)

/-- ST (VOP 33 of Table 5.7). -/
def execVSt (c : Nat) (v : VecField) (s : State) : Out := .next (s.vecRow c 33 v)

/-- RAND (VOP 34 of Table 5.7). -/
def execVRand (c : Nat) (v : VecField) (s : State) : Out := .next (s.vecRow c 34 v)

/-- SETBASE (VOP 35 of Table 5.7). -/
def execVSetbase (c : Nat) (v : VecField) (s : State) : Out := .next (s.vecRow c 35 v)

/-- PSET (VOP 36 of Table 5.7). -/
def execVPset (c : Nat) (v : VecField) (s : State) : Out := .next (s.vecRow c 36 v)

/-- XRECV (VOP 37 of Table 5.7). -/
def execVXrecv (c : Nat) (v : VecField) (s : State) : Out := .next (s.vecRow c 37 v)

end Sys2Proof.Machine
end

