-- ==== Sys2Proof/Machine/Units.lean ====
section
/-! DEFINITION. The other units of a frond: matrix (R80 to R82), merge (R84), hash probe (R85, R86), bin (R87),
pool-pointer (R28, R88) and the clump exchange (R67). -/

namespace Sys2Proof.Machine

/-! ### The matrix unit -/

/-- A format of MMA and BLOAD (Table 5.6): its VFMT code (8 for MXINT8) and whether it is an MX format. -/
def matFmt (code : Nat) : Nat × Bool :=
  match code with
  | 0 => (2, false) | 1 => (1, false) | 2 => (3, false) | 3 => (4, false) | 4 => (3, true) | 5 => (4, true)
  | 6 => (5, true) | 7 => (6, true) | 8 => (7, true) | _ => (8, true)

/-- Element width in bits. -/
def matWidth (code : Nat) : Nat := widthOf (matFmt code).1

/-- Operand pairs that the matrix unit accepts (R81). -/
def matPair (a b : Nat) : Bool :=
  (a = 0 && b = 0) || (a = 1 && b = 1) || ((a = 2 || a = 3) && (b = 2 || b = 3)) || (4 ≤ a && 4 ≤ b)

/-- K_c of a pair (R80). -/
def matK (a b : Nat) : Nat := if a ≤ 1 then 16 else if a = 8 ∧ b = 8 then 64 else 32

/-- The value of an element: MXINT8 is the integer times 2^-6. -/
def matVal (code bits : Nat) : FVal :=
  let x := valOfCode (matFmt code).1 bits
  if code = 9 then x.scaleBy (-6) else x

/-- Elements of width `w` of a byte list, element i at bits [w·i + w − 1 : w·i] (R69). -/
def elemsOf (w n : Nat) (bs : List Byte) : List Nat :=
  let v := leNat bs
  (List.range n).map fun i => bitsOf v (w * i) w

/-- Element (k, n) of operand B. DESIGN CHOICE (entry 71): its elements stand in the store in rows of 32 for plain formats and in
column blocks of 32 for MX formats (R69), and its scale bytes at the offset divided by 4w from the neighbouring base. -/
def matB (code : Nat) (bs : List Byte) (k n : Nat) : Nat :=
  let w := matWidth code
  let i := if (matFmt code).2 then (k / 32 * 32 + n) * 32 + k % 32 else k * 32 + n
  let first := w * i / 8
  bitsOf (leNat ((bs.drop first).take 2)) (w * i % 8) w

/-- The exact sum of a list of values: a NaN where one stands, signaling where one is, or where infinities of opposite sign
meet (R82). -/
def sumVals (l : List FVal) : FVal :=
  if l.any FVal.isNan then .nan (l.contains (.nan true))
  else l.foldl (fun acc x =>
    match acc, x with
    | .inf a, .inf b => if a = b then .inf a else .nan true
    | .fin n1 m1 e1, .fin n2 m2 e2 => let (n, m, e) := addFin n1 m1 e1 n2 m2 e2; .fin n m e
    | .fin .., y => y
    | y, _ => y) (.fin false 0 0)

/-- The exact product of two elements; a NaN is signaling where an operand is, or for ∞ × 0. -/
def matProd (x y : FVal) : FVal :=
  match mulV x y with
  | .nan s => .nan (s || sigFlag x ≠ 0 || sigFlag y ≠ 0)
  | p => p

/-- One accumulator after one row (R80, R82): the exact sum rounded once by RNE, with NV where it is an invalid operation of
IEEE 754-2019, and OF, UF and NX (R89). `sa` and `sb` are the scale bytes of each K-block, for MX operands. -/
def matAcc (fa fb kc : Nat) (acc : FVal) (a b : List Nat) (sa sb : List Nat) : Flagged Nat :=
  let mx := (matFmt fa).2
  let prods := (List.zip a b).map fun p => matProd (matVal fa p.1) (matVal fb p.2)
  let parts := if mx then
      (List.range (kc / 32)).map fun j =>
        let x := sa.getD j 0
        let y := sb.getD j 0
        if x = 255 ∨ y = 255 then FVal.nan false
        else (sumVals ((prods.drop (32 * j)).take 32)).scaleBy ((x : Int) + y - 254)
    else prods
  match sumVals (acc :: parts) with
  | .nan s => ⟨fp32.qnan, if s then flagNV else 0⟩
  | .inf n => clean (fp32.infCode n)
  | .fin n m e => fp32.round 0 .exact 0 n m e

/-- An accumulator row. -/
def Frond.accRow (x : Frond) (r : Nat) : List (BitVec 32) := mgetD x.acc r (List.replicate 32 0)

/-- Where an access of `n` bytes begins: at a multiple of the largest power of two that divides `n`, which for one of a power
of two is its size (R62). -/
def alignLow (a n : Nat) : Nat := alignTo a (Nat.gcd n 256)

/-- MMA in one frond. Accumulators take each row's result in issue order. DESIGN CHOICE (entry 71): what an MMA or MREAD of the same
row sees within the latency of 8 cycles is not stated; the result stands in the row at once, so such an access sees it. -/
def State.mmaFrond (s : State) (f : Nat) (u : UnitField) : State :=
  let x := s.frond f
  let row := bitsOf u.uarg 0 6
  let fa := bitsOf u.uarg 6 4
  let fb := x.bfmt
  let zero := bitsOf u.uarg 10 1 = 1
  if !matPair fa fb then
    (s.setFrond f { x with acc := mset x.acc row (List.replicate 32 (BitVec.ofNat 32 fp32.qnan)) }).frondFlags f flagNV
  else
    let kc := matK fa fb
    let w := matWidth fa
    let n := kc * w / 8
    let a0 := alignLow (x.addr u.ubase u.uoff) n
    let a := elemsOf w kc (x.read a0 n)
    let mx := (matFmt fa).2
    let sc := alignLow (x.addr (u.ubase ^^^ 1) (u.uoff / (4 * w))) (kc / 32)
    let sa := (x.read sc (kc / 32)).map (·.toNat)
    let old := x.accRow row
    let bs := if fb = 8 ∧ kc = 32 then x.bscale.drop 64 else x.bscale
    let r := (List.range 32).map fun n =>
      let acc := if zero then FVal.fin false 0 0 else fp32.decode ((old.getD n 0).toNat)
      let b := (List.range kc).map fun k => matB fb x.bbuf k n
      let sb := (List.range (kc / 32)).map fun j => (bs.getD (32 * j + n) 0).toNat
      matAcc fa fb kc acc a b sa sb
    let s := s.setFrond f { x with acc := mset x.acc row (r.map fun y => BitVec.ofNat 32 y.val) }
    (s.frondFlags f (orFlags (r.map (·.flags)))).looks f ((a0, n) :: if mx then [(sc, kc / 32)] else [])

/-- MREAD in one frond: the row to the store after 8 cycles, and cleared when the field says so. -/
def State.mreadFrond (s : State) (f : Nat) (u : UnitField) : State :=
  let x := s.frond f
  let row := bitsOf u.uarg 0 6
  let bs := (x.accRow row).flatMap fun w => leBytes 4 w.toNat
  let s := if bitsOf u.uarg 6 1 = 1 then s.setFrond f { x with acc := mdel x.acc row } else s
  s.after 9 false (.store f (alignTo (x.addr u.ubase u.uoff) 128) bs)

/-- Bytes of operand B of a format: the most that any pair takes (R80). -/
def matBBytes (code : Nat) : Nat := (if code = 8 then 64 else if code ≤ 1 then 16 else 32) * 32 * matWidth code / 8

/-- BLOAD in one frond: the buffer becomes active at the end of its 4-cycle load. An MXFP4 block has 64 scale bytes paired with
MXFP4 and 32 with another format (R80), so 96 are taken for it: the 64 of the first pair, then the 32 of the second, each from
the address that an access of its size has (R62). -/
def State.bloadFrond (s : State) (f : Nat) (u : UnitField) : State :=
  let x := s.frond f
  let code := bitsOf u.uarg 0 4
  let n := matBBytes code
  let a := alignLow (x.addr u.ubase u.uoff) n
  let sc := fun (k : Nat) => (alignLow (x.addr (u.ubase ^^^ 1) (u.uoff / (4 * matWidth code))) k, k)
  let scales := if !(matFmt code).2 then [] else if code = 8 then [sc 64, sc 32] else [sc 32]
  (s.looks f ((a, n) :: scales)).after 4 false (.bbuf f code (x.read a n) (scales.flatMap fun e => x.read e.1 e.2))

/-! ### Descriptors and lists

An access ignores the address bits below its size (R62): a list of keys, pointers or entries is taken as accesses of 8 bytes,
a table or a key with its value as accesses of 16 bytes, and a count word as one of 4 bytes (DEDUCED, entry 60). -/

/-- Where the descriptor of a unit operation stands. -/
def Frond.descAt (x : Frond) (u : UnitField) : Nat := alignTo (x.addr u.ubase u.uoff) 64

/-- Field `k` of the 64-byte descriptor of a unit operation at UBASE + UOFF. -/
def Frond.desc (x : Frond) (uop : Nat) (u : UnitField) (k : Nat) : Nat :=
  Config.descField uop k (x.read (x.descAt u) 64)

/-- `n` little-endian values of `w` bytes in a frond store. -/
def Frond.words (x : Frond) (a w n : Nat) : List Nat := (List.range n).map fun k => leNat (x.read (alignTo a w + w * k) w)

/-- A list of 8-byte values goes to a store after `lat` cycles. -/
def State.listOut (s : State) (f lat a : Nat) (l : List Nat) : State :=
  s.after lat false (.store f (alignTo a 8) (l.flatMap (leBytes 8)))

/-- A count word goes to a store after `lat` cycles. -/
def State.wordOut (s : State) (f lat a v : Nat) : State := s.after lat false (.store f (alignTo a 4) (leBytes 4 v))

/-! ### The merge unit (R84) -/

/-- The keys of an input: a run of equal keys counts as one, and a key lower than the one before it in the list, skipped or
not, is skipped. The number tells how many were. -/
def cleanKeys (l : List Nat) : List Nat × Nat :=
  let r := l.foldl (fun (acc : List Nat × Option Nat × Nat) k =>
    match acc.2.1 with
    | none => ([k], some k, acc.2.2)
    | some p => if k < p then (acc.1, some k, acc.2.2 + 1) else if acc.1.contains k then (acc.1, some k, acc.2.2)
      else (acc.1 ++ [k], some k, acc.2.2)) ([], none, 0)
  (r.1, r.2.2)

/-- Insert a key in ascending order, once. -/
def insertKey (k : Nat) (l : List Nat) : List Nat :=
  match l with
  | [] => [k]
  | h :: t => if k < h then k :: h :: t else if k = h then h :: t else h :: insertKey k t

/-- Keys as a set: ascending, each once. -/
def keySetOf (l : List Nat) : List Nat := l.foldl (fun l k => insertKey k l) []

/-- INTERSECT, UNION or DIFFERENCE of two key lists, ascending and with set semantics, also where a list was out of order
(entry 59). -/
def mergeKeys (op : Nat) (a b : List Nat) : List Nat :=
  match op with
  | 0 => (keySetOf a).filter b.contains
  | 1 => keySetOf (a ++ b)
  | _ => (keySetOf a).filter fun k => !b.contains k

/-- MERGE in one frond. Descriptor fields: 0, 1, 2 address, capacity and length of A; 3, 4, 5 of B; 6, 7 address and
capacity of the output; 8 the address of its length word, 9 that of the count of keys skipped. -/
def State.mergeFrond (s : State) (f : Nat) (u : UnitField) : State :=
  let x := s.frond f
  let d := x.desc 4 u
  let (a, ba) := cleanKeys (x.words (d 0) 8 (min (d 2) (d 1)))
  let (b, bb) := cleanKeys (x.words (d 3) 8 (min (d 5) (d 4)))
  let r := mergeKeys (bitsOf u.uarg 0 2) a b
  let out := r.take (d 7)
  let fl := (if ba + bb ≠ 0 then flagMergeOrder else 0) ||| (if d 7 < r.length then flagMergeTrunc else 0)
  let lat := ceilDiv (d 1 + d 4) 16 + 7
  let s := (s.frondFlags f fl).looks f
    [(x.descAt u, 64), (alignTo (d 0) 8, 8 * min (d 2) (d 1)), (alignTo (d 3) 8, 8 * min (d 5) (d 4))]
  ((s.listOut f lat (d 6) out).wordOut f lat (d 8) out.length).wordOut f lat (d 9) (ba + bb)

/-! ### The hash probe unit (R85, R86) -/

/-- The key that marks an empty entry. -/
def emptyKey : Nat := 2 ^ 64 - 1

/-- Candidate buckets of a key in a table of 2^b buckets. -/
def hashBuckets (b m1 m2 k : Nat) : Nat × Nat :=
  let h := fun (m : Nat) => k * (m ||| 1) % 2 ^ 64 / 2 ^ (64 - b)
  (h m1, if h m2 = h m1 then h m1 ^^^ 1 else h m2)

/-- Entry `i` of a table: four entries of 16 bytes to a bucket; the stash follows the buckets. -/
def tableEntry (x : Frond) (base i : Nat) : Nat × Nat :=
  let a := alignTo base 64 + 16 * i
  (leNat (x.read a 8), leNat (x.read (a + 8) 8))

/-- Places that a lookup searches, in order: bucket h1, bucket h2, the stash. -/
def searchOrder (b h1 h2 : Nat) : List Nat :=
  (List.range 4).map (4 * h1 + ·) ++ (List.range 4).map (4 * h2 + ·) ++ (List.range 8).map (4 * 2 ^ b + ·)

/-- Look one key up. -/
def hashFind (x : Frond) (base b m1 m2 k : Nat) : Option Nat :=
  if k = emptyKey then none
  else
    let (h1, h2) := hashBuckets b m1 m2 k
    (searchOrder b h1 h2).find? fun i => (tableEntry x base i).1 = k

/-- Ranges of a table that a search for a key reads: its two buckets and the stash. -/
def hashSpans (base b m1 m2 k : Nat) : List (Nat × Nat) :=
  let (h1, h2) := hashBuckets b m1 m2 k
  let t := alignTo base 64
  [(t + 64 * h1, 64), (t + 64 * h2, 64), (t + 64 * 2 ^ b, 128)]

/-- HLOOKUP in one frond: up to 8 keys. Descriptor fields: 0 key list, 1 number of keys, 2 value list, 3 hit word; 4 table
base, 5 b, 6 and 7 the multipliers. -/
def State.hlookupFrond (s : State) (f : Nat) (u : UnitField) : State :=
  let x := s.frond f
  let d := x.desc 5 u
  let keys := x.words (d 0) 8 (min 8 (d 1))
  let found := keys.map fun k => hashFind x (d 4) (d 5) (d 6) (d 7) k
  let vals := found.map fun r => match r with | some i => (tableEntry x (d 4) i).2 | none => 0
  let hits := (List.zip found (List.range 8)).foldl (fun n p => if p.1.isSome then n + 2 ^ p.2 else n) 0
  let s := s.looks f ((x.descAt u, 64) :: (alignTo (d 0) 8, 8 * min 8 (d 1)) :: keys.flatMap (hashSpans (d 4) (d 5) (d 6) (d 7)))
  (s.listOut f 7 (d 2) vals).wordOut f 7 (d 3) hits

/-- Displace entries, alternating buckets, at most `n` times (R86 step 3): the writes made, the entry left over, and the buckets
read, those of `bs` first. Which entry of a full bucket goes is not stated; it is a function of what R83 lets the call depend
on. -/
def displace (x : Frond) (base b m1 m2 n : Nat) (sig : List Nat) (e : Nat × Nat) (bucket : Nat) (ws : List (Nat × (Nat × Nat)))
    (bs : List Nat) : List (Nat × (Nat × Nat)) × Option (Nat × Nat) × List Nat :=
  match n with
  | 0 => (ws, some e, bs)
  | m + 1 =>
    let bs := bs ++ [bucket]
    let at_ := fun (i : Nat) => match ws.find? (fun w => w.1 = i) with | some w => w.2 | none => tableEntry x base i
    match ((List.range 4).map (4 * bucket + ·)).find? (fun i => (at_ i).1 = emptyKey) with
    | some i => ((i, e) :: ws, none, bs)
    | none =>
      let i := 4 * bucket + Config.callFree 5 (m :: sig) % 4
      let old := at_ i
      let (h1, h2) := hashBuckets b m1 m2 old.1
      displace x base b m1 m2 m sig old (if bucket = h1 then h2 else h1) ((i, e) :: ws) bs

/-- HINSERT in one frond: its writes apply together in the last of its 20 cycles, after that cycle's lookups have read (R63,
R86). Descriptor fields: 0 key and value; 1 the count word of entries left out; 4 to 7 as HLOOKUP. -/
def State.hinsertFrond (s : State) (f : Nat) (u : UnitField) : State :=
  let x := s.frond f
  let d := x.desc 6 u
  let kv := alignTo (d 0) 16
  let k := leNat (x.read kv 8)
  let v := leNat (x.read (kv + 8) 8)
  let base := d 4
  let s := s.looks f ((x.descAt u, 64) :: (kv, 16) :: hashSpans base (d 5) (d 6) (d 7) k)
  let put := fun (s : State) (i : Nat) (e : Nat × Nat) =>
    s.after 20 false (.store f (alignTo base 64 + 16 * i) (leBytes 8 e.1 ++ leBytes 8 e.2))
  if k = emptyKey then s.frondFlags f flagHashFull
  else
    match hashFind x base (d 5) (d 6) (d 7) k with
    | some i => put s i (k, v)
    | none =>
      let (h1, h2) := hashBuckets (d 5) (d 6) (d 7) k
      match ((List.range 4).map (4 * h1 + ·) ++ (List.range 4).map (4 * h2 + ·)).find? (fun i => (tableEntry x base i).1 = emptyKey) with
      | some i => put s i (k, v)
      | none =>
        let (ws, left, bs) := displace x base (d 5) (d 6) (d 7) 16 (f :: k :: v :: s.callSig) (k, v) h1 [] []
        let s := s.looks f (bs.map fun h => (alignTo base 64 + 64 * h, 64))
        let s := ws.reverse.foldl (fun s w => put s w.1 w.2) s
        match left with
        | none => s
        | some e =>
          match ((List.range 8).map (4 * 2 ^ (d 5) + ·)).find? (fun i => (tableEntry x base i).1 = emptyKey) with
          | some i => put s i e
          | none =>
            let c := alignTo (d 1) 4
            ((s.frondFlags f flagHashFull).look f c 4).wordOut f 20 c (leNat (x.read c 4) + 1)

/-! ### The bin unit (R87, Table 10.2) -/

/-- The bin of a device offset at a granularity. -/
def binOf (gran a : Nat) : Nat :=
  let p := pcOf a
  match gran with
  | 0 => stackOfPc p
  | 1 => p
  | 2 => 4 * p + bgOf a
  | _ => 64 * p + bankOf a

/-- Bins of a granularity. -/
def binCount (gran : Nat) : Nat := match gran with | 0 => 8 | 1 => 512 | 2 => 2048 | _ => 32768

/-- Entries placed in bins of capacity `cap` in input order; those that find their bin full go to the carry list. -/
def binEntries (gran cap : Nat) (l : List Nat) : NMap (List Nat) × List Nat :=
  l.foldl (fun (acc : NMap (List Nat) × List Nat) e =>
    let b := binOf gran (bitsOf e 0 40)
    let q := mgetD acc.1 b []
    if q.length < cap then (mset acc.1 b (q ++ [e]), acc.2) else (acc.1, acc.2 ++ [e])) ([], [])

/-- BIN in one frond. Descriptor fields: 0, 1, 2 address, capacity and length of the input; 3 address of the bins, 4 the
bin capacity; 5 the carry list, 6 its count word. -/
def State.binFrond (s : State) (f : Nat) (u : UnitField) : State :=
  let x := s.frond f
  let d := x.desc 7 u
  let cap := max 1 (min 4096 (d 4))
  let (bins, carry) := binEntries (bitsOf u.uarg 0 2) cap (x.words (d 0) 8 (min (d 2) (d 1)))
  let lat := ceilDiv (d 1) 16 + 6
  let s := s.frondFlags f (if carry = [] then 0 else flagBinCarry)
  let s := s.looks f [(x.descAt u, 64), (alignTo (d 0) 8, 8 * min (d 2) (d 1))]
  let s := bins.foldl (fun s b => s.listOut f lat (d 3 + 8 * cap * b.1) b.2) s
  (s.listOut f lat (d 5) carry).wordOut f lat (d 6) carry.length

/-! ### The pool-pointer unit (R28, R88) -/

/-- Device addresses of slot offset `o` of a bound slot. -/
def Bind.devAddr (b : Bind) (o : Nat) : Nat := b.base + b.off + (if b.rowLen = 0 then 0 else o / b.rowLen * b.stride + o % b.rowLen)

/-- The slot offset of device bytes `[a, a + n)` that lie wholly within a slot's range: within one row, or across rows that
follow each other without a gap. -/
def Bind.slotOffset (b : Bind) (a n : Nat) : Option Nat :=
  let st := b.base + b.off
  if b.rows = 0 ∨ a < st then none
  else
    let r := if b.rows = 1 ∨ b.stride = 0 then 0 else (a - st) / b.stride
    let o := a - st - r * (if b.rows = 1 then 0 else b.stride)
    let whole := b.stride = b.rowLen && a + n ≤ st + b.rows * b.rowLen
    if r < b.rows ∧ (o + n ≤ b.rowLen ∨ whole) then some (r * b.rowLen + o) else none

/-- Class of a pointer: 0 NULL, 1 INVALID, 2 REMOTE, 3 LOCAL with its slot and offset. -/
def State.classify (s : State) (binds : List Bind) (tenant size ptr : Nat) : Nat × Nat × Nat :=
  let tag := s.fld (R.XLT_TCFG_TAG.at (0x10 * tenant))
  if ptr = 0 then (0, 0, 0)
  else if bitsOf ptr 56 8 ≠ tag ∨ tag = 0 ∨ 255 < bitsOf ptr 44 12 ∨ bitsOf ptr 40 4 ≠ 0 then (1, 0, 0)
  else if bitsOf ptr 44 12 ≠ s.fld R.XLT_DEV_INDEX_DEV_INDEX then (2, 0, 0)
  else
    let hits := (List.zip binds (List.range binds.length)).filterMap fun p =>
      (p.1.slotOffset (bitsOf ptr 0 40) size).map fun o => (p.2, o)
    match hits with
    | [] => (1, 0, 0)
    | (i, o) :: _ => (3, i, o)

/-- PTR in one frond: pointers of up to 8. Descriptor fields: 0 the pointers, 1 their number, 2 the entries, 3 the list of
REMOTE and INVALID pointers, 4 its count word, 5 the element size. -/
def State.ptrFrond (s : State) (f : Nat) (u : UnitField) : State :=
  match s.runCall with
  | none => s
  | some (_, c) =>
    let x := s.frond f
    let d := x.desc 8 u
    let ptrs := x.words (d 0) 8 (min 8 (d 1))
    let cls := ptrs.map fun p => s.classify c.binds c.tenant (max 8 (min 4096 (d 5))) p
    let entries := cls.map fun k => k.1 + k.2.1 * 4 + k.2.2 * 2 ^ 10
    let others := (List.zip ptrs cls).filterMap fun p => if p.2.1 = 1 ∨ p.2.1 = 2 then some p.1 else none
    let fl := (if cls.any fun k => k.1 = 1 then flagPtrInvalid else 0) ||| (if cls.any fun k => k.1 = 2 then flagPtrRemote else 0)
    let s := (s.frondFlags f fl).looks f [(x.descAt u, 64), (alignTo (d 0) 8, 8 * min 8 (d 1))]
    ((s.listOut f 5 (d 2) entries).listOut f 5 (d 3) others).wordOut f 5 (d 4) others.length

/-! ### The clump exchange (R67) -/

/-- XCHG: the vector of each member of a clump reaches its receivers after 6 cycles; a disabled sender sends zeros. Where the
sender's vector comes from the spec does not say: the model takes 256 bytes of its store at UBASE + UOFF; a sender that the
plan does not declare sends zeros; and the arrival, which is neither a store nor a register, comes to disabled receivers too
(DESIGN CHOICE, entry 63). -/
def State.xchgClump (s : State) (c : Nat) (u : UnitField) : State :=
  let k := bitsOf u.uarg 1 3
  let rotate := bitsOf u.uarg 0 1 = 1
  (s.clumpFronds c).foldl (fun s f =>
    let i := f % 8
    let j := if rotate then (i + 8 - k) % 8 else k
    let g := 8 * c + j
    let x := s.frond g
    let a := alignTo (x.addr u.ubase u.uoff) 256
    if u.en.getLsbD j ∧ g < s.declared then (s.look g a 256).after 6 false (.arrive f (x.read a 256))
    else s.after 6 false (.arrive f (List.replicate 256 0))) s

/-! ### Issue -/

/-- A unit opcode of Table 5.5 issued by clump `c`. -/
def State.unitIssue (s : State) (c uop : Nat) (u : UnitField) : State :=
  let each := fun (g : State → Nat → State) => (s.enabledFronds c u.en).foldl g s
  match uop with
  | 1 => each fun s f => s.mmaFrond f u
  | 2 => each fun s f => s.mreadFrond f u
  | 3 => each fun s f => s.bloadFrond f u
  | 4 => each fun s f => s.mergeFrond f u
  | 5 => each fun s f => s.hlookupFrond f u
  | 6 => each fun s f => s.hinsertFrond f u
  | 7 => each fun s f => s.binFrond f u
  | 8 => each fun s f => s.ptrFrond f u
  | 9 => s.xchgClump c u
  | _ => s

/-- A unit field issued in the call cycle under way, when a call runs. -/
def State.unitRow (s : State) (c uop : Nat) (u : UnitField) : State :=
  if s.seq.run.isSome then s.within fun s => s.unitIssue (c % 8) uop u else s

/-- MMA. -/
def execMma (c : Nat) (u : UnitField) (s : State) : Out := .next (s.unitRow c 1 u)

/-- MREAD. -/
def execMread (c : Nat) (u : UnitField) (s : State) : Out := .next (s.unitRow c 2 u)

/-- BLOAD. -/
def execBload (c : Nat) (u : UnitField) (s : State) : Out := .next (s.unitRow c 3 u)

/-- MERGE. -/
def execMerge (c : Nat) (u : UnitField) (s : State) : Out := .next (s.unitRow c 4 u)

/-- HLOOKUP. -/
def execHlookup (c : Nat) (u : UnitField) (s : State) : Out := .next (s.unitRow c 5 u)

/-- HINSERT. -/
def execHinsert (c : Nat) (u : UnitField) (s : State) : Out := .next (s.unitRow c 6 u)

/-- BIN. -/
def execBin (c : Nat) (u : UnitField) (s : State) : Out := .next (s.unitRow c 7 u)

/-- PTR. -/
def execPtr (c : Nat) (u : UnitField) (s : State) : Out := .next (s.unitRow c 8 u)

/-- XCHG. -/
def execXchg (c : Nat) (u : UnitField) (s : State) : Out := .next (s.unitRow c 9 u)

end Sys2Proof.Machine
end

