-- ==== Sys2Proof/Machine/Mover.lean ====
section
/-! DEFINITION. The slab movers (R104, R105, Table 5.8): places of a move, address registers, and the eight mover
operations. -/

namespace Sys2Proof.Machine

/-! ### Places (Table 5.4, DKIND) -/

/-- The fronds that a destination kind names, in logical order. -/
def State.placeFronds (s : State) (kind sel : Nat) : List Nat :=
  match kind with
  | 0 | 4 => s.clumpFronds (sel % 8)
  | 1 | 5 => List.range s.declared
  | 3 => [sel]
  | _ => []

/-- A split kind divides the bytes evenly over its fronds. -/
def splitKind (kind : Nat) : Bool := kind = 0 || kind = 1

/-- Bytes that each place of a move of `n` bytes holds. -/
def shareOf (kind count n : Nat) : Nat := if splitKind kind then (if count = 0 then 0 else n / count) else n

/-- Addresses of the places of a mover field, `row` rows of `n` bytes on: frond addresses in order, each with the low bits
ignored that its share leaves no room for (R62), or one slab address. -/
def State.placeAddrs (s : State) (f : MoverField) (sar : Nat → Nat) (row n : Nat) : List Nat :=
  if f.dkind = 2 then [(sar (f.dbase % 16) + f.doff + row * n) % 2 ^ 29]
  else
    let fs := s.placeFronds f.dkind f.dsel
    let sh := shareOf f.dkind fs.length n
    fs.map fun g => alignLow ((s.frond g).addr f.dbase (f.doff % 2 ^ 21) + row * sh) sh

/-- Bytes `[off, off + bs.length)` of a move of `len` bytes reach their places: frond writes and slab writes. -/
def State.placeBytes (s : State) (kind sel : Nat) (addrs : List Nat) (len off : Nat) (bs : List Byte) : List Effect :=
  if kind = 2 then [.slab (addrs.headD 0 + off) bs]
  else
    let fs := s.placeFronds kind sel
    let sh := shareOf kind fs.length len
    if splitKind kind then
      (List.zip fs (List.zip addrs (List.range fs.length))).filterMap fun p =>
        let lo := max off (p.2.2 * sh)
        let hi := min (off + bs.length) ((p.2.2 + 1) * sh)
        if lo < hi then some (.store p.1 (p.2.1 + (lo - p.2.2 * sh)) ((bs.drop (lo - off)).take (hi - lo))) else none
    else (List.zip fs addrs).map fun p => .store p.1 (p.2 + off) bs

/-- The reads of a move that leaves the stores. -/
def State.lookPlace (s : State) (kind sel : Nat) (addrs : List Nat) (len : Nat) : State :=
  if kind = 2 then s.lookSlab (addrs.headD 0) len
  else
    let fs := s.placeFronds kind sel
    (List.zip fs addrs).foldl (fun s p => s.look p.1 p.2 (shareOf kind fs.length len)) s

/-- The bytes of a move that leaves the stores: the shares in logical order. What a broadcast kind gives as a source is
not stated; it is a function of what R83 lets the call depend on. -/
def State.gatherPlace (s : State) (kind sel : Nat) (addrs : List Nat) (len : Nat) : List Byte :=
  if kind = 2 then s.slabRead (addrs.headD 0) len
  else
    let fs := s.placeFronds kind sel
    let sh := shareOf kind fs.length len
    if splitKind kind then fitBytes len ((List.zip fs addrs).flatMap fun p => (s.frond p.1).read p.2 sh)
    else if kind = 3 then (List.zip fs addrs).flatMap fun p => (s.frond p.1).read p.2 len
    else
      let sig := kind :: sel :: addrs ++ s.callSig
      (List.range len).map fun k => BitVec.ofNat 8 (Config.callFree 8 (k :: sig))

/-! ### Address registers -/

/-- Key of register `r` of mover `m`. -/
def aregKey (m r : Nat) : Nat := 16 * m + r

/-- A register of the set that a field uses. -/
def Run.areg (r : Run) (read slab : Bool) (m k : Nat) : Nat :=
  mgetD (match read, slab with | true, false => r.arR | true, true => r.sarR | false, false => r.arM | false, true => r.sarM)
    (aregKey m k) 0

/-- Set a register of a set. -/
def Run.setAreg (r : Run) (read slab : Bool) (m k v : Nat) : Run :=
  let i := aregKey m k
  match read, slab with
  | true, false => { r with arR := mset r.arR i v }
  | true, true => { r with sarR := mset r.sarR i v }
  | false, false => { r with arM := mset r.arM i v }
  | false, true => { r with sarM := mset r.sarM i v }

/-- Advance the address register that a field used by the length moved, when INC is 1. -/
def State.incAreg (s : State) (f : MoverField) (read slab : Bool) (m n : Nat) : State :=
  if f.inc then s.runUp fun r => r.setAreg read slab m f.areg (r.areg read slab m f.areg + n) else s

/-- The slot that a field names. -/
def CallRec.slot (c : CallRec) (k : Nat) : Option Bind := c.binds[k]?

/-- The bytes `[o, o + n)` lie within the slot and within one of its rows (R105). -/
def Bind.inRow (b : Bind) (o n : Nat) : Bool :=
  b.rows ≠ 0 && o + n ≤ b.rowLen * b.rows && b.rowLen ≠ 0 && o / b.rowLen = (o + n - 1) / b.rowLen

/-- The granules of device bytes `[a, a + n)`: of each its number, where in it the bytes begin, and which byte of them that is. -/
def pieces (a n : Nat) : List (Nat × Nat × Nat) := (granulesOf a n).map fun g => (g, a - 64 * g, 64 * g - a)

/-- Queue the planned reads of a row: device bytes at `a` to the places `addrs`. -/
def State.queueReads (s : State) (f : MoverField) (addrs : List Nat) (a n : Nat) : State :=
  (pieces a n).foldl (fun s p => s.planEnter ⟨p.1, false, [], f.tag, 0, f.dkind, f.dsel, addrs, n, p.2.2, p.2.1⟩) s

/-- Queue the planned writes of a row. -/
def State.queueWrites (s : State) (f : MoverField) (a : Nat) (bs : List Byte) : State :=
  (pieces a bs.length).foldl (fun s p =>
    s.planEnter ⟨p.1, true, (bs.drop p.2.2).take (64 - p.2.1), f.tag, 0, 0, 0, [], bs.length, p.2.2, p.2.1⟩) s

/-! ### The operations of Table 5.8 -/

/-- RD: LEN bytes from the slot at AREG to the stores, in planned reads. -/
def State.moverRd (s : State) (m : Nat) (f : MoverField) : State :=
  match s.runCall with
  | none => s
  | some (r, c) =>
    let o := r.areg true false m f.areg
    match c.slot f.slot with
    | none => s.boundsFault f.slot
    | some b =>
      if !b.inRow o f.bytes then s.boundsFault f.slot
      else
        let addrs := s.placeAddrs f (fun k => r.areg true true m k) 0 f.bytes
        (s.incAreg f true false m f.bytes).queueReads f addrs (b.devAddr o) f.bytes

/-- WR: LEN bytes from the stores to the slot at AREG, in planned writes. -/
def State.moverWr (s : State) (m : Nat) (f : MoverField) : State :=
  match s.runCall with
  | none => s
  | some (r, c) =>
    let o := r.areg false false m f.areg
    match c.slot f.slot with
    | none => s.boundsFault f.slot
    | some b =>
      if !b.inRow o f.bytes then s.boundsFault f.slot
      else
        let addrs := s.placeAddrs f (fun k => r.areg false true m k) 0 f.bytes
        let s := s.lookPlace f.dkind f.dsel addrs f.bytes
        let bs := s.gatherPlace f.dkind f.dsel addrs f.bytes
        (s.incAreg f false false m f.bytes).queueWrites f (b.devAddr o) bs

/-- An entry of a GATHER or SCATTER list: its device offset, none when it is null (R87, R104). -/
def listEntry (v : Nat) : Option Nat := if bitsOf v 40 24 = 0xFFFFFF then none else some (bitsOf v 0 40)

/-- The entry names a row of `n` bytes that lies wholly within one row of the slot, at a multiple of 64 (R105). -/
def Bind.rowAt (b : Bind) (a n : Nat) : Bool :=
  a % 64 = 0 && (match b.slotOffset a n with | some o => b.inRow o n | none => false)

/-- One entry skipped (R105). -/
def State.skipEntry (s : State) : State :=
  (s.count R.SLB_SKIPS_SKIPS).runUp fun r => { r with skips := r.skips + 1 }

/-- Zeros for a GATHER row that moves nothing. -/
def State.zeroRow (s : State) (f : MoverField) (addrs : List Nat) (n : Nat) : State :=
  (s.placeBytes f.dkind f.dsel addrs n 0 (List.replicate n 0)).foldl (fun s e => s.after 1 true e) s

/-- The row of `n` bytes at device offset `a` that a list entry names lies wholly in one row of slot `k`, at a multiple of 64
(R105); of a slot that the call does not have, no row does. -/
def CallRec.rowIn (c : CallRec) (k a n : Nat) : Bool :=
  match c.slot k with
  | none => false
  | some b => b.rowAt a n

/-- Entry `p.1` of a GATHER list, for row `p.2` of the destination: its planned reads; zeros where it is null, or skipped. Once
the call has ended nothing more is queued. -/
def State.gatherRow (s : State) (r : Run) (c : CallRec) (m : Nat) (f : MoverField) (p : Nat × Nat) : State :=
  let addrs := s.placeAddrs f (fun k => r.areg true true m k) p.2 f.bytes
  match listEntry p.1 with
  | none => s.zeroRow f addrs f.bytes
  | some a =>
    if s.seq.run.isNone then s
    else if c.rowIn f.slot a f.bytes then s.queueReads f addrs a f.bytes
    else s.skipEntry.zeroRow f addrs f.bytes

/-- The entries of the list at `la`, each with its number. -/
def State.listAt (s : State) (f : MoverField) (la : Nat) : List (Nat × Nat) :=
  (List.range (f.rows + 1)).map fun k => (leNat (s.slabRead (la + 8 * k) 8), k)

/-- GATHER: the rows that a slab list names to consecutive rows at the destination. -/
def State.moverGather (s : State) (m : Nat) (f : MoverField) : State :=
  match s.runCall with
  | none => s
  | some (r, c) =>
    let la := r.areg true true m f.areg
    let n := f.rows + 1
    let s := s.lookSlab la (8 * n)
    ((s.listAt f la).foldl (fun s p => s.gatherRow r c m f p) s).incAreg f true true m (n * f.bytes)

/-- Entry `p.1` of a SCATTER list, for row `p.2` of the source: its planned writes; nothing where it is null, or skipped. -/
def State.scatterRow (s : State) (r : Run) (c : CallRec) (m : Nat) (f : MoverField) (p : Nat × Nat) : State :=
  let addrs := s.placeAddrs f (fun k => r.areg false true m k) p.2 f.bytes
  match listEntry p.1 with
  | none => s
  | some a =>
    if s.seq.run.isNone then s
    else if c.rowIn f.slot a f.bytes then
      let s := s.lookPlace f.dkind f.dsel addrs f.bytes
      s.queueWrites f a (s.gatherPlace f.dkind f.dsel addrs f.bytes)
    else s.skipEntry

/-- SCATTER: consecutive rows of the stores to the rows that a slab list names. -/
def State.moverScatter (s : State) (m : Nat) (f : MoverField) : State :=
  match s.runCall with
  | none => s
  | some (r, c) =>
    let la := r.areg false true m f.areg
    let n := f.rows + 1
    let s := s.lookSlab la (8 * n)
    ((s.listAt f la).foldl (fun s p => s.scatterRow r c m f p) s).incAreg f false true m (n * f.bytes)

/-- Effects of a move that lands `lat` cycles from now, with its tag. -/
def State.landMove (s : State) (lat tag : Nat) (es : List Effect) : State :=
  let s := es.foldl (fun s e => s.after (lat + 1) true e) s
  if tag = 0 then s else (s.tagUp tag).after (lat + 1) true (.tag tag)

/-- The cushion lines that a CRD reads. Of a dirty line lost to a double-bit error the call reads zeros, and completes with
POISONED (R237). -/
def State.lookCush (s : State) (a n : Nat) : State :=
  (granulesOf a n).foldl (fun s g =>
    let t := s.cushLook g
    if metaPoison (t.gmeta g) && !metaPoison (s.gmeta g) then t.runUp fun r => { r with poisoned := true } else t) s

/-- CRD: LEN bytes of a CUSH slot through the planned cushion port, 40 cycles. -/
def State.moverCrd (s : State) (m : Nat) (f : MoverField) : State :=
  match s.runCall with
  | none => s
  | some (r, c) =>
    let o := r.areg false false m f.areg
    match c.slot f.slot with
    | none => s.boundsFault f.slot
    | some b =>
      if !b.inRow o f.bytes then s.boundsFault f.slot
      else
        let addrs := s.placeAddrs f (fun k => r.areg false true m k) 0 f.bytes
        let s := s.lookCush (b.devAddr o) f.bytes
        let bs := s.ecc.mem.read (b.devAddr o) f.bytes
        (s.incAreg f false false m f.bytes).landMove 40 f.tag (s.placeBytes f.dkind f.dsel addrs f.bytes 0 bs)

/-- S2F: LEN bytes from the slab store to the frond stores, 24 cycles. -/
def State.moverS2f (s : State) (m : Nat) (f : MoverField) : State :=
  match s.runCall with
  | none => s
  | some (r, _) =>
    let addrs := s.placeAddrs f (fun k => r.areg false true m k) 0 f.bytes
    let s := s.lookSlab (r.areg false true m f.areg + f.doff) f.bytes
    let bs := s.slabRead (r.areg false true m f.areg + f.doff) f.bytes
    (s.incAreg f false true m f.bytes).landMove 24 f.tag (s.placeBytes f.dkind f.dsel addrs f.bytes 0 bs)

/-- F2S: LEN bytes from the frond stores to the slab store, 24 cycles. -/
def State.moverF2s (s : State) (m : Nat) (f : MoverField) : State :=
  match s.runCall with
  | none => s
  | some (r, _) =>
    let addrs := s.placeAddrs f (fun k => r.areg false true m k) 0 f.bytes
    let s := s.lookPlace f.dkind f.dsel addrs f.bytes
    let bs := s.gatherPlace f.dkind f.dsel addrs f.bytes
    (s.incAreg f false true m f.bytes).landMove 24 f.tag [.slab (r.areg false true m f.areg + f.doff) bs]

/-- SETAREG: an address register takes a call scalar: a stack offset, or a slab address when DKIND is 2. -/
def State.moverSetareg (s : State) (m : Nat) (f : MoverField) : State :=
  match s.runCall with
  | none => s
  | some (_, c) =>
    let v := (c.scalars.getD (bitsOf f.doff 0 4) 0).toNat
    s.runUp fun r => r.setAreg f.readSet (f.dkind = 2) m f.areg v

/-- A mover operation by its MOP. -/
def State.moverIssue (s : State) (m mop : Nat) (f : MoverField) : State :=
  if s.seq.run.isNone then s
  else match mop with
    | 1 => s.moverRd m f
    | 2 => s.moverWr m f
    | 3 => s.moverGather m f
    | 4 => s.moverScatter m f
    | 5 => s.moverCrd m f
    | 6 => s.moverS2f m f
    | 7 => s.moverF2s m f
    | 8 => s.moverSetareg m f
    | _ => s

/-- A mover field issued in the call cycle under way, when a call runs. -/
def State.moverRow (s : State) (m mop : Nat) (f : MoverField) : State := s.within fun s => s.moverIssue (m % 4) mop f

/-- RD. -/
def execRd (m : Nat) (f : MoverField) (s : State) : Out := .next (s.moverRow m 1 f)

/-- WR. -/
def execWr (m : Nat) (f : MoverField) (s : State) : Out := .next (s.moverRow m 2 f)

/-- GATHER. -/
def execGather (m : Nat) (f : MoverField) (s : State) : Out := .next (s.moverRow m 3 f)

/-- SCATTER. -/
def execScatter (m : Nat) (f : MoverField) (s : State) : Out := .next (s.moverRow m 4 f)

/-- CRD. -/
def execCrd (m : Nat) (f : MoverField) (s : State) : Out := .next (s.moverRow m 5 f)

/-- S2F. -/
def execS2f (m : Nat) (f : MoverField) (s : State) : Out := .next (s.moverRow m 6 f)

/-- F2S. -/
def execF2s (m : Nat) (f : MoverField) (s : State) : Out := .next (s.moverRow m 7 f)

/-- SETAREG. -/
def execSetareg (m : Nat) (f : MoverField) (s : State) : Out := .next (s.moverRow m 8 f)

end Sys2Proof.Machine
end

