-- ==== Sys2Proof/Machine/Sequencer.lean ====
section
/-! DEFINITION. The sequencer (R97 to R103): the start of a call (R115), the issue of words by the two pointers, loops
and count words, sync slots, and a call's completion (R116, R118). -/

namespace Sys2Proof.Machine

/-! ### Count words (R98) -/

/-- Bytes of a frond store as they stood at the start of the call cycle 12 before the running one. -/
def State.pastRead (s : State) (r : Run) (f a n : Nat) : List Byte :=
  let x := (r.undo.filter fun u => u.2.1 = f && r.cyc < u.1 + 12).foldl (fun (x : Frond) u => x.write u.2.2.1 u.2.2.2) (s.frond f)
  x.read a n

/-- The count word of a control field: one frond's, or the sum over the declared fronds modulo 2^32. -/
def State.countWord (s : State) (r : Run) (c : Control) : Nat :=
  let one := fun (f : Nat) => leNat (s.pastRead r f (alignTo c.caddr 4) 4)
  if c.scope = 64 then ((List.range s.declared).map one).sum % 2 ^ 32 else one c.scope

/-- The store reads of a count word. -/
def State.lookCount (s : State) (c : Control) : State :=
  (if c.scope = 64 then List.range s.declared else [c.scope]).foldl (fun s f => s.look f (alignTo c.caddr 4) 4) s

/-! ### Pointers and loops (R97 to R100) -/

/-- The running iteration is padded: some open loop has no live iteration left. -/
def Ptr.padded (p : Ptr) : Bool := p.loops.any fun l => l.live = 0

/-- The pointer after a word whose loop, when it is a LOOP, has `live` live iterations, and whose count word, when it
ends a while loop, is `count`. -/
def Ptr.advance (p : Ptr) (c : Control) (live count : Nat) : Ptr :=
  match c.op with
  | 0 => { p with word := p.word + 1 }
  | 1 => { p with word := p.word + 1, loops := ⟨p.word + 1, c.count, live, c.mode = 2, c.binpass⟩ :: p.loops }
  | 2 =>
    match p.loops with
    | [] => { p with word := p.word + 1 }
    | l :: t =>
      let live := if l.while_ ∧ count = 0 then 0 else l.live - 1
      if l.left ≤ 1 then { p with word := p.word + 1, loops := t }
      else { p with word := l.start, loops := { l with left := l.left - 1, live := live } :: t }
  | _ => { p with fin := true }

/-! ### The fields of a word -/

/-- The read-class mover fields of a word, issued by the read pointer (R100). -/
def State.readFields (s : State) (w : Nat) : State :=
  (List.range 4).foldl (fun s m =>
    let x := moverBits w m
    if readClass (mopOf x) (moverOf x) then s.moverIssue m (mopOf x) (moverOf x) else s) s

/-- A sync-slot operation issues (R103): refused objects end the call in this cycle; else the operand is taken and the
result is due 96 call cycles later. -/
def State.syncIssue (s : State) (x : SyncSlot) : State :=
  match s.runCall with
  | none => s
  | some (r, c) =>
    if x.sop = 0 then s
    else if !s.ownsObj c.tenant x.obj then s.endRun Status.callFault 9 0
    else if s.par.formed ∧ !s.holds (setOfObj x.obj) then s.endRun Status.callFault 15 0
    else
      let a := (s.frond x.frond).base.getD x.breg 0 / 64 * 64
      let bs := (s.frond x.frond).read a 64
      let words := (List.range 8).map fun k => BitVec.ofNat 64 (leNat ((bs.drop (8 * k)).take 8))
      let (key, s) := (s.look x.frond a 64).newKey
      s.runUp fun q => { q with ops := q.ops ++ [⟨key, x.obj, x.sop, x.frond, a, words, r.cyc + 96, none⟩] }

/-- Every field of a word that the main pointer issues. -/
def State.mainFields (s : State) (w : Nat) : State :=
  let s := s.syncIssue (syncSlotOf w)
  let s := if s.seq.run.isNone then s else (List.range 4).foldl (fun s m =>
    let x := moverBits w m
    if readClass (mopOf x) (moverOf x) then s else s.moverIssue m (mopOf x) (moverOf x)) s
  (List.range 8).foldl (fun s k =>
    let x := clumpBits w k
    if s.seq.run.isNone then s
    else (s.unitIssue k (uopOf x) (unitOf x)).vecIssue k (vopOf x) (vecOf x)) s

/-! ### One cycle -/

/-- CK_FT time of the opening boundary of the running call's window. -/
def State.openTime (s : State) (r : Run) : Nat :=
  match s.windowOf r.key with
  | some w => s.frameStart - (s.frame - w.first) * frameCycles
  | none => s.frameStart

/-- The CK_FT time of call cycle `cyc` of the running call: its window's opening boundary, the 32 guard cycles, the slips and
the cycles so far. -/
def State.timeOf (s : State) (r : Run) (cyc : Nat) : Nat := s.openTime r + ceilDiv ((32 + cyc + r.slip) * 5) 19

/-- The CK_FT time of the running call's cycle. -/
def State.cycleTime (s : State) (r : Run) : Nat := s.timeOf r r.cyc

/-- A sync-slot operation has had no result by call cycle `cyc`: the plane slips until it comes (R103). -/
def Run.waitsSync (r : Run) (cyc : Nat) : Bool := r.ops.any fun o => o.due ≤ cyc && o.result.isNone

/-- CK_FR cycles, of the 96 before it is due, after which a sync-slot result can stand in the store (Table 9.4: 46.8 ns after
its word). -/
def slotLatency : Nat := 89

/-- Sync-slot results that have come replace their operands, the status word after them, from `slotLatency` cycles after the
issue on (R103, Table 9.4). -/
def State.deliver (s : State) : State :=
  match s.seq.run with
  | none => s
  | some r =>
    let due := fun (o : SlotOp) => o.due + slotLatency ≤ r.cyc + 96 && o.result.isSome
    (r.ops.filter due).foldl (fun s o => match o.result with
      | some q => s.frondWrite o.frond o.addr (q.flatMap (bvBytes 8))
      | none => s) (s.runUp fun r => { r with ops := r.ops.filter fun o => !due o })

/-- The read pointer issues its word and moves on; it runs every loop to its COUNT. -/
def State.readStep (s : State) (img : Mem) : State :=
  match s.seq.run with
  | none => s
  | some r =>
    if r.rp.fin then s
    else
      let w := planWord img r.rp.word
      let c := controlOf w
      (s.readFields w).runUp fun r => { r with rp := r.rp.advance c c.count 1 }

/-- The last ENDLOOP of a live while loop reads a count that is not zero (R99, R118). -/
def Run.loopEnd (r : Run) (c : Control) (count : Nat) : Run :=
  match c.op, r.mp.loops with
  | 2, l :: t =>
    let live := !(t.any fun x => x.live = 0)
    let r := if l.binpass && live && l.live ≠ 0 then { r with passes := r.passes + 1 } else r
    if l.while_ && live && l.left ≤ 1 && count ≠ 0 then
      if l.binpass then { r with binOver := r.binOver + count } else { r with clamp := true }
    else r
  | _, _ => r

/-- The main pointer issues its word and takes its loop decision (R97 to R99, R102). -/
def State.mainStep (s : State) (img : Mem) : State :=
  match s.seq.run with
  | none => s
  | some r =>
    let w := planWord img r.mp.word
    let c := controlOf w
    if c.wtag ≠ 0 ∧ mgetD r.tags c.wtag 0 ≠ 0 then s.planeFault
    else
      let padded := r.mp.padded
      let whileEnd : Bool := c.op = 2 && (match r.mp.loops with | l :: _ => l.while_ | [] => false)
      let reads := whileEnd || (c.op = 1 && c.mode = 1)
      let s := if reads then s.lookCount c else s
      let count := if reads then s.countWord r c else 1
      let live := if padded then 0 else if c.mode = 1 then min count c.count else c.count
      let over_ := c.op = 1 && c.mode = 1 && !padded && c.count < count
      let s := if padded then s else s.mainFields w
      s.runUp fun r =>
        let r := r.loopEnd c count
        { r with mp := r.mp.advance c live count, words := r.words + 1, clamp := r.clamp || over_ }

/-- The cycle ends: the wait of the main pointer shortens, and, but in a cycle that only the main pointer slips, the
call's cycle count advances. -/
def Run.tickCycle (r : Run) (waited : Bool) : Run :=
  if waited then
    if 0 < r.stall then { r with leadIn := r.leadIn - 1, stall := r.stall - 1 }
    else { r with leadIn := r.leadIn - 1, cyc := r.cyc + 1 }
  else { r with cyc := r.cyc + 1 }

/-- The call cycle in which the next word issues: after its END the read pointer has nothing to issue for the rest of the main
pointer's wait. -/
def Run.nextCyc (r : Run) : Nat := if r.leadIn ≠ 0 && r.rp.fin then r.cyc + (r.leadIn - r.stall) else r.cyc

/-- One cycle of the running call, when the word that leads it has SEQ_OP `op`: the main pointer's word, or the read
pointer's while the main pointer waits. In a cycle in which a sync-slot result is due and has not come, no word issues. -/
def State.callCycle (s : State) (op : Nat) : State :=
  match s.runCall with
  | none => s
  | some (r, c) =>
    let img := s.planImage c.plan
    let waits := r.leadIn ≠ 0 && !r.rp.fin
    let w := planWord img (if waits then r.rp.word else r.mp.word)
    if r.mp.fin ∨ (controlOf w).op ≠ op ∨ r.waitsSync r.nextCyc then s
    else
      let s := if waits then s else s.runUp fun r => { r with cyc := r.nextCyc, leadIn := 0, stall := 0 }
      let s := match s.seq.run with | some r => s.toTime (s.cycleTime r) | none => s
      let s := s.retire.deliver
      let s := s.within fun s => if waits then s.readStep img else (s.readStep img).mainStep img
      s.runUp fun r => r.tickCycle waits

/-- NEXT. -/
def execNext (s : State) : Out := .next (s.callCycle 0)

/-- LOOP. -/
def execLoop (s : State) : Out := .next (s.callCycle 1)

/-- ENDLOOP. -/
def execEndloop (s : State) : Out := .next (s.callCycle 2)

/-- END. -/
def execEndWord (s : State) : Out := .next (s.callCycle 3)

/-! ### Sync-slot results (R103, R199, R200) -/

/-- The sync-slot operations that may take effect next: of each object, the oldest without a result (R195). -/
def freeOps (ops : List SlotOp) : List SlotOp :=
  (ops.foldl (fun (acc : List SlotOp) o =>
    if o.result.isSome ∨ acc.any (fun x => x.obj = o.obj) then acc else acc ++ [o]) [])

/-- What the plane has slipped since the due cycle of an operation, for want of its result: one event of SYNC and its cycles
(R54, R103). -/
def State.slipLate (s : State) (r : Run) (o : SlotOp) : State :=
  let late := ceilDiv ((s.now - s.openTime r) * 19) 5 - (32 + o.due + r.slip)
  if late = 0 then s else s.slipBy R.FTM_TS_EVENTS_SYNC 1 late

/-- The oldest sync-slot operation without a result has had none within `SYNC_TIMEOUT_US` of its due cycle (R103): the call
ends, the slip for it counted. -/
def State.slotTimeout (s : State) : State :=
  match s.seq.run with
  | none => s
  | some r =>
    match r.ops.find? fun o => o.result.isNone with
    | none => s
    | some o =>
      let s := (s.toTime (s.timeOf r o.due + s.fld R.SEQ_CFG_SYNC_TIMEOUT_US * usCycles)).slipLate r o
      ((s.count R.SEQ_FAULTS_SYNC).raise 16 9).endRun Status.callFault 8 0

/-- A sync-slot operation takes effect at its object, and its result has come, for `deliver` to put in its place. The plane has
slipped for what the result is late (R54, R103). Among operations at different objects the banks' timing decides, which
the model leaves free (entry 27). -/
def State.slotResult (s : State) : State :=
  match s.seq.run with
  | none => s
  | some r =>
    let l := freeOps r.ops
    match l[(Config.freeBits 16 s.freeCtr).toNat % l.length]? with
    | none => s
    | some o =>
      let s := s.tick
      let k := setOfObj o.obj
      let (s, res, changed) := s.syncRun o.obj o.sop o.operand
      let s := s.slipLate r o
      let words := res.q ++ [BitVec.ofNat 64 res.word]
      s.runUp fun r => { r with
        ops := mapIf (fun x => x.key = o.key) (fun x => { x with result := some words }) r.ops
        durable := if changed && (s.obj o.obj).durable && s.recorded k then some (k, s.nextRecord k) else r.durable }

/-- SYNC_SLOT_RESULT. -/
def execSyncSlotResult (s : State) : Out := .next s.slotResult

/-- SYNC_TIMEOUT. -/
def execSyncTimeout (s : State) : Out := .next s.slotTimeout

/-! ### The start of a call (R115) -/

/-- A logical frond as the guard cycles leave it: base registers from BASES, the scalars at SCALAR_ADDR. -/
def startFrond (img : Mem) (scalars : List Word64) (f : Nat) : Frond :=
  let x : Frond := { emptyFrond with base := (List.range 16).map (planBase img f) }
  if scalars = [] then x else x.write (headerOf img).scalarAddr (scalars.flatMap (bvBytes 8))

/-- LEAD (R100). -/
def leadOf (base lat : Nat) : Nat := base + ceilDiv (lat * 19) 16

/-- The 32 guard cycles of the call whose window covers the running frame. None starts in a frame whose PLANNED slots have been
lent (R9). -/
def State.startCall (s : State) : State :=
  if s.ftm.lent.isSome then s else
  match s.windowCall, s.seq.run with
  | some (_, c), none =>
    let img := s.planImage c.plan
    let h := headerOf img
    let lead := leadOf h.leadBase (s.fld R.FTM_REBASE_PL_LAT)
    let r : Run := ⟨c.key, 0, 0, lead, 0, lead, ⟨0, [], false⟩, ⟨0, [], false⟩, 0, [], [], [], [], [], [], [], [], 0, 0,
      false, 0, false, lead, none, false⟩
    let s := s.seqUp fun q => { q with
      run := some r
      fronds := (List.range h.fronds).map fun f => (f, startFrond img c.scalars f)
      slab := []
      slabValid := []
      landings := [] }
    let s := s.sramDrop fun c => match c with | .frond .. | .slab _ => true | _ => false
    s.toTime (s.cycleTime r)
  | _, _ => s

/-- CALL_START. -/
def execCallStart (s : State) : Out := .next s.startCall

/-! ### Completion (R116, R118, R248) -/

/-- The cycles that the sequencer issues in all, slips left out. -/
def State.declaredCycles (s : State) (c : CallRec) : Nat := (headerOf (s.planImage c.plan)).cycles

/-- A call whose main pointer has issued END runs its declared cycles out and completes. -/
def State.completeCall (s : State) : State :=
  match s.runCall with
  | none => s
  | some (r, c) =>
    if !r.mp.fin ∨ r.waitsSync (s.declaredCycles c - 1) then s
    else
      let s := s.runUp fun r => { r with cyc := max r.cyc (s.declaredCycles c) }
      let s := match s.seq.run with | some r => s.toTime (s.cycleTime r) | none => s
      let s := s.retire.deliver
      let r := (s.seq.run).getD r
      if r.binOver ≠ 0 then s.endRun Status.binOverflow 0 0
      else if r.poisoned then s.endRun Status.poisoned 0 0
      else s.endRun Status.ok 0 0

/-- CALL_COMPLETE. -/
def execCallComplete (s : State) : Out := .next s.completeCall

end Sys2Proof.Machine
end

