-- ==== Sys2Proof/Machine/Plans.lean ====
section
/-! DEFINITION. The plan store: plan indices, chunks and their pages (R107), commits and their checks (R108), handles and
unloading (R109). -/

namespace Sys2Proof.Machine

/-! ### The plan store -/

def State.plan (s : State) (i : Nat) : Option Plan := mget s.seq.plans i

/-- The index lies in the tenant's range. -/
def State.ownsPlan (s : State) (t i : Nat) : Bool :=
  let b := s.fld (R.SEQ_TCALL_PLAN_BASE.at (0x10 * t))
  b ≤ i && i < b + s.fld (R.SEQ_TCALL_PLAN_COUNT.at (0x10 * t)) && i < 1024

/-- Pages of 64 KiB that an index holds (R107). -/
def Plan.pages (p : Plan) : Nat :=
  if p.st = 1 then ceilDiv (p.spans.foldl (fun m x => max m x.2) 0) 65536 else ceilDiv p.len 65536

/-- Pages that a tenant holds. -/
def State.planPages (s : State) (t : Nat) : Nat := ((s.seq.plans.filter fun p => p.2.tenant = t).map fun p => p.2.pages).sum

/-- Pages in use in the whole store. -/
def State.allPages (s : State) : Nat := (s.seq.plans.map fun p => p.2.pages).sum

/-- Put the byte range `[a, b)` into written ranges, disjoint and rising. -/
def addSpan (l : List (Nat × Nat)) (a b : Nat) : List (Nat × Nat) :=
  match l with
  | [] => [(a, b)]
  | (x, y) :: t =>
    if b < x then (a, b) :: (x, y) :: t
    else if y < a then (x, y) :: addSpan t a b
    else addSpan t (min a x) (max b y)

/-- Calls, queued or running, that are bound to the plan at an index. -/
def State.planCalls (s : State) (i : Nat) : List CallRec := s.seq.calls.filter fun c => c.plan = i

/-- The hint of R13: to the closing boundary of the latest committed window among the calls bound to the plan, 4 µs when
one of them is not yet committed. -/
def State.planHint (s : State) (i : Nat) : Nat :=
  let cs := s.planCalls i
  if cs.any fun c => !c.committed then 4
  else
    let last := (s.ftm.windows.filter fun w => cs.any fun c => c.key = w.call).foldl (fun m w => max m (w.first + w.frames)) 0
    s.usUntil (s.frameStart + (last - s.frame) * frameCycles)

/-- A CALL_FAULT answer of a plan request: the detail code in AUX and in the fault entry (Table 12.4, R116). -/
def planAns (op : ReqOp) (detail : Nat) : Ans := { mkAns op Status.callFault detail with detail := detail }

/-! ### PLAN_LOAD (R107) -/

/-- PLAN_LOAD: the first case that applies. -/
def State.doPlanLoad (s : State) (r : Req) (index off : Nat) (chunk : List Byte) : State :=
  let t := r.tenant
  let loading : Bool := match s.plan index with | some p => p.st = 1 | none => false
  let starts := !loading && off = 0
  if !s.ownsPlan t index then s.refuse r Status.noRights
  else if starts && s.planCalls index ≠ [] then s.refuse r Status.retryAfter (s.planHint index)
  else
    let none_ : Plan := ⟨1, t, [], [], 0, 0⟩
    let old : Plan := (s.plan index).getD none_
    -- a chunk that neither starts a load nor belongs to one would make the index hold its own pages beside what it holds now
    let p : Plan := if loading then old else none_
    let q : Plan := { p with image := p.image.write off chunk, spans := addSpan p.spans off (off + chunk.length) }
    let now := if starts then 0 else old.pages
    let used := s.planPages t - (if starts && old.tenant = t then old.pages else 0)
    let all := s.allPages - (if starts then old.pages else 0)
    let more := q.pages - now
    if s.fld (R.SEQ_TCALL_PLAN_PAGES.at (0x10 * t)) - used < more ∨ 512 - all < more then s.respond r (planAns r.op 19)
    else if !loading && !starts then s.respond r (planAns r.op 17)
    else
      let s := s.seqUp fun x => { x with plans := mset x.plans index q }
      s.respond r (mkAns r.op Status.ok)

/-! ### PLAN_COMMIT (R108) -/

/-- PLAN_COMMIT is accepted after the range test; its checks follow (R267). -/
def State.doPlanCommit (s : State) (r : Req) (index alive len crc : Nat) : State :=
  if !s.ownsPlan r.tenant index then s.refuse r Status.noRights
  else
    let s := s.accept r
    s.seqUp fun x => { x with commits := x.commits ++ [⟨index, { r with accepted := true }, len, alive, crc⟩] }

/-- Generation of the next commit at an index. -/
def State.nextPlanGen (s : State) (i : Nat) : Nat :=
  let g := mgetD s.seq.gens i 0
  if g = 65535 then 1 else g + 1

/-- A plan handle (R109). -/
def planHandle (gen tenant index : Nat) : Nat := gen * 2 ^ 16 + tenant * 2 ^ 10 + index

/-- The detail code of checks 2 to 5 of R108 on an image; none when all pass. -/
def commitFail (p : Plan) (len : Nat) (crcMatch : Bool) : Option Nat :=
  let h := headerOf p.image
  if p.spans ≠ [(0, len)] then some 17
  else if !crcMatch then some 16
  else if !headerOk p.image len then some 17
  else
    match streamWords p.image with
    | none => some 17
    | some w => if h.cycles = h.leadLimit + w then none else some 18

/-- A commit fails at checks 2 to 5: counted and raised; a LOADING index becomes EMPTY. -/
def State.commitBad (s : State) (c : Commit) (detail : Nat) : State :=
  let s := (s.count R.SEQ_FAULTS_LOAD).raise 16 11
  let loading : Bool := match s.plan c.index with | some p => p.st = 1 | none => false
  let s := if loading then s.seqUp fun x => { x with plans := mdel x.plans c.index } else s
  s.respond c.req (planAns c.req.op detail)

/-- The checks of the oldest commit at an index end (R108). -/
def State.commitDone (s : State) (index : Nat) : State :=
  match s.seq.commits.find? (fun c => c.index = index) with
  | none => s
  | some c =>
    let s := s.seqUp fun x => { x with commits := x.commits.erase c }
    let t := c.req.tenant
    let last := mgetD s.seq.alive t 0
    if !aliveAccepts last c.alive then
      (s.aliveReject 2).respond c.req (mkAns c.req.op Status.conflict ((last + 1) % 65536))
    else
      let s := (s.seqUp fun x => { x with alive := mset x.alive t (c.alive % 65536) }).setFld (R.CRC_STAT_LAST_ALIVE.at 0x80) c.alive
      match s.plan index with
      | none => s.commitBad c 17
      | some p =>
        if p.st ≠ 1 then s.commitBad c 17
        else if p.spans ≠ [(0, c.len)] then s.commitBad c 17
        else
          let got := (crc32c (p.image.read 0 c.len)).toNat
          let s := s.crcCompare 2 c.crc got
          match commitFail p c.len (got = c.crc) with
          | some d => s.commitBad c d
          | none =>
            let g := s.nextPlanGen index
            let hash := Config.sha384 (p.image.read 0 c.len)
            let s := s.seqUp fun x => { x with
              plans := mset x.plans index { p with st := 2, tenant := t, len := c.len, hash := hash }
              gens := mset x.gens index g }
            s.respond c.req (mkAns c.req.op Status.ok (planHandle g t index) (bvBytes 48 hash))

/-- PLAN_COMMIT_COMPLETE. -/
def execPlanCommitComplete (index : Nat) (s : State) : Out := .next (s.commitDone index)

/-! ### PLAN_UNLOAD (R109) -/

/-- PLAN_UNLOAD: an index of the caller's range, or a RESIDENT plan of its own that R120 has left outside it. A plan of
a former owner that is RESIDENT in the caller's range stays (R120). -/
def State.doPlanUnload (s : State) (r : Req) (index : Nat) : State :=
  let mine : Bool := match s.plan index with | some p => p.st = 2 && p.tenant = r.tenant | none => false
  let others : Bool := match s.plan index with | some p => p.tenant ≠ r.tenant | none => false
  if (!s.ownsPlan r.tenant index && !mine) || others then s.refuse r Status.noRights
  else if s.planCalls index ≠ [] then s.refuse r Status.retryAfter (s.planHint index)
  else
    let s := s.seqUp fun x => { x with plans := mdel x.plans index }
    s.respond r (mkAns r.op Status.ok)

end Sys2Proof.Machine
end

