-- ==== Sys2Proof/Machine/Calls.lean ====
section
/-! DEFINITION. Calls from admission to their lock (R110 to R114, R119, R236), and the frond faults that end them and
retire fronds (R91 to R94). -/

namespace Sys2Proof.Machine

/-! ### Admission (R111) -/

/-- Logical fronds available (`FRD_STATUS.AVAILABLE`, R94): the physical fronds that carry a logical number. -/
def State.available (s : State) : Nat := ((List.range 65).filter fun p => (s.phys p).logical ≠ 127).length

/-- A refused CALL's answer: its body is the completion record, its AUX the value that its status carries (R262, R267). -/
def callAns (c : CallBody) (status detail slot aux : Nat) : Ans :=
  ⟨status, aux, (queuedEnd status detail slot).body c.callId.toNat, 0, 0, detail + slot * 256⟩

end Sys2Proof.Machine

namespace Sys2Proof

/-- The tenant whose table a slot uses (Table 5.11). -/
def CallBody.slotTenant (c : CallBody) (caller : Nat) (x : CallSlot) : Nat := if c.joint then x.tenant.toNat % 64 else caller

end Sys2Proof

namespace Sys2Proof.Machine

/-- Check 2 on one slot. -/
def slotShape (d : SlotDesc) (x : CallSlot) : Bool :=
  let rows := bitsOf x.rows.toNat 0 24
  if d.dir = 0 then rows = 0
  else 1 ≤ rows && x.rowLen.toNat % 64 = 0 && (rows < 2 || x.rowLen.toNat ≤ x.stride.toNat)

/-- Rights that a slot needs. -/
def dirNeed (dir : Nat) : Nat := if dir = 1 then rRead else rRead + rWrite

/-- A consent of tenant `u` lets `caller` bind the handle to a slot of the plan with this hash (R119). -/
def State.consented (s : State) (hash : BitVec 384) (caller u handle need : Nat) : Bool :=
  s.sec.consents.any fun k =>
    k.planHash = hash && k.caller = caller && k.grantor = u && k.handle.toNat = handle && covers k.rights need

/-- Check 3: every slot of another tenant has its consent. -/
def State.jointOk (s : State) (r : Req) (c : CallBody) (p : Plan) (k : Nat) (x : CallSlot) : Bool :=
  let u := c.slotTenant r.tenant x
  bitsOf x.rows.toNat 0 24 = 0 || u = r.tenant ||
    s.consented p.hash r.tenant u x.handle.toNat (dirNeed (slotDesc p.image k).dir)

/-- Check 4 on one slot: R29 for every row, less check 5, since calls share a lock (R113). A slot of a consenting tenant
uses that tenant's table, with the consented rights. -/
def State.checkSlot (s : State) (r : Req) (tenant need k : Nat) (x : CallSlot) : State × Except Ans (Nat × Extent) :=
  let h := x.handle.toNat
  let i := h % 2 ^ 18
  let off := x.offset.toNat
  let rows := bitsOf x.rows.toNat 0 24
  let (s, rights) : State × Option Nat :=
    if tenant = r.tenant then
      match s.lookup 20 r.holder i need with
      | (s, some a) => (s, some a.rights)
      | (s, none) => (s, none)
    else (s, some need)
  match rights, s.extent i with
  | some have_, some e =>
    if e.gen ≠ h / 2 ^ 18 ∨ e.tenant ≠ tenant ∨ e.state ≠ .opened then (s, .error (failAns Status.revoked 0 h off))
    else if s.taking (setOfIndex i) then (s, .error (failAns Status.retryAfter 4 h off))
    else if !s.holds (setOfIndex i) then (s, .error (failAns Status.notHolder 0 h off))
    else if !covers have_ need then (s, .error (failAns Status.noRights 0 h off))
    else
      match rowsFail (e.len * 65536) off x.rowLen.toNat rows x.stride.toNat with
      | some y => (s, .error (carriedAns Status.unmapped h y k))
      | none => (s, .ok (i, e))
  | _, _ => (s, .error (failAns Status.revoked 0 h off))

/-- A slot that a plan does not use. -/
def noBind : Bind := ⟨0, 0, 0, 0, false, 0, 0, 0, 0, 0⟩

/-- Check 4 on the slots in ascending order. -/
def State.checkSlots (s : State) (r : Req) (c : CallBody) (img : Mem) (l : List (Nat × CallSlot)) :
    State × Except Ans (List Bind) :=
  match l with
  | [] => (s, .ok [])
  | (k, x) :: t =>
    let d := slotDesc img k
    let (s, res) : State × Except Ans Bind :=
      if d.dir = 0 then (s, .ok noBind)
      else
        let u := c.slotTenant r.tenant x
        match s.checkSlot r u (dirNeed d.dir) k x with
        | (s, .error a) => (s, .error a)
        | (s, .ok (i, e)) => (s, .ok ⟨u, i, e.gen, d.dir, d.cush, e.start * 65536, x.offset.toNat, x.rowLen.toNat,
            bitsOf x.rows.toNat 0 24, x.stride.toNat⟩)
    match res with
    | .error a => (s, .error a)
    | .ok b =>
      match s.checkSlots r c img t with
      | (s, .error a) => (s, .error a)
      | (s, .ok bs) => (s, .ok (b :: bs))

/-- Device byte ranges of a slot's rows. -/
def Bind.spans (b : Bind) : List (Nat × Nat) := (List.range b.rows).map fun k => (b.base + b.off + k * b.stride, b.rowLen)

/-- Check 5 on one slot (R111, R170). -/
def State.slotPlace (s : State) (img : Mem) (k : Nat) (b : Bind) : Bool :=
  let d := slotDesc img k
  d.dir = 0 ||
    (b.off % 2 ^ d.align = 0 && d.minLen ≤ b.rowLen * b.rows &&
      (d.dir = 1 || ((match s.extent b.index with | some e => e.prot = 0 | none => false) && (s.arenaOf b.index).isNone)) &&
      (!d.cush || (match s.extent b.index with
        | some e => b.spans.all fun x => (linesOf x.1 x.2).all fun l =>
            match s.cline b.index e l with | some y => y.pinned | none => false
        | none => false)))

/-- Some granule of the slots lies at a retired pseudo-channel. -/
def State.bindsRetired (s : State) (bs : List Bind) : Bool :=
  s.smc.pcs.any (fun p => p.2.state = 2) &&
    bs.any fun b => b.spans.any fun x => (granulesOf x.1 x.2).any fun g => s.pcRetired (pcOf (g * 64))

/-- Calls of a tenant from queue entry to completion. -/
def State.callsOf (s : State) (t : Nat) : Nat := (s.seq.calls.filter fun c => c.tenant = t).length

/-- The first index of a list at which a test fails. -/
def firstFail {α : Type} (l : List (Nat × α)) (p : Nat → α → Bool) : Option Nat := (l.find? fun x => !p x.1 x.2).map (·.1)

/-! ### The recall pre-phase (R112, R113) -/

/-- The dirty lines of the ranges of a call are written back in ACCESS slots. -/
def State.flushBinds (s : State) (bs : List Bind) : State :=
  (s.acc.lines.filter fun l => l.dirty && bs.any fun b => b.index = l.index && b.touches l.line).foldl
    (fun s l => (s.writeBack l).cleanLine l.line) s

/-- Time that leaving FROND_GATED takes (Table 18.3), in CK_FT cycles. -/
def gateExit : Nat := 3 * usCycles

/-- A call entering the queue, or `PWR_CTRL.WAKE`, begins the wake of FROND_GATED (R395). -/
def State.frondWake (s : State) : State :=
  if s.fld R.PWR_STATUS_GATED = 1 ∧ s.pwr.gateWake.isNone then
    s.pwrUp fun p => { p with gateWake := some (s.now + gateExit) }
  else s

/-- The extents of a call that no earlier call has locked, whose lines are recalled. -/
def State.recalls (s : State) (c : CallRec) : List Nat :=
  ((c.binds.filterMap fun b => if b.rows = 0 then none else some b.index).eraseDups).filter fun i => !s.locked i

/-- A call enters the queue: recalls go out for the extents that no earlier call has locked, and the write-back of its
ranges begins. -/
def State.enterCall (s : State) (c : CallRec) : State :=
  let fresh := s.recalls c
  let s := s.seqUp fun q => { q with calls := q.calls ++ [c] }
  let s := (s.pwrUp fun p => { p with callAt := s.now }).frondWake
  let s := fresh.foldl (fun s i => s.pullExtent i) s
  s.flushBinds c.binds

/-- CALL: the checks of R111 in order, then the call queue. -/
def State.doCall (s : State) (r : Req) (c : CallBody) : State :=
  let fail := fun (s : State) (detail slot : Nat) => s.respond r (callAns c Status.callFault detail slot 0)
  let i := bitsOf c.plan.toNat 0 10
  match s.plan i with
  | none => fail s 11 0
  | some p =>
    if p.st ≠ 2 ∨ p.tenant ≠ r.tenant ∨ c.plan.toNat ≠ planHandle (mgetD s.seq.gens i 0) r.tenant i then fail s 11 0
    else
      let h := headerOf p.image
      let slots := numbered c.slots
      if c.nslots.toNat ≠ h.slots ∨ c.nscalars.toNat ≠ h.scalars then fail s 12 0
      else
        match firstFail slots fun k x => slotShape (slotDesc p.image k) x with
        | some k => fail s 12 k
        | none =>
          match (if c.joint then firstFail slots fun k x => s.jointOk r c p k x else none) with
          | some k => fail s 13 k
          | none =>
            match s.checkSlots r c p.image slots with
            | (s, .error a) => s.respond r { a with body := (queuedEnd a.status 0 0).body c.callId.toNat }
            | (s, .ok bs) =>
              match firstFail (numbered bs) fun k b => s.slotPlace p.image k b with
              | some k => fail s 12 k
              | none =>
                if s.bindsRetired bs then fail s 14 0
                else if s.available < h.fronds then fail s 4 0
                else if 4096 ≤ s.seq.calls.length ∨ s.fld (R.SEQ_TCALL_MAX_QUEUED.at (0x10 * r.tenant)) ≤ s.callsOf r.tenant then
                  s.respond r (callAns c Status.retryAfter 0 0 4)
                else
                  let (key, s) := s.newKey
                  let s := s.accept r
                  let foreign := ((bs.filter fun b => b.rows ≠ 0 && b.tenant ≠ r.tenant).map (·.tenant)).eraseDups
                  s.enterCall ⟨key, { r with accepted := true, checked := true }, r.tenant, i, mgetD s.seq.gens i 0,
                    c.callId.toNat, bs, c.scalars, foreign, false, false, false, s.now, []⟩

/-! ### The lock (R30, R112, R113, R236) -/

/-- The 64 KiB units that a call's ranges touch. -/
def CallRec.units (c : CallRec) : List Nat :=
  (c.binds.flatMap fun b => b.spans.flatMap fun x =>
    if x.2 = 0 then [] else (List.range ((x.1 + x.2 - 1) / 65536 - x.1 / 65536 + 1)).map (· + x.1 / 65536)).eraseDups

/-- Fill an unwritten granule of a mixed unit with zeros, with every effect that its extent's mode gives a write; one that
finds no way into a write queue yet is filled later (R209, R236). -/
def State.fillGranule (s : State) (g : Nat) : State :=
  match s.extentAt (g * 64) with
  | some (i, e) =>
    if s.written g ∨ s.writeShort [g] (s.writeNeeds i e [g] plainWriter) false then s
    else
      let zeros := List.replicate 64 0
      let s := s.writeGranules i e (g * 64) zeros .clear plainWriter [g]
      if e.mirroredMode then s.mirrorSend i 0 (g * 64) zeros none 0 else s
  | none => s

/-- Some granule of a unit is written and some is not. -/
def State.mixedUnit (s : State) (u : Nat) : Bool := mget s.ecc.units u = some false

/-- Fill a mixed unit: zero granules where its map bit is 0. -/
def State.fillUnit (s : State) (u : Nat) : State :=
  if s.mixedUnit u then (List.range 1024).foldl (fun s k => s.fillGranule (u * 1024 + k)) (s.vcacheTouch u) else s

/-- The lines of a call that agents still hold as R112 forbids. An extent that an earlier call has locked needs no recall
(R113). -/
def State.recallOpen (s : State) (c : CallRec) : Bool :=
  c.binds.any fun b => b.rows ≠ 0 && !s.locked b.index &&
    ((s.dir.entries.any fun d => b.index = d.index && b.touches d.line && (d.owned || b.dir ≠ 1) && s.named d ≠ []) ||
     s.dir.txns.any fun t => t.index = b.index && b.touches t.line)

/-- Requests queued against one of the call's extents have not issued (R30): those that came before the lock takes effect. -/
def State.queuedBefore (s : State) (c : CallRec) : Bool :=
  let hits := fun (r : Req) => c.binds.any fun b => b.rows ≠ 0 && r.op.names b.index
  (s.qos.acq.any fun x => match x.kind with | .req r => hits r | _ => false) ||
    (s.acc.moves.any fun m => m.fate.isNone && hits m.req) ||
    (s.acc.rdma.any fun m => hits m.req) || s.engineReqs.any hits || (s.par.fetches.any fun f => hits f.2.1) ||
    s.dir.waiters.any fun w => hits w.req

/-- The fills and write-backs of the call's ranges have not all reached their write queues. -/
def State.fillsWait (s : State) (c : CallRec) : Bool :=
  let us := c.units
  (s.smc.waits.any fun w => w.gs.any fun g => us.contains (g / 1024)) || us.any s.mixedUnit ||
    s.acc.lines.any fun l => l.dirty && c.binds.any fun b => b.index = l.index && b.touches l.line

/-- A queued call locks its extents once its write-backs, recalls and fills are complete and the earlier requests have
issued; the units that are empty then read as zeros to its plan (R236). -/
def State.lockCall (s : State) (key : Nat) : State :=
  match s.seq.calls.find? (fun c => c.key = key) with
  | none => s
  | some c =>
    if c.locked then s
    else
      let s := c.units.foldl (fun s u => s.fillUnit u) s
      let s := (s.recalls c).foldl (fun s i => s.pullExtent i) (s.flushBinds c.binds)
      if s.recallOpen c ∨ s.queuedBefore c ∨ s.fillsWait c then s
      else
        let empty := c.units.filter fun u => (mget s.ecc.units u).isNone
        s.seqUp fun q => { q with
          calls := mapIf (fun x => x.key = key) (fun x => { x with locked := true, emptyUnits := empty }) q.calls }

/-- CALL_LOCK. -/
def execCallLock (key : Nat) (s : State) : Out := .next (s.lockCall key)

/-! ### Frond faults and retirement (R91, R92, Tables 4.7 and 4.9) -/

/-- FROND_FAULT. -/
def execFrondFault (phys : Nat) (s : State) : Out := .next (s.frondFault phys)

/-- At a call boundary the lowest RETIRING frond is replaced: by the spare, else by the frond with the highest logical
number. -/
def State.substitute (s : State) : State :=
  if s.seq.run.isSome then s
  else
    match (List.range 65).find? fun p => (s.phys p).st = 2 with
    | none => s
    | some p =>
      let x := s.phys p
      let s1 := (s.setPhys p { x with st := 3, logical := 127 }).raise 18 9
      match (List.range 65).find? fun q => (s.phys q).st = 1 with
      | some q => let y := s.phys q; s1.setPhys q { y with st := 0, logical := x.logical }
      | none =>
        let top := s.available - 1
        let s1 := s1.raise 18 10
        match (List.range 65).find? fun q => (s1.phys q).logical = top with
        | some q => let y := s1.phys q; s1.setPhys q { y with logical := x.logical }
        | none => s1

/-- FROND_SUBSTITUTION. -/
def execFrondSubstitution (s : State) : Out := .next s.substitute

/-- A write of `FRD_RETIRE` with GO. -/
def State.frdRetire (s : State) (src : RegSrc) (w : Word64) : State :=
  let v := bitsOf w.toNat 0 7
  let last := v ≤ 64 && (s.phys v).st = 0 && s.activeFronds ≤ 1
  let s := s.storeReg src 0x12110 (w ||| BitVec.ofNat 64 (2 ^ 63))
  if last then s
  else
    let p := s.fld R.FRD_RETIRE_PHYS
    let x := s.phys p
    if x.st = 0 then s.setPhys p { x with st := 2 }
    else if x.st = 1 then s.setPhys p { x with st := 3 }
    else s

end Sys2Proof.Machine
end

