-- ==== Sys2Proof/Machine/Slots.lean ====
section
/-! DEFINITION. What the stack memory controllers do in the slots of a frame (R42, R48, R50, R52, R53, R60, R207 to R215,
R239): ACCESS, PLANNED, GUARD, REFRESH, CAL and SCRUB slots, planned data, write queue admission and idle timers. -/

namespace Sys2Proof.Machine

/-! ### The type of a slot (R42, R49, R60) -/

/-- What a slot serves as. -/
inductive SlotUse where
  | access (only : Option Nat)           -- only that tenant's requests, in strict mode (R60)
  | planned
  | scrub
  | cal
  | refresh
  | guard
  deriving DecidableEq, Repr

/-- The template that a pseudo-channel selects. -/
def State.tplOf (s : State) (p : Nat) : Nat := s.act ((R.FTM_PCSEL_TPL.at (8 * (p / 16))).up (4 * (p % 16)))

/-- Slot type `slot` of template `k`. -/
def State.tplSlot (s : State) (k slot : Nat) : Nat :=
  s.act ((R.FTM_TPL_S_SLOT.at (0x80 * k + 8 * (slot / 16))).up (4 * (slot % 16)))

/-- A committed window covers the running frame (R57). -/
def State.inWindow (s : State) : Bool := s.ftm.windows.any fun w => w.first ≤ s.frame && s.frame < w.first + w.frames

/-- The tenant to which the rota assigns frame `f` (R58). -/
def State.rotaOwner (s : State) (f : Nat) : Option Nat :=
  let k := f % max 1 (s.act R.FTM_ROTA_LEN_LEN)
  if s.act ((R.FTM_ROTA_OWNED.at (8 * (k / 8))).up (8 * (k % 8))) = 1 then
    some (s.act ((R.FTM_ROTA_TENANT.at (8 * (k / 8))).up (8 * (k % 8))))
  else none

/-- What a PLANNED slot serves as (R9, R60). -/
def State.plannedUse (s : State) : SlotUse :=
  match s.ftm.lent with
  | some t => .access (if s.strict then some t else none)
  | none =>
    if s.inWindow then .planned
    else if !s.strict then .access none
    else match s.rotaOwner s.frame with | some t => .access (some t) | none => .scrub

/-- What a slot of a pseudo-channel serves as. -/
def State.slotUse (s : State) (p slot : Nat) : SlotUse :=
  let k := s.tplOf p
  if s.ftm.hot.contains (stackOfPc p) ∧ s.act (R.FTM_TPL_CFG_HOT_SLOT.at (0x80 * k)) = slot then .refresh
  else match s.tplSlot k slot with
    | 1 => s.plannedUse
    | 2 => .scrub
    | 3 => .cal
    | 4 => .refresh
    | 5 => .guard
    | _ => .access none

/-- The SMC may issue commands at the pseudo-channel: it is in service, its stack runs, and the frame timer runs (R42,
R216). -/
def State.slotRuns (s : State) (p slot : Nat) : Bool :=
  p < 512 && slot < 128 && s.pwr.timer && s.pcActive p && s.stackSt (stackOfPc p) ≠ 0 && s.stackSt (stackOfPc p) ≠ 5

/-- The CK_MC cycle at which a slot begins. -/
def State.slotMc (s : State) (slot : Nat) : Nat := mcOf s.frameStart + 48 * slot

/-- A slot begins at its time. -/
def State.slotTime (s : State) (slot : Nat) : State := s.toTime (s.frameStart + 15 * slot)

/-- Some slot of the pseudo-channel's template serves as a SCRUB slot (R240), in strict mode the PLANNED slots of frames
that the rota assigns to no tenant (R60). -/
def State.hasScrubSlot (s : State) (p : Nat) : Bool :=
  let k := s.tplOf p
  let types := (List.range 128).map (s.tplSlot k)
  types.contains 2 ||
    (s.strict && types.contains 1 && (List.range (s.act R.FTM_ROTA_LEN_LEN)).any fun f => (s.rotaOwner f).isNone)

/-- A PLANNED slot of the running window follows slot `slot` at the pseudo-channel (R54): later in this frame, or in a
further frame of the window. -/
def State.plannedAhead (s : State) (p slot : Nat) : Bool :=
  s.ftm.lent.isNone && s.inWindow &&
    ((List.range 128).any fun k => slot < k && s.slotUse p k = .planned) ||
      (s.ftm.lent.isNone && (s.ftm.windows.any fun w => w.first ≤ s.frame && s.frame + 1 < w.first + w.frames) &&
        (List.range 128).any fun k => s.slotUse p k = .planned)

/-! ### Banks (R205, R207, R213) -/

/-- tRC in CK_MC cycles: 18 granule positions (R213). -/
def tRc : Nat := 72

/-- From a write's column command to the precharge of its bank (Table 10.3): 8 cycles to its data, 4 of transfer, 24 of
write recovery. -/
def tWr : Nat := 8 + 4 + 24

/-- tRCD, from the first cycle of a position, in which its activate stands where it needs one, to its column command
(Table 10.3). DEDUCED (entry 67): a row hit's column command stands there too, as R206 puts the data of a read 46 = 22 + 24
cycles after the first cycle of its position. -/
def tRcd : Nat := 22

/-- A bank's entry in a map of cycles has been reached. -/
def reached (m : NMap Nat) (b wait mc : Nat) : Bool :=
  match mget m b with | some t => t + wait ≤ mc | none => true

/-- The bank of a granule. -/
def bankOfG (g : Nat) : Nat := bankOf (g * 64)

/-- The bank takes an activate at cycle `mc`: tRC has passed, no refresh keeps it busy, and a row that a write left open
may be precharged. Positions are 4 cycles apart and each holds one activate at most, so 16 cycles never hold more than 4
(R205). -/
def Pc.actReady (x : Pc) (b mc : Nat) : Bool :=
  reached x.busyTo b 0 mc && reached x.lastAct b tRc mc && reached x.wrTo b 0 mc

/-- The granule's row is open. -/
def Pc.rowHit (x : Pc) (g : Nat) : Bool := mget x.openRows (bankOfG g) = some (rowOf (g * 64))

/-- An ACCESS column command for the granule can issue. -/
def Pc.colReady (x : Pc) (g mc : Nat) : Bool :=
  if x.rowHit g then reached x.busyTo (bankOfG g) 0 mc else x.actReady (bankOfG g) mc

/-- At a command cycle of an ACCESS slot, the rows whose idle timers have ended are precharged where Table 10.3 allows
it (R207). -/
def Pc.closeIdle (x : Pc) (mc : Nat) : Pc :=
  let out := fun (b : Nat) => (match mget x.idleAt b with | some t => t ≤ mc | none => false) && reached x.wrTo b 0 mc
  { x with openRows := x.openRows.filter fun e => !out e.1, idleAt := x.idleAt.filter fun e => !out e.1 }

/-- The bank's row is closed. -/
def Pc.closeBank (x : Pc) (b : Nat) : Pc := { x with openRows := mdel x.openRows b, idleAt := mdel x.idleAt b }

/-- A closed-page command: an activate, and a column command with auto-precharge. -/
def Pc.closedPage (x : Pc) (g mc : Nat) (write : Bool) : Pc :=
  let x := x.closeBank (bankOfG g)
  { x with lastAct := mset x.lastAct (bankOfG g) mc
           wrTo := if write then mset x.wrTo (bankOfG g) (mc + tRcd + tWr) else x.wrTo }

/-- Record a closed-page command at a pseudo-channel. -/
def State.closedAt (s : State) (p g mc : Nat) (write : Bool) : State := s.setPc p ((s.pc p).closedPage g mc write)

/-- An ACCESS column command: row hits and misses are counted, wrapping, and the row stays open until its idle timer, which
starts with the column command, ends (R207). With IDLE_CYC 0 it carries auto-precharge, unless the write of a partial write
follows it in its slot (`keep`; DEDUCED, entry 67: R125 puts both in one slot, and tRC allows one activate there). -/
def State.column (s : State) (p g mc : Nat) (write : Bool) (keep : Bool := false) : State :=
  let d := stackOfPc p * 0x1000
  let x := s.pc p
  let b := bankOfG g
  let hit := x.rowHit g
  let s := s.countWrap ((if hit then R.SMC_COUNTS_ROW_HITS else R.SMC_COUNTS_ROW_MISSES).at d)
  let s := s.pwrUp fun w => { w with accAt := mset w.accAt (stackOfPc p) s.now }
  let idle := s.fld (R.SMC_CFG_IDLE_CYC.at d)
  let x := if hit then x else { x with lastAct := mset x.lastAct b mc }
  let x := if write then { x with wrTo := mset x.wrTo b (mc + tRcd + tWr) } else x
  s.setPc p (if idle = 0 then
      (if keep then { x.closeBank b with openRows := mset x.openRows b (rowOf (g * 64)) } else x.closeBank b)
    else { x with openRows := mset x.openRows b (rowOf (g * 64)), idleAt := mset x.idleAt b (mc + tRcd + idle) })

/-! ### ACCESS slots (R208 to R210) -/

/-- A tenant's commands may use the slot. -/
def forTenant (only : Option Nat) (t : Nat) : Bool := match only with | none => true | some u => u = t

/-- A request of another tenant waits at the pseudo-channel. -/
def Pc.othersWait (x : Pc) (t : Nat) : Bool := (x.rq.any fun e => e.tenant ≠ t) || x.wq.any fun e => e.tenant ≠ t

/-- A MOVE's commands may use the running ACCESS slot: while requests of other tenants wait, at most one slot in four
(R129). -/
def Pc.moveMay (x : Pc) (move : Option Nat) (t : Nat) : Bool :=
  match move with
  | none => true
  | some m => !x.othersWait t || (match mget x.moveAt m with | some n => n = x.accSlots || n + 4 ≤ x.accSlots | none => true)

/-- A MOVE has used the running ACCESS slot; MOVEs that have not used the last four are forgotten. -/
def Pc.moveUsed (x : Pc) (move : Option Nat) : Pc :=
  match move with
  | none => x
  | some m => { x with moveAt := mset (x.moveAt.filter fun e => x.accSlots < e.2 + 4) m x.accSlots }

/-- The read that issues at cycle `mc`: one that has waited `AGE_CAP` cycles, else a row hit, else the oldest (R208). In the
slot's last position no partial write begins, as its write must issue in the same slot (R125). -/
def State.pickRead (s : State) (p : Nat) (only : Option Nat) (mc : Nat) (last : Bool) : Option RqEntry :=
  let x := s.pc p
  let cap := s.fld (R.SMC_CFG_AGE_CAP.at (stackOfPc p * 0x1000))
  let ok := x.rq.filter fun e => forTenant only e.tenant && x.moveMay e.move e.tenant && x.colReady e.g mc && !(last && e.rmw)
  match ok.find? fun e => mcOf e.since + cap ≤ mc with
  | some e => some e
  | none =>
    match ok.find? fun e => x.rowHit e.g with
    | some e => some e
    | none => ok.head?

/-- A queued write may issue outside SCRUB slots: one that follows a read of the scrubber or the ECC block does so only where
the template has no SCRUB slot (Table 3.2, R240). -/
def State.accessMay (s : State) (p : Nat) (e : WqEntry) : Bool := !(e.scrub && s.hasScrubSlot p)

/-- The first entry of a write queue that `ok` accepts and that has no older entry of its granule before it: writes to one
granule issue in arrival order (R210). -/
def firstWrite (ok : WqEntry → Bool) : List WqEntry → List Nat → Option WqEntry
  | [], _ => none
  | e :: t, seen => if ok e && !seen.contains e.g then some e else firstWrite ok t (e.g :: seen)

/-- The write that issues at cycle `mc`: the first of the queue whose bank takes it (R210). -/
def State.pickWrite (s : State) (p : Nat) (only : Option Nat) (mc : Nat) : Option WqEntry :=
  let x := s.pc p
  firstWrite (fun e => forTenant only e.tenant && x.moveMay e.move e.tenant && x.colReady e.g mc && s.accessMay p e) x.wq []

/-- A read issues. -/
def State.issueRead (s : State) (p : Nat) (e : RqEntry) (mc : Nat) : State :=
  let x := s.pc p
  (s.setPc p { x.moveUsed e.move with rq := x.rq.erase e }).column p e.g mc false e.rmw

/-- A write leaves the queue; at `WQ_LOW` entries reads come first again (R209). -/
def State.popWrite (s : State) (p : Nat) (e : WqEntry) : State :=
  let x := s.pc p
  s.setPc p (Pc.settle { x.moveUsed e.move with wq := x.wq.erase e } (s.wqLow p))

/-- A write issues. -/
def State.issueWrite (s : State) (p : Nat) (e : WqEntry) (mc : Nat) : State := (s.popWrite p e).column p e.g mc true

/-- A granule that a planned read found lost is reconstructed, asked of the devices that can give it, or poisoned; once that
is settled, the calling tenant has its fault entry (R246, R248, R330, R340). -/
def State.recover (s : State) (g : Nat) : State :=
  let s := s.eccUp fun x => { x with recon := x.recon.erase g }
  match s.extentAt (g * 64) with
  | some (i, e) =>
    if (e.prot = 2 ∨ e.prot = 4) ∧ s.par.formed ∧ metaPoison (s.gmeta g) then s.askRemote 0 i e g
    else if e.prot = 1 then
      let (s, ok) := s.reconstruct e g
      s.plannedDone g ok
    else if e.prot = 3 then s.askRemote 0 i e g
    else if e.prot = 4 then
      let (s', ok) := s.reconstruct e g
      if ok ∨ !s.par.formed then s'.plannedDone g ok else s.askRemote 0 i e g
    else if e.prot = 2 ∧ s.par.formed then s.askRemote 0 i e g
    else (s.poisonGranule g).plannedDone g false
  | none => s.plannedDone g false

/-- The first granule of a list that maps to the pseudo-channel and whose bank is ready. -/
def State.firstReady (s : State) (l : List Nat) (p mc : Nat) : Option Nat :=
  l.find? fun g => pcOf (g * 64) = p && (s.pc p).actReady (bankOfG g) mc

/-- The rebuild's next move needs a position at the pseudo-channel (R239, R247). -/
def State.rebuildWants (s : State) (p : Nat) : Bool :=
  match s.ecc.rebuild with
  | none => false
  | some n =>
    s.fld R.PWR_STATUS_LEVEL ≠ 8 &&
      match rebuildRow s.parityExtents (n / 8) with
      | none => false
      | some (e, row) =>
        match s.rebuildMember e row (n % 8) with
        | some g => (s.groupSources e g).any fun m => pcOf (m * 64) = p && !s.offStack m
        | none => false

/-- The ECC block's own use of a position: reconstruction; in a SCRUB slot the writes that follow such reads; then, where
`verify` is set and the rebuild leaves the position, verify reads (R229, R239, R247). The flag tells whether it used the
position. -/
def State.eccPosition (s : State) (p mc : Nat) (verify scrub : Bool) : State × Bool :=
  match s.firstReady s.ecc.recon p mc with
  | some g =>
    let s := (s.closedAt p g mc false).recover g
    (if scrub then s.markScrub g else s, true)
  | none =>
    match (if scrub then firstWrite (fun e => e.scrub && (s.pc p).actReady (bankOfG e.g) mc) (s.pc p).wq [] else none) with
    | some e => ((s.popWrite p e).closedAt p e.g mc true, true)
    | none =>
      match (if verify && !s.rebuildWants p then s.firstReady s.ecc.verify p mc else none) with
      | some g => ((s.closedAt p g mc false).verifyRead g, true)
      | none => (s, false)

/-- What a slot's positions carry from one to the next: the write of a partial write whose read has just issued, and the
cycles of the positions left idle. -/
structure SlotRun where
  write : Option WqEntry
  idle : List Nat
  deriving DecidableEq, Repr

/-- The call whose window a correcting writeback belongs to runs, and a PLANNED slot of that window follows, in which it is to
be inserted (R54). -/
def State.insertAhead (s : State) (p slot call : Nat) : Bool :=
  (match s.seq.run with | some r => r.key = call | none => false) && s.plannedAhead p slot

/-- One granule position of an ACCESS slot. The write of a partial write follows its read (R125); a correcting writeback
comes next that no PLANNED slot of its window takes (R54); reads come before writes unless the queue has filled (R209). -/
def State.accessPosition (s : State) (a : SlotRun) (p : Nat) (only : Option Nat) (slot mc : Nat) (last : Bool) :
    State × SlotRun :=
  let s := s.setPc p ((s.pc p).closeIdle mc)
  match a.write with
  | some e => (s.column p e.g mc true, { a with write := none })
  | none =>
    match ((s.pc p).inserted.find? fun e => (s.pc p).colReady e.1 mc && !s.insertAhead p slot e.2.2) with
    | some e => ((s.setPc p { s.pc p with inserted := (s.pc p).inserted.erase e }).column p e.1 mc true, a)
    | none =>
      let w := s.pickWrite p only mc
      let r := s.pickRead p only mc last
      match (if (s.pc p).wqFull then (w, r) else (none, r)), w with
      | (some w, _), _ => (s.issueWrite p w mc, a)
      | (none, some r), _ =>
        let s := s.issueRead p r mc
        ((if r.through then s.wqEnter r.g r.tenant false r.move r.key else s).unpark r.key,
          if r.rmw then { a with write := some ⟨r.g, false, r.tenant, r.move, false, 0⟩ } else a)
      | (none, none), some w => (s.issueWrite p w mc, a)
      | (none, none), none =>
        match s.eccPosition p mc (!s.hasScrubSlot p) false with
        | (s, true) => (s, a)
        | (s, false) => (s, { a with idle := a.idle ++ [mc] })

/-- A cushion line that lies outside its tenant's permitted ways (R142). -/
def State.strayLine (s : State) (c : CLine) : Bool := !(s.waysOf c.tenant).contains c.way

/-- After a change of mode the stray lines are written back and invalidated, in ACCESS slots at their pseudo-channel
(R142). One that a call holds by a CUSH slot stays until the call has completed (R111). -/
def State.sweepStray (s : State) (p : Nat) : State :=
  if !s.acc.sweepLines then s
  else
    let s := match s.acc.lines.find? (fun c => s.strayLine c && !s.cushHeld c.line && pcOf (c.line * 128) = p) with
      | some c => (s.writeBack c).dropLine c.line
      | none => s
    if s.acc.lines.any fun c => s.strayLine c then s else s.accUp fun a => { a with sweepLines := false }

/-- The number of weighted ACCESS and GUARD granule positions of the frame before a slot (R314). -/
def State.posBase (s : State) (p slot : Nat) : Nat :=
  ((List.range slot).map fun k => match s.slotUse p k with | .access none => 12 | .guard => 8 | _ => 0).sum

/-- The tenants that take granule positions `base` to `base + n - 1` in strict mode; every tenant in shared mode. -/
def State.posTenants (s : State) (base n : Nat) : List (Option Nat) :=
  if s.strict then
    let seq := s.wrrSeq
    (List.range n).map fun j => some (seq.getD ((base + j) % 256) 64)
  else List.replicate n none

/-- A slot begins to run at a pseudo-channel: the positions that an earlier one left idle are gone. -/
def State.slotBegins (s : State) (p slot : Nat) : State :=
  let s := s.slotTime slot
  if (s.pc p).idle = [] then s else s.setPc p { s.pc p with idle := [] }

/-- ACCESS_SLOT: twelve granule positions. A correcting writeback issues here, with no slip, once no PLANNED slot of the
window follows (R54). -/
def State.accessSlot (s : State) (p slot : Nat) : State :=
  if !s.slotRuns p slot then s
  else
    match s.slotUse p slot with
    | .access only =>
      let s := s.slotBegins p slot
      let s := s.setPc p { s.pc p with accSlots := (s.pc p).accSlots + 1 }
      let s := s.sweepStray p
      let who := match only with
        | some t => List.replicate 12 (some t)
        | none => s.posTenants (s.posBase p slot) 12
      let a := (numbered who).foldl (fun (a : State × SlotRun) j =>
        a.1.accessPosition a.2 p j.2 slot (s.slotMc slot + 4 * j.1) (j.1 = 11)) (s, ⟨none, []⟩)
      a.1.setPc p { a.1.pc p with idle := a.2.idle, idleScrub := false }
    | _ => s

/-- ACCESS_SLOT. -/
def execAccessSlot (pc slot : Nat) (s : State) : Out := .next (s.accessSlot pc slot)

/-- A waiting write has its turn: no wait before it shares a granule with it, and what it waits for has come (R209, R210). -/
def State.waitReady (s : State) (before : List WaitWrite) (w : WaitWrite) : Bool :=
  !(before.any fun v => v.gs.any w.gs.contains) &&
    match w.who with
    | .entry e => s.wqFits (pcOf (e.g * 64)) 1 && !s.readQueued e.g && !s.stackNapping (stackOfPc (pcOf (e.g * 64)))
    | .req _ => !s.writeShort w.gs w.needs true

/-- A waiting write has granules at the pseudo-channel. -/
def WaitWrite.at (w : WaitWrite) (p : Nat) : Bool := w.gs.any fun g => pcOf (g * 64) = p

/-- The first wait of a list that writes at the pseudo-channel and has its turn. -/
def State.firstWait (s : State) (p : Nat) (before : List WaitWrite) : List WaitWrite → Option WaitWrite
  | [] => none
  | w :: t =>
    if w.at p && s.waitReady before w then some w else s.firstWait p (w :: before) t

/-- A write that waited for its queue enters it, or the request that waited goes on (R209, R210). -/
def State.queueAdmit (s : State) (p : Nat) : State :=
  match s.firstWait p [] s.smc.waits with
  | none => s
  | some w =>
    let s := s.smcUp fun m => { m with waits := m.waits.erase w }
    match w.who with
    | .entry e => (s.wqPush (pcOf (e.g * 64)) e).unpark e.key
    | .req r => s.dirUp fun d => { d with ready := d.ready ++ [{ r with turn := true }] }

/-- A bank's idle timer ends, and its row is closed at the first command cycle of an ACCESS slot that Table 10.3 allows
(R207): in the slot under way when that is one. Otherwise the next ACCESS slot closes it. -/
def State.idlePrecharge (s : State) (p b : Nat) : State :=
  match mget (s.pc p).idleAt b with
  | none => s
  | some t =>
    let u := s.toTime (ceilDiv (t * 5) 16)
    let slot := (u.now - u.frameStart) / 15
    let access : Bool := match u.slotUse p slot with | .access _ => u.slotRuns p slot | _ => false
    if access && reached (s.pc p).wrTo b 0 u.mcNow then u.setPc p ((u.pc p).closeBank b) else s

/-- BANK_IDLE_PRECHARGE. -/
def execBankIdlePrecharge (pc bank : Nat) (s : State) : Out := .next (s.idlePrecharge pc bank)

/-! ### GUARD slots (R52, R53, R214) -/

/-- The writes that a GUARD slot drains: those that a queued planned read matches first, at most 8. -/
def guardOrder (x : Pc) : List WqEntry :=
  let hit := fun (e : WqEntry) => x.planned.any fun c => !c.write && c.g = e.g
  ((x.wq.filter hit) ++ x.wq.filter fun e => !hit e).take 8

/-- GUARD_SLOT: the drain, the drain waits that it makes good, and the precharge of every bank. DESIGN CHOICE (entry 67): a
write whose bank is not ready at its position is passed over for a later one of another granule, which R52's queue order
leaves open. -/
def State.guardSlot (s : State) (p slot : Nat) : State :=
  if !s.slotRuns p slot ∨ s.slotUse p slot ≠ .guard then s
  else
    let s := s.slotTime slot
    let mc := s.slotMc slot
    let (s, done) := (numbered (s.posTenants (s.posBase p slot) 8)).foldl (fun (acc : State × List Nat) k =>
      let m := mc + 4 * k.1
      let x := acc.1.pc p
      match firstWrite (fun e => forTenant k.2 e.tenant && x.colReady e.g m)
          (guardOrder { x with wq := x.wq.filter (acc.1.accessMay p) }) [] with
      | some e => (acc.1.issueWrite p e m, e.g :: acc.2)
      | none => acc) (s, [])
    let left := (s.pc p).wq
    let waits := ((s.pc p).planned.filter fun c => !c.write && done.contains c.g && !(left.any fun e => e.g = c.g)).length
    let s := match s.runCall with
      | some (_, c) => if waits = 0 then s else s.count (R.FTM_TS_WAITS_DRAIN_WAITS.at (0x20 * c.tenant)) waits
      | none => s
    let x := s.pc p
    s.setPc p { x with openRows := [], idleAt := [] }

/-- GUARD_SLOT. -/
def execGuardSlot (pc slot : Nat) (s : State) : Out := .next (s.guardSlot pc slot)

/-! ### PLANNED slots (R211 to R213, R236, R248) -/

/-- Zero bytes of a granule. -/
def zeroGranule : List Byte := List.replicate 64 0

/-- A planned read finds its granule lost: zeros are delivered, and the calling tenant has a fault entry: once the ECC block
has handled the granule, where it is to (`handle`), else at once with DETAIL 0 (R248). -/
def State.plannedLost (s : State) (c : CallRec) (i : Nat) (e : Extent) (g : Nat) (handle : Bool) : State :=
  let f : PlanFault := ⟨g, c.tenant, handleOf e.gen i, g * 64 - e.start * 65536⟩
  let s := s.runUp fun r => { r with poisoned := true }
  if handle then s.eccUp fun x => { x with
    recon := if x.recon.contains g then x.recon else x.recon ++ [g]
    planFaults := x.planFaults ++ [f] }
  else s.asyncFault f.tenant Status.poisoned f.handle f.off 0

/-- What a planned read gives (R236, R248): zeros of a unit that was empty at the lock; corrected data, whose writeback is
to be inserted in a slot after the one that begins at cycle `mc0` (R54). -/
def State.plannedRead (s : State) (c : CallRec) (g mc0 : Nat) : State × List Byte :=
  if c.emptyUnits.contains (g / 1024) then (s, zeroGranule)
  else
    match s.extentAt (g * 64) with
    | none => (s, zeroGranule)
    | some (i, e) =>
      match s.decoded g with
      | (s, .lost) => ((s.uncorrectable g).plannedLost c i e g true, zeroGranule)
      | (s, d) =>
        let s := if d ≠ .fixed then s
          else
            let s := s.noteFix g
            let y := s.pc (pcOf (g * 64))
            s.setPc (pcOf (g * 64)) { y with inserted := y.inserted ++ [(g, mc0, c.key)] }
        if s.tagBad e g then
          ((((s.count R.ECC_POISON_MISDIRECT).uncorrectable g).plannedLost c i e g true), zeroGranule)
        else if metaPoison (s.gmeta g) ∨ s.ecc.remap.any (fun x => x.1 = g && x.2) then
          (s.plannedLost c i e g ((e.prot = 2 || e.prot = 4) && s.par.formed), zeroGranule)
        else (s, s.granule g)

/-- A planned command issues at cycle `mc` of the slot that begins at `mc0`: an activate and a column command with
auto-precharge. -/
def State.issuePlanned (s : State) (c : CallRec) (p : Nat) (x : PlannedCmd) (mc0 mc : Nat) : State :=
  let y := s.pc p
  let s := s.setPc p { y.closedPage x.g mc x.write with planned := y.planned.drop 1, late := false }
  if x.write then (s.plannedStore x).tagDown x.tag
  else
    let (s, bs) := s.plannedRead c x.g mc0
    s.seqUp fun q => { q with landings := q.landings ++ [⟨p, mc + s.fld R.FTM_REBASE_PL_LAT, x, bs⟩] }

/-- A write that is inserted in the PLANNED stream: one of R53 case 3, or a correcting writeback of an earlier slot
(R54, R212). -/
inductive Inserted where
  | drain (e : WqEntry)
  | fix (e : Nat × Nat × Nat)
  deriving DecidableEq, Repr

/-- The write that goes ahead of the planned command of call `call` at a position of the slot that begins at `mc0`: a
writeback of its window that is due; else the oldest pending write to the granule of the read at the head of the queue. -/
def Pc.insertDue (y : Pc) (call mc0 : Nat) : Option Inserted :=
  match y.inserted.find? fun e => e.2.1 ≠ mc0 && e.2.2 = call with
  | some e => some (.fix e)
  | none =>
    match y.planned.head? with
    | some x => if x.write ∨ mc0 < x.entered + 4 then none else (y.wq.find? fun e => e.g = x.g).map .drain
    | none => none

/-- Granule of an inserted write. -/
def Inserted.g : Inserted → Nat
  | .drain e => e.g
  | .fix e => e.1

/-- An inserted write issues, and the plane slips. -/
def State.issueInserted (s : State) (p : Nat) (x : Inserted) (mc : Nat) : State :=
  match x with
  | .drain e => ((s.popWrite p e).closedAt p e.g mc true).slipBy R.FTM_TS_EVENTS_DRAIN 1 57
  | .fix e =>
    ((s.setPc p { s.pc p with inserted := (s.pc p).inserted.erase e }).closedAt p e.1 mc true).slipBy
      R.FTM_TS_EVENTS_ECC_WB 1 57

/-- One granule position of a PLANNED slot that begins at `mc0`. A command whose bank is not ready holds the position and
those after it until the bank is ready; the hold of a planned command is counted once (R213). -/
def State.plannedPosition (s : State) (p mc0 mc : Nat) : State :=
  match s.runCall with
  | none => s
  | some (_, c) =>
    let y := s.pc p
    match y.insertDue c.key mc0 with
    | some x => if y.actReady (bankOfG x.g) mc then s.issueInserted p x mc else s
    | none =>
      match y.planned.head? with
      | none => s
      | some x =>
        if mc0 < x.entered + 4 then s
        else if y.actReady (bankOfG x.g) mc then s.issuePlanned c p x mc0 mc
        else if y.late then s
        else (s.count (R.SMC_HAZ_BANK_LATE.at (stackOfPc p * 0x1000))).setPc p { y with late := true }

/-- PLANNED_SLOT: queued planned commands take its positions in order. -/
def State.plannedSlot (s : State) (p slot : Nat) : State :=
  if !s.slotRuns p slot ∨ s.slotUse p slot ≠ .planned then s
  else
    let s := s.slotTime slot
    let mc := s.slotMc slot
    (List.range 12).foldl (fun s j => s.plannedPosition p mc (mc + 4 * j)) s

/-- PLANNED_SLOT. -/
def execPlannedSlot (pc slot : Nat) (s : State) : Out := .next (s.plannedSlot pc slot)

/-- A planned read's granule is presented at the planned port, PL_LAT after its position, and lands in the stores. -/
def State.dataReturn (s : State) (p : Nat) : State :=
  match s.seq.landings.find? fun l => l.pc = p with
  | none => s
  | some l =>
    let s := s.seqUp fun q => { q with landings := q.landings.erase l }
    let s := s.toTime (ceilDiv (l.at_ * 5) 16)
    let x := l.cmd
    ((s.placeBytes x.kind x.sel x.addrs x.len x.off (x.part l.data)).foldl (fun s e => s.land e) s).tagDown x.tag

/-- SLAB_READ_DATA_RETURN. -/
def execSlabReadDataReturn (pc : Nat) (s : State) : Out := .next (s.dataReturn pc)

/-! ### REFRESH slots (R48, R49) -/

/-- The bank within its group that a REFRESH slot refreshes. -/
def State.refreshBank (s : State) (p slot : Nat) : Nat :=
  if !s.ftm.hot.contains (stackOfPc p) then s.frame % 4
  else if s.act (R.FTM_TPL_CFG_HOT_SLOT.at (0x80 * s.tplOf p)) = slot then (2 * s.frame + 1) % 4
  else 2 * s.frame % 4

/-- REFRESH_SLOT: sixteen per-bank refreshes, each closing its bank's row and keeping it busy for 256 cycles. -/
def State.refreshSlot (s : State) (p slot : Nat) : State :=
  if !s.slotRuns p slot ∨ s.slotUse p slot ≠ .refresh then s
  else
    let s := s.slotTime slot
    let mc := s.slotMc slot
    let b := s.refreshBank p slot
    let x := s.pc p
    let y := (List.range 16).foldl (fun (x : Pc) i =>
      let k := 16 * (i / 4) + 4 * (i % 4) + b
      { x with
        openRows := mdel x.openRows k
        idleAt := mdel x.idleAt k
        busyTo := mset x.busyTo k (mc + 3 * i + 256) }) { x with busyTo := x.busyTo.filter fun e => mc < e.2 }
    s.setPc p y

/-- REFRESH_SLOT. -/
def execRefreshSlot (pc slot : Nat) (s : State) : Out := .next (s.refreshSlot pc slot)

/-! ### CAL slots (R50) -/

/-- Difference of two numbers. -/
def gap (a b : Nat) : Nat := max a b - min a b

/-- CAL_SLOT: the next calibration step: periodic interface training in every 4,096th slot, ZQ in every 256th since the
last ZQ or after a temperature change, else read and write tracking in turn. What the data bus steps find, read latency
`lat`, awaits the boundary (R51). DESIGN CHOICE (entry 67): until a pseudo-channel's first ZQ calibration the change of
temperature is counted from its first CAL slot. DESIGN CHOICE (entry 54): a 4,096th slot in which ZQ falls due runs the training alone;
the regular ZQ of that slot is passed over, and one that the temperature calls for runs in the next slot. -/
def State.calSlot (s : State) (p slot lat : Nat) : State :=
  if !s.slotRuns p slot ∨ s.slotUse p slot ≠ .cal then s
  else
    let s := s.slotTime slot
    let total := mgetD s.ftm.calTotal p 0 + 1
    let n := mgetD s.ftm.calCount p 0 + 1
    let temp := mgetD s.ftm.temps (stackOfPc p) 0
    let moved : Bool := match mget s.ftm.zqTemp p with
      | some t => s.act R.FTM_THERM_ZQ_DELTA_C ≤ gap temp t
      | none => false
    let train := total % 4096 = 0
    let zq := !train && (256 ≤ n || moved)
    let s := s.ftmUp fun f => { f with
      calTotal := mset f.calTotal p total
      calCount := mset f.calCount p (if zq || 256 ≤ n then 0 else n)
      zqTemp := if zq || (mget f.zqTemp p).isNone then mset f.zqTemp p temp else f.zqTemp }
    if train || (!zq && total % 2 = 1) then
      s.ftmUp fun f => { f with calPend := (f.calPend.filter fun e => e.1 ≠ p) ++ [(p, lat)] }
    else s

/-- CAL_SLOT. -/
def execCalSlot (pc slot lat : Nat) (s : State) : Out := .next (s.calSlot pc slot lat)

/-! ### SCRUB slots (R239) -/

/-- One granule position of a SCRUB slot: reconstruction, correcting writes, then verify reads. What they leave is kept for
the rebuild, the re-key sweep and the scrubber, in this order, whose reads are rows of their own. -/
def State.scrubPosition (s : State) (p mc : Nat) : State :=
  match s.eccPosition p mc true true with
  | (s, true) => s
  | (s, false) => s.setPc p { s.pc p with idle := (s.pc p).idle ++ [mc], idleScrub := true }

/-- SCRUB_SLOT. -/
def State.scrubSlot (s : State) (p slot : Nat) : State :=
  if !s.slotRuns p slot ∨ s.slotUse p slot ≠ .scrub then s
  else
    let s := s.slotBegins p slot
    (List.range 12).foldl (fun s j => s.scrubPosition p (s.slotMc slot + 4 * j)) s

/-- SCRUB_SLOT. -/
def execScrubSlot (pc slot : Nat) (s : State) : Out := .next (s.scrubSlot pc slot)

/-- An idle position of the running slot that has not passed by time `t` and at which the granule's bank is ready, in a
SCRUB slot, or, when `access` is set, in an ACCESS slot (R239, R240). -/
def State.idleAt (s : State) (p g t : Nat) (access : Bool) : Option Nat :=
  if (s.pc p).idleScrub = !access then
    (s.pc p).idle.find? fun c => mcOf t ≤ c && (s.pc p).actReady (bankOfG g) c
  else none

/-- A closed-page command of the ECC block takes an idle position. -/
def State.takeIdle (s : State) (p g c : Nat) (write : Bool) : State :=
  let s := s.closedAt p g c write
  s.setPc p { s.pc p with idle := (s.pc p).idle.erase c }

end Sys2Proof.Machine
end

