-- ==== Sys2Proof/Machine/Frame.lean ====
section
/-! DEFINITION. The frame timer's own work (chapter 3, R437, R391): the tests and the commitment of a commit point,
stack temperatures, calibration results and `PL_LAT`, applied FTM changes, window extension and strict overruns, and the
frame itself. What the other blocks do at a frame boundary is in Boundary. -/

namespace Sys2Proof.Machine

/-! ### Windows (R8, R56, R57, R58) -/

/-- CK_FR cycles in a frame (Table 3.1). -/
def frameCk : Nat := 7296

/-- Window length of a call in frames: the 32 guard cycles and the declared count, in strict mode with STRICT_SLACK. -/
def State.framesFor (s : State) (c : CallRec) : Nat :=
  ceilDiv (32 + s.declaredCycles c + (if s.strict then s.act R.FTM_CTRL_STRICT_SLACK else 0)) frameCk

/-- The tenant's longest cyclic run of assigned frames; none when the rota assigns it every frame. -/
def State.longestRun (s : State) (t : Nat) : Option Nat :=
  let n := max 1 (s.act R.FTM_ROTA_LEN_LEN)
  let m := ((List.range (2 * n)).foldl (fun (a : Nat × Nat) k =>
    let c := if s.rotaOwner k = some t then a.1 + 1 else 0
    (c, max a.2 c)) (0, 0)).2
  if n ≤ m then none else some m

/-- Frames `f` to `f + n - 1` are all assigned to the tenant. -/
def State.rotaFits (s : State) (t f n : Nat) : Bool := (List.range n).all fun k => s.rotaOwner (f + k) = some t

/-- The running window's call has its last cycle, slips so far included, before boundary `f + 1` of frame `f` (R57). -/
def State.endsBy (s : State) (w : Window) (c : CallRec) : Bool :=
  let slip := match s.seq.run with | some r => if r.key = c.key then r.slip else 0 | none => 0
  32 + s.declaredCycles c + slip ≤ frameCk * (s.frame + 1 - w.first)

/-- The compute plane will be free at the next boundary (R57): no window reaches beyond it. -/
def State.planeFree (s : State) : Bool :=
  s.ftm.windows.all fun w =>
    w.first ≤ s.frame && (match s.seq.calls.find? (fun c => c.key = w.call) with
      | some c => s.endsBy w c
      | none => true)

/-! ### The tests of R437 -/

/-- The templates in force have at least the PLANNED count and at most the gap that the plan declares, at every
pseudo-channel of its PC_MASK. -/
def State.templatesFit (s : State) (h : Header) : Bool :=
  (List.range 512).all fun p =>
    !h.pcMask.testBit p ||
      (let k := s.tplOf p
       h.planned ≤ s.act (R.FTM_TPL_CFG_PLANNED.at (0x80 * k)) && s.act (R.FTM_TPL_CFG_MAX_GAP.at (0x80 * k)) ≤ h.maxGap)

/-- The first test that a queued call fails: its detail code, and whether it ends the call at any commit point. -/
def State.commitTest (s : State) (c : CallRec) : Option (Nat × Bool) :=
  let h := headerOf (s.planImage c.plan)
  if s.bindsRetired c.binds then some (14, true)
  else if !c.locked then none
  else if s.available < h.fronds then some (4, true)
  else if !s.templatesFit h then some (2, false)
  else if h.leadLimit < leadOf h.leadBase (s.fld R.FTM_REBASE_PL_LAT + 8) then some (7, false)
  else if s.strict && (match s.longestRun c.tenant with | some n => n < s.framesFor c | none => false) then some (3, false)
  else none

/-- Stacks whose pseudo-channels a plan names. -/
def stacksOfMask (mask : Nat) : List Nat := (List.range 8).filter fun n => bitsOf mask (64 * n) 64 ≠ 0

/-- No stack that the plan names is entering, in or leaving self-refresh (R219). -/
def State.awake (s : State) (c : CallRec) : Bool :=
  !s.deep && (stacksOfMask (headerOf (s.planImage c.plan)).pcMask).all fun n => s.stackSt n ≤ 1 || s.stackSt n = 5

/-- A call that the commit point may commit. -/
def State.eligible (s : State) (c : CallRec) : Bool :=
  !c.committed && c.locked && (s.commitTest c).isNone && s.awake c

/-- A committed call whose window has not opened: slips have moved it back (R56). -/
def State.movedBack (s : State) (c : CallRec) : Bool :=
  c.committed && s.ftm.windows.any fun w => w.call = c.key && s.frame < w.first

/-- Test every queued call in order; those that fail so end. Of a call that is committed already and still waits, the retired
pseudo-channels alone are tested (R223). -/
def State.testCalls (s : State) : State :=
  let s := (s.queuedCalls.filter s.movedBack).foldl (fun s c =>
    if s.bindsRetired c.binds then s.endCall c (queuedEnd Status.callFault 14 0) else s) s
  let s := (s.queuedCalls.filter fun c => !c.committed).foldl (fun s c =>
    match s.commitTest c with
    | none => s
    | some (d, always) => if always || !c.tested then s.endCall c (queuedEnd Status.callFault d 0) else s) s
  s.seqUp fun q => { q with calls := mapIf (fun c => c.locked) (fun c => { c with tested := true }) q.calls }

/-! ### The choice (R58, R59) -/

/-- Shared-mode weight. -/
def State.ftmWeight (s : State) (t : Nat) : Nat := s.act ((R.FTM_WEIGHT_WEIGHT.at (8 * (t / 8))).up (8 * (t % 8)))

/-- The first eligible call of a tenant in call-queue order. -/
def State.firstEligible (s : State) (t : Nat) (p : CallRec → Bool) : Option CallRec :=
  s.seq.calls.find? fun c => c.tenant = t && s.eligible c && p c

/-- The tenants in the order of the rotating priority. -/
def rotated (prio : Nat) : List Nat := (List.range 64).map fun k => (prio + k) % 64

/-- The shared-mode choice: the call and its tag, none for a tenant of weight 0. DESIGN CHOICE (entry 54): frames(c) × 256 ÷
w_t is rounded down to a whole number, as the rule gives no rounding. -/
def State.sharedChoice (s : State) : Option (CallRec × Option Nat) :=
  let cs := (rotated s.ftm.prio).filterMap fun t => (s.firstEligible t fun _ => true).map fun c => (t, c)
  let tag := fun (e : Nat × CallRec) =>
    max s.ftm.v (mgetD s.ftm.f e.1 0) + s.framesFor e.2 * 256 / max 1 (s.ftmWeight e.1)
  let best := (cs.filter fun e => s.ftmWeight e.1 ≠ 0).foldl (fun (m : Option (Nat × CallRec)) e =>
    match m with
    | none => some e
    | some x => if tag e < tag x then some e else some x) none
  match best with
  | some e => some (e.2, some (tag e))
  | none => cs.head?.map fun e => (e.2, none)

/-- The strict-mode choice. -/
def State.strictChoice (s : State) : Option (CallRec × Option Nat) :=
  match s.rotaOwner (s.frame + 1) with
  | none => none
  | some t => (s.firstEligible t fun c => s.rotaFits t (s.frame + 1) (s.framesFor c)).map fun c => (c, none)

/-- Commit a call to a window that opens at the next boundary. DESIGN CHOICE (entry 54): a commitment in strict mode leaves
the rotating priority where it is, as R59 states that priority for shared mode. DESIGN CHOICE (entry 67): the commitment of a
tenant of weight 0, for which R59 defines no tag, leaves V and F_t as they are. -/
def State.commitCall (s : State) (c : CallRec) (tag : Option Nat) : State :=
  let w : Window := ⟨c.key, c.tenant, s.frame + 1, s.framesFor c, 0⟩
  let s := s.seqUp fun q => { q with calls := mapIf (fun x => x.key = c.key) (fun x => { x with committed := true }) q.calls }
  s.ftmUp fun f => { f with
    windows := f.windows ++ [w]
    prio := if s.strict then f.prio else (c.tenant + 1) % 64
    v := tag.getD f.v
    f := match tag with | some x => mset f.f c.tenant x | none => f.f }

/-- A change awaits a free boundary (R47). -/
def State.heldForFree (s : State) : Bool :=
  s.ftm.applyPending || s.ftm.due.isSome || s.fld R.FTM_REBASE_DOWN_PENDING = 1 || s.smc.retireCmd ≠ [] ||
    s.smc.retireDue ≠ []

/-- The time is that of the latest frame boundary, the only one at which what awaits a boundary takes effect (R46, R47,
R51, R221). -/
def State.atBoundary (s : State) : Bool := s.now = s.frameStart

/-- The next boundary lies at least 3 µs after the wake of the fronds began (R395). -/
def State.frondsReady (s : State) : Bool :=
  s.fld R.PWR_STATUS_GATED = 0 ||
    (match s.pwr.gateWake with | some t => t ≤ s.frameStart + frameCycles | none => false)

/-- COMMIT_POINT: at the start of slot 120, the tests and then the commitment. -/
def State.commitPoint (s : State) : State :=
  if !s.pwr.timer then s
  else
    let s := (s.toTime (s.frameStart + 1800)).testCalls
    let s := if s.heldForFree then s.count R.FTM_STATUS_HELD_COMMITS else s
    let skip := s.frame % 8 < s.fld R.PWR_STATUS_LEVEL
    let s := if skip then s.count R.PWR_COUNTS_SKIPPED else s
    if s.heldForFree ∨ skip ∨ !s.planeFree ∨ !s.frondsReady then s
    else
      match (if s.strict then s.strictChoice else s.sharedChoice) with
      | some (c, tag) => s.commitCall c tag
      | none => s

/-- COMMIT_POINT. -/
def execCommitPoint (s : State) : Out := .next s.commitPoint

/-! ### Temperatures (R49) -/

/-- The sensors of a stack are read; its hot slot changes use from the next boundary. -/
def State.tempRead (s : State) (n : Nat) (sensors : List Nat) : State :=
  if 8 ≤ n ∨ sensors = [] then s
  else
    let t := sensors.foldl max 0
    let hot := s.act R.FTM_THERM_HOT_C ≤ t
    let cool := t < s.act R.FTM_THERM_HOT_C - s.act R.FTM_THERM_HYST_C
    s.ftmUp fun f => { f with
      temps := mset f.temps n t
      hotNext := if hot then (if f.hotNext.contains n then f.hotNext else f.hotNext ++ [n])
        else if cool then f.hotNext.filter (· ≠ n) else f.hotNext }

/-- STACK_TEMP_READ. -/
def execStackTempRead (stack : Nat) (sensors : List Nat) (s : State) : Out := .next (s.tempRead stack sensors)

/-- The hot slots that change use do so, HOT_STACKS follows, and HOT_CHANGE is raised. -/
def State.hotSwitch (s : State) : State :=
  let now_ := (List.range 8).filter s.ftm.hotNext.contains
  let before := (List.range 8).filter s.ftm.hot.contains
  if now_ = before then s
  else
    let s := s.ftmUp fun f => { f with hot := now_ }
    (s.setFld R.FTM_THERM_HOT_STACKS ((now_.map (2 ^ ·)).sum)).raise 13 9

/-! ### Calibration results and PL_LAT (R51, R101, R218) -/

/-- One result, judged against `old`, the `PL_LAT` before the boundary. -/
def State.calResult (s : State) (old : Nat) (e : Nat × Nat) : State :=
  let x := s.pc e.1
  let lat := e.2 % 128
  if x.state ≠ 1 then s
  else if old < lat ∧ old + 8 < lat + 2 then
    let n := min (x.calFaults + 1) 15
    let s := (s.setPc e.1 { x with calFaults := n }).raise (32 + stackOfPc e.1) 9
    if s.fld (R.SMC_CFG_CALFAULT_RETIRE.at (stackOfPc e.1 * 0x1000)) ≤ n then s.retireFault e.1 2 else s
  else s.setPc e.1 { x with rdLat := lat, calFaults := 0 }

/-- A lower value awaits a free boundary when the largest read latency plus 2 falls below `PL_LAT`. -/
def State.downCheck (s : State) : State :=
  s.setFld R.FTM_REBASE_DOWN_PENDING (if s.latNeeded < s.fld R.FTM_REBASE_PL_LAT then 1 else 0)

/-- A re-base slip of the running call: only the main pointer waits and the lead grows, or the lead would pass its limit
and the call ends. -/
def State.rebaseRun (s : State) (delta : Nat) : State :=
  match s.runCall with
  | none => s
  | some (r, c) =>
    let n := ceilDiv (delta * 19) 16
    if (headerOf (s.planImage c.plan)).leadLimit < r.lead + n then s.leadFault
    else
      (s.slipBy R.FTM_TS_EVENTS_REBASE 1 n).runUp fun r =>
        { r with leadIn := r.leadIn + n, stall := r.stall + n, lead := r.lead + n }

/-- The results of one boundary are judged and applied together; one that raises a latency above `PL_LAT` re-bases. -/
def State.applyLats (s : State) (l : List (Nat × Nat)) : State :=
  let old := s.fld R.FTM_REBASE_PL_LAT
  let s := l.foldl (fun s e => s.calResult old e) s
  let rises := l.any fun e => (s.pc e.1).state = 1 && old < (s.pc e.1).rdLat
  if rises then
    let new := s.latNeeded
    let s := ((s.setFld R.FTM_REBASE_PL_LAT new).countWrap R.FTM_REBASE_REBASES).raise 13 8
    (s.setFld R.FTM_REBASE_DOWN_PENDING 0).rebaseRun (new - old)
  else s.downCheck

/-- CAL_RESULT_APPLY: the results that have awaited the boundary. -/
def State.calApply (s : State) : State :=
  let l := s.ftm.calDue
  if l = [] ∨ !s.atBoundary then s else (s.ftmUp fun f => { f with calDue := [] }).applyLats l

/-- CAL_RESULT_APPLY. -/
def execCalResultApply (s : State) : Out := .next s.calApply

/-- PL_LAT_DOWN: a lower `PL_LAT` is applied at a free boundary, without a slip. -/
def State.latDown (s : State) : State :=
  if s.ftm.free ∧ s.atBoundary ∧ s.fld R.FTM_REBASE_DOWN_PENDING = 1 then
    (s.setFld R.FTM_REBASE_PL_LAT s.latNeeded).setFld R.FTM_REBASE_DOWN_PENDING 0
  else s

/-- PL_LAT_DOWN. -/
def execPlLatDown (s : State) : Out := .next s.latDown

/-! ### Applied FTM changes (R46, R142, R162) -/

/-- Template `k` holds the same slot types and HOT_SLOT in two states. -/
def sameTemplate (a b : State) (k : Nat) : Bool :=
  a.act (R.FTM_TPL_CFG_HOT_SLOT.at (0x80 * k)) = b.act (R.FTM_TPL_CFG_HOT_SLOT.at (0x80 * k)) &&
    (List.range 128).all fun i => a.tplSlot k i = b.tplSlot k i

/-- FTM_APPLY_EFFECT: at a free boundary the words of FTM0 and FTM1 that had been applied by then act. A change of mode
starts the sweeps of the cushion and, into strict mode, of the directory. -/
def State.ftmEffect (s : State) : State :=
  match s.ftm.due with
  | none => s
  | some words =>
    if !s.atBoundary then s
    else
      let t := s.ftmUp fun f => { f with due := none, acting := words }
      let changed := (List.range 512).any fun p => s.tplOf p ≠ t.tplOf p || !sameTemplate s t (t.tplOf p)
      let t := if changed then t.raise 13 10 else t
      if s.strict = t.strict then t
      else
        let t := t.accUp fun a => { a with sweepLines := true }
        if t.strict then t.dirUp fun d => { d with evict := true } else t

/-- FTM_APPLY_EFFECT. -/
def execFtmApplyEffect (s : State) : Out := .next s.ftmEffect

/-- DIR_PARTITION_EVICT. -/
def execDirPartitionEvict (bank : Nat) (s : State) : Out := .next (s.partitionEvict bank)

/-! ### Windows at the boundary (R9, R56) -/

/-- The window that closes at the next boundary although its call has not completed. -/
def State.closing (s : State) : Option (Window × CallRec) :=
  match s.ftm.windows.find? (fun w => w.first ≤ s.frame && w.first + w.frames = s.frame + 1) with
  | none => none
  | some w => (s.seq.calls.find? fun c => c.key = w.call).map fun c => (w, c)

/-- The windows that have not opened move back by one frame; in strict mode one whose frames are then not all its tenant's
loses its commitment (R56). -/
def State.moveBack (s : State) : State :=
  let moved := s.ftm.windows.map fun x => if s.frame < x.first then { x with first := x.first + 1 } else x
  let bad := moved.filter fun x => s.strict && s.frame < x.first && !s.rotaFits x.tenant x.first x.frames
  let s := s.ftmUp fun f => { f with windows := moved.filter fun x => !bad.contains x }
  s.seqUp fun q => { q with
    calls := mapIf (fun c => bad.any fun x => x.call = c.key) (fun c => { c with committed := false }) q.calls }

/-- The window is extended by one frame, and the windows after it move back. -/
def State.extend (s : State) (w : Window) : State :=
  let s := s.countWrap (R.FTM_TS_WAITS_EXT_FRAMES.at (0x20 * w.tenant))
  (s.ftmUp fun f => { f with
    windows := mapIf (fun x => x.call = w.call) (fun x => { x with frames := x.frames + 1, ext := x.ext + 1 }) f.windows }).moveBack

/-- A call was committed to the next boundary as the running call was to end before it, and the running call has slipped
past it inside its own window: exactly one call runs at a time, so the committed one moves back (R8, R9, R57). -/
def State.slippedPast (s : State) : Bool :=
  (s.ftm.windows.any fun w => w.first = s.frame + 1) &&
    s.ftm.windows.any fun w => w.first ≤ s.frame && s.frame + 1 < w.first + w.frames && s.seq.calls.any fun c => c.key = w.call

/-- A strict overrun ends the call at its closing boundary. -/
def State.forcedEnd (s : State) (w : Window) : State :=
  let s := s.endWindow Status.callFault 1 0
  (s.count (R.FTM_TS_FRAMES_FORCED_ENDS.at (0x20 * w.tenant))).raise 13 11

/-- The call of a window that closes at the next boundary has not completed: the window is extended, or the call
ends. -/
def State.overrun (s : State) : State :=
  match s.closing with
  | none => if s.slippedPast then s.moveBack else s
  | some (w, _) =>
    if s.strict ∧ s.rotaOwner (s.frame + 1) ≠ some w.tenant then s.forcedEnd w else s.extend w

/-- STRICT_OVERRUN: the closing boundary of a call whose last cycle lies beyond it, in strict mode, when the next frame
is not its tenant's. -/
def State.strictOverrun (s : State) : State :=
  match s.closing with
  | none => s
  | some (w, c) =>
    if s.strict ∧ s.rotaOwner (s.frame + 1) ≠ some w.tenant ∧ !s.endsBy w c then
      (s.toTime (s.frameStart + frameCycles)).forcedEnd w
    else s

/-- STRICT_OVERRUN. -/
def execStrictOverrun (s : State) : Out := .next s.strictOverrun

/-- What has waited for a boundary finds it (R46, R47, R51, R221): calibration results and fault retirements at any, and at a
free one the words applied by then and the retirements by command. Their effects are rows of their own, at the time of the boundary. -/
def State.boundaryDue (s : State) (free : Bool) : State :=
  let s := s.smcUp fun m => { m with retireNow := m.retireNow ++ m.retiring, retiring := [] }
  let s := s.ftmUp fun f => { f with
    calDue := (f.calDue.filter fun e => !f.calPend.any fun x => x.1 = e.1) ++ f.calPend, calPend := [] }
  if !free then s
  else
    let s := s.smcUp fun m => { m with retireDue := m.retireDue ++ m.retireCmd, retireCmd := [] }
    if s.ftm.applyPending then s.ftmUp fun f => { f with
      applyPending := false
      due := some (s.regs.filter fun e => 0xD000 ≤ e.1 && e.1 < 0xF000) }
    else s

/-- The FTM's part of a frame boundary (R9, R41, R47, R49): windows close or are extended, the lent slots return, hot
slots switch, the frame count advances, and the boundary is free when no window runs, opens or closes at it. -/
def State.newFrame (s : State) : State :=
  let next := s.frameStart + frameCycles
  let s := (s.toTime next).overrun
  let free := s.ftm.windows = [] && s.ftm.lent.isNone
  let s := (s.countWrap R.FTM_FRAME_FRAME).hotSwitch
  let s := s.ftmUp fun f => { f with lent := none, free := free }
  { s with frameStart := next }.boundaryDue free

end Sys2Proof.Machine
end

