-- ==== Sys2Proof/Machine/Ports.lean ====
section
/-! DEFINITION. Ethernet ports and transports (chapter 12): sub-ports and their answers to ARP, neighbour and echo frames,
connections, MESSAGE acknowledgement and resending, queue pairs, and what LATENCY_TOL and the queue-pair requests do. -/

namespace Sys2Proof.Machine

/-! ### Sub-ports (R254 to R258, R438) -/

/-- Sub-ports of a port (R254). -/
def State.subCount (s : State) (port : Nat) : Nat := 2 ^ s.fld (R.PRT_CFG_SPLIT.at (0x1000 * port))

/-- Line rate of a sub-port, Mb/s. -/
def State.lineRate (s : State) (port : Nat) : Nat := 800000 / s.subCount port

/-- The port is active in Ethernet mode; in DEEP only the DEEP port is (Table 18.3). -/
def State.portOn (s : State) (port : Nat) : Bool :=
  port < 8 && s.fld (R.PRT_CFG_ENABLE.at (0x1000 * port)) = 1 && s.fld (R.PRT_CFG_RING.at (0x1000 * port)) = 0 &&
    (!s.deep || s.fld R.PWR_CFG_DEEP_PORT = port)

/-- MAC address of a sub-port. -/
def State.macOf (s : State) (port sub : Nat) : Nat := s.fld (R.PRT_MAC_MAC.at (0x1000 * port + 0x40 * sub))

/-- The sub-port accepts and sends frames: none while its MAC address is 0 (R438). -/
def State.subOpen (s : State) (port sub : Nat) : Bool := s.portOn port && sub < s.subCount port && s.macOf port sub ≠ 0

/-- A sub-port that has seen nothing yet. -/
def resetSub : SubPort := ⟨false, [], [], none, 0⟩

def State.sub (s : State) (port sub : Nat) : SubPort := mgetD s.prt.subs (subKey port sub) resetSub

def State.setSub (s : State) (port sub : Nat) (x : SubPort) : State :=
  s.prtUp fun p => { p with subs := mset p.subs (subKey port sub) x }

/-- A discard counted in `PRT_DROPS` of a port. -/
def State.drop (s : State) (port : Nat) (f : Fd) : State := s.count (f.at (0x1000 * port))

/-- A frame's tag is acceptable to MACsec's Strict validation (R258): an installed SA of the port, a good ICV, and a packet number
within the replay window. -/
def State.secOk (s : State) (src : Src) : Bool :=
  match src.sec with
  | none => false
  | some t => t.icvOk && s.prt.rxSas.any fun a => a.port = src.port && a.sci = t.sci && a.an = t.an &&
      a.next ≤ t.pn.toNat + s.fld (R.PRT_MACSEC_REPLAY_WINDOW.at (0x1000 * src.port))

/-- An accepted packet number raises the lowest one that its SA accepts (R258). -/
def State.secTook (s : State) (src : Src) : State :=
  match src.sec with
  | none => s
  | some t => s.prtUp fun p => { p with
      rxSas := mapIf (fun a => a.port = src.port && a.sci = t.sci && a.an = t.an)
        (fun a => { a with next := max a.next (t.pn.toNat + 1) }) p.rxSas }

/-- A frame's destination and tag are those that its sub-port accepts (R256): its own or the broadcast MAC address, and no 802.1Q
tag or the configured one. -/
def State.frameMine (s : State) (src : Src) : Bool :=
  let d := 0x1000 * src.port + 0x40 * src.sub
  (src.dmac.toNat = s.macOf src.port src.sub || src.dmac = 0xFFFFFFFFFFFF) &&
    match src.vlan with
    | none => true
    | some v => s.fld (R.PRT_SPCFG_VLAN_EN.at d) = 1 && s.fld (R.PRT_SPCFG_VLAN.at d) = v.toNat

/-- A frame is accepted by its sub-port, or discarded and counted (R256, R258). -/
def State.frameIn (s : State) (src : Src) : State × Bool :=
  if !s.subOpen src.port src.sub then (s, false)
  else
    let sec := s.fld (R.PRT_CFG_MACSEC.at (0x1000 * src.port)) = 1
    if sec ∧ !s.secOk src then (s.drop src.port R.PRT_DROPS_MACSEC, false)
    else if (!sec ∧ src.sec.isSome) ∨ !s.frameMine src then (s.drop src.port R.PRT_DROPS_UNKNOWN, false)
    else (s.secTook src, true)

/-- A packet that FV8 hardware itself answers with, in the control queue (R310). -/
def State.control (s : State) (src : Src) (bodyLen : Nat) (p : OutPkt) : State :=
  s.egPush src.port src.sub none none none bodyLen p

/-- The sub-port's own IPv4 address. -/
def State.ownIp4 (s : State) (src : Src) (ip : Nat) : Bool :=
  let d := 0x1000 * src.port + 0x40 * src.sub
  s.fld (R.PRT_IP4_VALID.at d) = 1 && s.fld (R.PRT_IP4_IP4.at d) = ip

/-- The sub-port's own IPv6 address. -/
def State.ownIp6 (s : State) (src : Src) (ip : Nat) : Bool :=
  let d := 0x1000 * src.port + 0x40 * src.sub
  s.fld (R.PRT_SPCFG_IP6_VALID.at d) = 1 && s.fld (R.PRT_IP6H_IP6.at d) * 2 ^ 64 + s.fld (R.PRT_IP6L_IP6.at d) = ip

/-- A UDP datagram is for the sub-port: an address of its own and the port `port` (R256, R260). -/
def State.udpMine (s : State) (src : Src) (port : Nat) : Bool :=
  src.dport.toNat = port &&
    if src.dip.toNat / 2 ^ 32 = 0xFFFF then s.ownIp4 src (src.dip.toNat % 2 ^ 32) else s.ownIp6 src src.dip.toNat

/-- A UDP datagram is accepted, or discarded and counted (R256). -/
def State.udpIn (s : State) (src : Src) (port : Nat) : State × Bool :=
  match s.frameIn src with
  | (s, false) => (s, false)
  | (s, true) => if s.udpMine src port then (s, true) else (s.drop src.port R.PRT_DROPS_UNKNOWN, false)

/-- The UDP port of IPT packets. -/
def State.iptPort (s : State) : Nat := s.fld R.PRT_IPT_CFG_UDP_PORT

/-- The control queue of a sub-port holds its next packet back (R310). -/
def State.controlBusy (s : State) (src : Src) : Bool :=
  s.now < mgetD s.qos.ctlAt (subKey src.port src.sub) 0 || s.qos.egr.any fun e => e.inQueue src.port src.sub none

/-- A frame for the sub-port's own address is answered, with `limited` not beyond the control queue's rate; one to another address is
discarded (R256, R310). -/
def State.answerOwn (s : State) (src : Src) (own limited : Bool) (bodyLen : Nat) (p : OutPkt) : State :=
  match s.frameIn src with
  | (s, false) => s
  | (s, true) =>
    if !own then s.drop src.port R.PRT_DROPS_UNKNOWN
    else if limited ∧ s.controlBusy src then s
    else s.control src bodyLen p

/-- ARP_REQUEST. -/
def execArpRequest (src : Src) (target : BitVec 32) (s : State) : Out :=
  .next (s.answerOwn src (s.ownIp4 src target.toNat) false 0 (.arpReply src target (BitVec.ofNat 48 (s.macOf src.port src.sub))))

/-- NEIGHBOUR_SOLICITATION. -/
def execNeighbourSolicitation (src : Src) (target : BitVec 128) (s : State) : Out :=
  .next (s.answerOwn src (s.ownIp6 src target.toNat) false 0
    (.neighbourAdvert src target (BitVec.ofNat 48 (s.macOf src.port src.sub))))

/-- ECHO_REQUEST: an IPv4 target stands in the low 32 bits. A reply beyond the control queue's rate is discarded. -/
def execEchoRequest (src : Src) (target : BitVec 128) (v6 : Bool) (data : List Byte) (s : State) : Out :=
  let own := if v6 then s.ownIp6 src target.toNat else s.ownIp4 src (target.toNat % 2 ^ 32)
  .next (s.answerOwn src own true data.length (.echoReply src v6 data))

/-- A receive SA comes into use: `an` of the channel `sci`, whose port has at most eight channels (R258). -/
def State.installRx (s : State) (port : Nat) (sci : BitVec 64) (an : BitVec 2) : State :=
  let others := (((s.prt.rxSas.filter fun a => a.port = port).map (·.sci)).filter (· ≠ sci)).eraseDups
  if 8 ≤ others.length then s
  else s.prtUp fun p => { p with
    rxSas := (p.rxSas.filter fun a => !(a.port = port && a.sci = sci && a.an = an)) ++ [⟨port, sci, an, 1⟩] }

/-- MKA_FRAME: the frame goes to Lumyan firmware, whose MKA protocol (IEEE 802.1X) may install the next transmit SA, and a receive
SA of some channel; the spec does not say when, so those are free values (R259, entry 74). -/
def State.mkaFrame (s : State) (port sub : Nat) : State :=
  if !s.subOpen port sub then s
  else
    let x := s.sub port sub
    let b := Config.freeBits 1 s.freeCtr
    let sci := Config.freeBits 1 (s.freeCtr + 1)
    let s := s.tick.tick
    let s := if b.getLsbD 0 then
        s.setSub port sub { x with txAn := some (match x.txAn with | some a => (a + 1) % 4 | none => 0), txPn := 1 }
      else s
    if b.getLsbD 1 then s.installRx port sci (b.extractLsb' 2 2) else s

/-- MKA_FRAME. -/
def execMkaFrame (port sub : Nat) (_body : List Byte) (s : State) : Out := .next (s.mkaFrame port sub)

/-- PFC_FRAME (R257): a quantum is 512 bit times at the line rate; 0 quanta resume the priority. -/
def State.pfcFrame (s : State) (port sub : Nat) (enable : BitVec 8) (quanta : List Nat) : State :=
  if !s.subOpen port sub then s
  else
    let mask := s.fld (R.PRT_CFG_PFC_MASK.at (0x1000 * port))
    let x := s.sub port sub
    let paused := (List.range 8).foldl (fun m i =>
      if enable.getLsbD i && mask.testBit i then
        let q := quanta.getD i 0 % 65536
        if q = 0 then mdel m i else mset m i (s.now + ceilDiv (q * 256000) (s.lineRate port))
      else m) x.paused
    s.setSub port sub { x with paused := paused }

/-- PFC_FRAME. -/
def execPfcFrame (port sub : Nat) (enable : BitVec 8) (quanta : List Nat) (s : State) : Out :=
  .next (s.pfcFrame port sub enable quanta)

/-- LINK_CHANGE. -/
def State.linkChange (s : State) (port sub : Nat) (up : Bool) : State :=
  let f := R.PRT_STATUS_LINK_UP.at (0x1000 * port)
  let old := s.fld f
  if !s.portOn port ∨ s.subCount port ≤ sub ∨ old.testBit sub = up ∨ (up ∧ s.deep ∧ port ≠ s.fld R.PWR_CFG_DEEP_PORT) then s
  else
    let s := (s.setFld f (if up then old + 2 ^ sub else old - 2 ^ sub)).raise (40 + port) 8
    let x := s.sub port sub
    s.setSub port sub { x with up := up }

/-- LINK_CHANGE. -/
def execLinkChange (port sub : Nat) (up : Bool) (s : State) : Out := .next (s.linkChange port sub up)

/-- FRAME_DISCARD: cause 0 the FCS, 2 MACsec, any other an unknown frame. -/
def execFrameDiscard (port _sub cause : Nat) (s : State) : Out :=
  .next (if s.portOn port then
    s.drop port (if cause = 0 then R.PRT_DROPS_FCS else if cause = 2 then R.PRT_DROPS_MACSEC else R.PRT_DROPS_UNKNOWN)
  else s)

/-! ### Numbers that the spec does not choose -/

/-- The first number not in use from `k` upward, modulo `n`, within `fuel` steps. -/
def nextFree (used : List Nat) (n fuel k : Nat) : Option Nat :=
  match fuel with
  | 0 => none
  | fuel + 1 => if used.contains (k % n) then nextFree used n fuel (k + 1) else some (k % n)

/-- A number below `n` that is not in use: which one, the spec leaves open. -/
def State.freeNumber (s : State) (used : List Nat) (n : Nat) : Option Nat × State :=
  (nextFree used n (min n (used.length + 1)) (Config.freeBits 2 s.freeCtr).toNat, s.tick)

/-! ### Connections (R263 to R269) -/

/-- Connections and queue pairs that a holder has open. -/
def State.openOf (s : State) (h : Nat) : Nat :=
  (s.prt.conns.filter fun c => c.2.holder = h).length + (s.prt.qps.filter fun q => q.2.holder = h).length

/-- Every record of a request that has not completed. -/
def State.allReqs (s : State) : List Req :=
  (s.qos.acq.filterMap fun x => match x.kind with | .req r => some r | _ => none) ++ s.acc.rdma.map (·.req) ++
    s.acc.moves.map (·.req) ++ s.parked.map (·.req) ++ s.par.fetches.map (fun f => f.2.1) ++ s.dir.waiters.map (·.req) ++
    s.dir.txns.filterMap (·.req) ++ s.seq.calls.map (·.req) ++ s.syn.waiters.map (·.req) ++ s.engineReqs ++
    s.acc.fences.map (·.2) ++ s.acc.prefetch.map (·.req) ++ s.pfx.ring.map (·.req) ++ s.xlt.invals.map (·.req) ++
    s.seq.commits.map (·.req) ++ s.sec.rotating.map (·.2) ++ s.sec.verifying.map (fun x => x.2.1) ++ s.dir.ready

/-- Open connections of a tenant. -/
def State.tenantConns (s : State) (t : Nat) : List Nat := (s.prt.conns.filter fun c => c.2.tenant = t).map (·.1)

/-- The RESPONSEs, ACCEPTs and MESSAGEs of a connection that wait in the egress queues, on its queue pairs too, are discarded
(R268). -/
def State.unqueueConn (s : State) (c : Nat) : State :=
  s.egDrop fun e => match e.pkt with
    | .ipt typ _ _ n _ _ _ _ _ _ _ _ _ => n = c && typ ≠ 4
    | .send _ n .. => (match mget s.prt.qps n with | some q => q.conn = c | none => false)
    | _ => false

/-- A connection is open no more. The tenant's statement lapses with its last connection (R271). -/
def State.removeConn (s : State) (c : Nat) : State :=
  match s.conn c with
  | none => s
  | some x =>
    let s := s.prtUp fun p => { p with conns := mdel p.conns c }
    let s := s.secUp fun x => { x with spdmNext := mdel x.spdmNext (16 + c) }
    if s.tenantConns x.tenant = [] then s.prtUp fun p => { p with tol := mdel p.tol x.tenant } else s

/-- A connection closes (R268). -/
def State.closeConn (s : State) (c : Nat) : State := if (s.conn c).isNone then s else (s.unqueueConn c).removeConn c

/-- The FV8 tells the agent that it closes a connection. DEDUCED from "CLOSE from either end" (R268, entry 75). -/
def State.sayClose (s : State) (c : Nat) : State :=
  match s.conn c with
  | none => s
  | some x => s.control x.src 0 (.ipt 4 0x73 0 c 0 0 0 0 0 [] none false x.src)

/-- The FV8 itself closes a connection. -/
def State.endConn (s : State) (c : Nat) : State := (s.sayClose c).closeConn c

/-- The FV8 closes every connection that satisfies `p`. -/
def State.closeConns (s : State) (p : Conn → Bool) : State :=
  ((s.prt.conns.filter fun c => p c.2).map (·.1)).foldl (fun s c => s.endConn c) s

/-- At most one answer of a kind per microsecond and source address; `base` tells RESET from NOT_READY. -/
def State.rateOk (s : State) (base : Nat) (src : Src) : Bool × State :=
  let k := base * 2 ^ 128 + src.ip.toNat
  let us := s.now / usCycles
  if mget s.prt.resets k = some us then (false, s)
  else (true, s.prtUp fun p => { p with resets := mset p.resets k us })

/-- A packet for a connection that is not open is answered with RESET (R263). -/
def State.sendReset (s : State) (src : Src) (c : Nat) : State :=
  match s.rateOk 0 src with
  | (false, s) => s
  | (true, s) => s.control src 0 (.ipt 4 0x74 0 c 0 0 0 0 0 [] none false src)

/-- The hint of NOT_READY, µs: to 800 ms after step 1 of power-up, or 50 ms (R400). -/
def State.notReadyUs (s : State) : Nat :=
  let t := s.pwr.step1 + 800000 * usCycles
  if s.now < t then s.usUntil t else 50000

/-- CONNECT_FAIL with its status and hint, counted. -/
def State.connectFail (s : State) (src : Src) (seq : BitVec 32) (status hint : Nat) : State :=
  (s.count R.PRT_CONNS_REFUSED).control src 0 (.ipt 4 0x72 status 0xFFFF seq 0 0 0 (BitVec.ofNat 64 hint) [] none false src)

/-- Admission tokens of a port. -/
def State.tokensOf (s : State) (port : Nat) : Nat × Nat :=
  let rate := s.fld R.PRT_ADMIT_RATE
  match mget s.prt.tokens port with
  | some (n, t) => (min n rate, t)
  | none => (rate, s.now)

/-- The time between two admission tokens. -/
def State.tokenGap (s : State) : Nat := ceilDiv (100 * usCycles) (max 1 (s.fld R.PRT_ADMIT_RATE))

/-- A holder's `PRT_HCFG` word. -/
def State.hcfg (s : State) (h : Nat) : Nat := (mgetD s.prt.hcfg h 0).toNat

/-- NOTIFYs that were held for a holder leave on its new connection (R334). -/
def State.flushHeld (s : State) (c : Nat) : State :=
  match s.conn c with
  | none => s
  | some x =>
    let mine := s.par.heldNotify.filter fun h => h.1 = x.holder
    let s := s.parUp fun p => { p with heldNotify := p.heldNotify.filter fun h => h.1 ≠ x.holder }
    mine.foldl (fun s h => match h.2.2 with
      | .ipt _ op st _ _ id _ _ aux body crc _ _ => s.message c op st id aux body crc.isSome true
      | _ => s) s

/-- Connection numbers that name something still: open connections, those that queue pairs were created on, and those of requests
that have not completed, whose answers are discarded (R268). -/
def State.connsInUse (s : State) : List Nat :=
  (s.prt.conns.map (·.1) ++ s.prt.qps.map (·.2.conn) ++ s.allReqs.map (·.conn)).eraseDups

/-- A connection is admitted: its number is one that is not in use. DESIGN CHOICE (entry 75): while none is free, it is refused as
at the limit of open connections. -/
def State.admitConn (s : State) (src : Src) (seq : BitVec 32) (h : Nat) : State :=
  match s.freeNumber s.connsInUse 16384 with
  | (none, s) => s.connectFail src seq Status.retryAfter 100
  | (some c, s) =>
    let w := s.hcfg h
    let setup := bitsOf w 7 1 = 1
    let req := s.fld R.PRT_IPT_CFG_CRED_REQ
    let kib := s.fld R.PRT_IPT_CFG_CRED_KIB
    let s := s.setConn c ⟨h, bitsOf w 1 6, src, setup, none, 0, 1, 0, [], req, kib, none, []⟩
    let s := s.control src 0 (.ipt 4 0x71 0 c seq 0 req kib 0 [] none false src)
    if setup then s else s.flushHeld c

/-- CONNECT, accepted: the checks of R263 in their order. -/
def State.connectIn (s : State) (src : Src) (seq : BitVec 32) (h : Nat) : State :=
  if !s.inService then
    match s.rateOk 1 src with
    | (false, s) => s
    | (true, s) => s.connectFail src seq Status.notReady s.notReadyUs
  else
    let (n, t) := s.tokensOf src.port
    if n = 0 then s.connectFail src seq Status.retryAfter (s.usUntil (t + s.tokenGap))
    else
      let whole := n = s.fld R.PRT_ADMIT_RATE
      let s := s.prtUp fun p => { p with tokens := mset p.tokens src.port (n - 1, if whole then s.now else t) }
      let w := s.hcfg h
      if bitsOf w 0 1 = 0 ∨ (bitsOf w 7 1 = 0 ∧ src.ip ≠ mgetD s.prt.haddr h 0) then s.connectFail src seq Status.noRights 0
      else if s.fld R.LMC_STATUS_LC = 4 ∧ bitsOf w 8 1 = 0 then s.connectFail src seq Status.noRights 0   -- SERVICE_HOLD (R383)
      else if bitsOf w 9 15 ≤ s.openOf h ∨ 16384 ≤ s.prt.conns.length then s.connectFail src seq Status.retryAfter 100
      else s.admitConn src seq h

/-- A CONNECT arrives. -/
def State.connect (s : State) (src : Src) (seq : BitVec 32) (h : Nat) : State :=
  match s.udpIn src s.iptPort with
  | (s, false) => s
  | (s, true) => s.connectIn src seq h

/-- CONNECT. -/
def execConnect (src : Src) (seq : BitVec 32) (holder : BitVec 16) (s : State) : Out :=
  .next (s.connect src seq holder.toNat)

/-- CLOSE from the agent. -/
def State.closePkt (s : State) (src : Src) (c : Nat) : State :=
  match s.udpIn src s.iptPort with
  | (s, false) => s
  | (s, true) =>
    if (s.conn c).isNone then (if s.inService then s.sendReset src c else s)
    else s.closeConn c

/-- CLOSE. -/
def execClose (src : Src) (conn : BitVec 16) (s : State) : Out := .next (s.closePkt src conn.toNat)

/-- ADMIT_TOKEN_REFILL: one token at its time. -/
def State.tokenRefill (s : State) (port : Nat) : State :=
  match mget s.prt.tokens port with
  | none => s
  | some (n, t) =>
    let s := s.toTime (t + s.tokenGap)
    let at_ := t + s.tokenGap
    let whole := s.fld R.PRT_ADMIT_RATE ≤ n + 1
    s.prtUp fun p => { p with tokens := if whole then mdel p.tokens port else mset p.tokens port (n + 1, at_) }

/-- ADMIT_TOKEN_REFILL. -/
def execAdmitTokenRefill (port : Nat) (s : State) : Out := .next (s.tokenRefill port)

/-! ### Packets of a connection (R263, R269) -/

/-- A packet passes session encryption: with a session it carries ENC, a number not yet accepted and at most 1,024
below the highest, and a good tag; without one it carries no ENC. -/
def Conn.encOk (x : Conn) (p : Pkt) : Bool :=
  match x.session with
  | none => !p.enc
  | some _ => p.enc && p.tagOk && 1 ≤ p.pn.toNat && !x.rxSeen.contains p.pn.toNat && x.rxHigh ≤ p.pn.toNat + 1024

/-- What an accepted packet leaves in its connection: its addresses, its packet number. -/
def Conn.took (x : Conn) (p : Pkt) : Conn :=
  let n := p.pn.toNat
  if x.session.isNone then { x with src := p.src }
  else
    let high := max x.rxHigh n
    { x with src := p.src, rxHigh := high, rxSeen := (n :: x.rxSeen).filter fun k => high ≤ k + 1024 }

/-- An IPT packet whose body has `len` bytes is accepted, or discarded and counted: its datagram (R256), its version and its length
(R260). -/
def State.iptIn (s : State) (p : Pkt) (len : Nat) : State × Bool :=
  match s.udpIn p.src s.iptPort with
  | (s, false) => (s, false)
  | (s, true) =>
    if p.ver = 1 ∧ p.len.toNat = len then (s, true) else (s.drop p.src.port R.PRT_DROPS_UNKNOWN, false)

/-- A packet that names a connection, whose body has `len` bytes, is accepted, or discarded with its count or a RESET. -/
def State.takePkt (s : State) (p : Pkt) (len : Nat) : State × Option Conn :=
  match s.iptIn p len with
  | (s, false) => (s, none)
  | (s, true) =>
    match s.conn p.conn.toNat with
    | none => (s.sendReset p.src p.conn.toNat, none)
    | some x =>
      if x.encOk p then
        let x := x.took p
        (s.setConn p.conn.toNat x, some x)
      else (s.drop p.src.port R.PRT_DROPS_MACSEC, none)

/-- A REPLY or MSG_ACK, with `n` bytes of fields: discarded before service (R400). -/
def State.takeReply (s : State) (p : Pkt) (n : Nat) : State × Option Conn :=
  if s.inService then s.takePkt p (n + p.tail.length) else (s, none)

/-- MSG_ACK ends the resending of its MESSAGE (R267). -/
def State.msgAck (s : State) (p : Pkt) (acked : BitVec 32) : State :=
  match s.takeReply p 4 with
  | (s, none) => s
  | (s, some x) => s.setConn p.conn.toNat { x with msgs := x.msgs.filter fun m => m.seq ≠ acked }

/-- MSG_ACK. -/
def execMsgAck (p : Pkt) (acked : BitVec 32) (s : State) : Out := .next (s.msgAck p acked)

/-- A MESSAGE with other addresses. -/
def OutPkt.to (p : OutPkt) (d : Src) : OutPkt :=
  match p with
  | .ipt typ op st c seq id cr ck aux body crc enc _ => .ipt typ op st c seq id cr ck aux body crc enc d
  | p => p

/-- MESSAGE_RESEND: after RTO_US the MESSAGE is sent again, to the addresses of the connection's latest packet (R256); after DC_RETRIES resends the connection closes. -/
def State.messageResend (s : State) (c : Nat) (seq : BitVec 32) : State :=
  match s.conn c with
  | none => s
  | some x =>
    match x.msgs.find? (fun m => m.seq = seq) with
    | none => s
    | some m =>
      let s := s.toTime (m.sentAt + s.fld R.PRT_IPT_CFG_RTO_US * usCycles)
      if s.fld R.PRT_IPT_CFG_DC_RETRIES ≤ m.tries then s.endConn c
      else
        let s := s.setConn c { x with
          msgs := mapIf (fun m => m.seq = seq) (fun m => { m with tries := m.tries + 1, sentAt := s.now }) x.msgs }
        let len := match m.pkt with | .ipt _ _ _ _ _ _ _ _ _ body _ _ _ => body.length | _ => 0
        s.egPush x.src.port x.src.sub (some x.tenant) none none len (m.pkt.to x.src)

/-- MESSAGE_RESEND. -/
def execMessageResend (conn : Nat) (seq : BitVec 32) (s : State) : Out := .next (s.messageResend conn seq)

/-! ### Holder bindings (R277) -/

/-- A write of `PRT_HCFG` acts on the selected holder at once; its connections close when VALID falls or TENANT
changes. -/
def State.hcfgWrite (s : State) (src : RegSrc) (w : Word64) : State :=
  let h := s.fld R.PRT_HSEL_HOLDER
  let old := s.hcfg h
  let s := s.storeReg src 0x30120 w
  let new := s.hcfg h
  if (bitsOf old 0 1 = 1 ∧ bitsOf new 0 1 = 0) ∨ bitsOf old 1 6 ≠ bitsOf new 1 6 then s.closeConns fun x => x.holder = h
  else s

/-- PRT_HCFG_WRITE. -/
def execPrtHcfgWrite (src : RegSrc) (w : Word64) (s : State) : Out := .next (s.hcfgWrite src w)

/-! ### LATENCY_TOL and FAULT_POP (R271, R39) -/

/-- LATENCY_TOL: the latest statement of the connection's tenant stands. -/
def State.doLatencyTol (s : State) (r : Req) (us : Nat) : State :=
  (s.prtUp fun p => { p with tol := mset p.tol r.tenant us }).respond r (mkAns r.op Status.ok)

/-- FAULT_POP: up to 8 entries, their count in AUX. -/
def State.doFaultPop (s : State) (r : Req) (clear : Bool) : State :=
  let (bs, s) := s.popFaults r.tenant clear
  s.respond r (mkAns r.op Status.ok (bs.length / 32) bs)

/-! ### Queue pairs (R264, R272 to R276) -/

def State.qp (s : State) (n : Nat) : Option Qp := mget s.prt.qps n

def State.setQp (s : State) (n : Nat) (q : Qp) : State := s.prtUp fun p => { p with qps := mset p.qps n q }

/-- Fields of QP_CREATE that R273 defines. -/
def QpOk (q : QpArgs) : Bool := 1 ≤ q.mtu.toNat && q.mtu.toNat ≤ 5 && q.retries.toNat ≤ 7 && q.rnrRetries.toNat ≤ 7

/-- QP_CREATE: the queue pair counts against the holder's MAX_CONN; its number is one that is not in use. -/
def State.doQpCreate (s : State) (r : Req) (q : QpArgs) : State :=
  if !QpOk q then s.refuse r Status.noRights
  else if bitsOf (s.hcfg r.holder) 9 15 ≤ s.openOf r.holder ∨ 8192 ≤ s.prt.qps.length then s.refuse r Status.retryAfter 100
  else
    match s.freeNumber (s.prt.qps.map (·.1)) (2 ^ 24) with
    | (none, s) => s.refuse r Status.retryAfter 100
    | (some n, s) =>
      let rate := s.lineRate r.src.port
      let s := s.setQp n ⟨r.conn, r.holder, r.tenant, q.remoteQpn.toNat, q.remoteIp, q.udp.toNat, r.src.port, r.src.sub,
        q.mtu.toNat, q.recvPsn.toNat, q.sendPsn.toNat, q.ackTimeout.toNat, q.retries.toNat, q.rnrRetries.toNat, false, false,
        rate, none, s.now + s.fld R.PRT_RCE_CFG_RISE_US * usCycles, [], 0, 0, false, 0, r.src⟩
      s.respond r (mkAns r.op Status.ok n)

/-- A queue pair has requests that have not completed, or answers that have not left (R273). -/
def State.qpBusy (s : State) (n : Nat) : Bool :=
  (s.allReqs.any fun r => match r.via with | .rdma q _ | .send q => q = n | .ipt | .ring _ => false) ||
    s.qos.egr.any fun e => match e.pkt with
      | .send _ k .. | .roceAck _ k _ | .roceNak _ k _ _ | .roceRnr _ k _ _ | .roceRead _ k .. | .roceAtomic _ k _ _ => k = n
      | _ => false

/-- Queue pairs that QP_DESTROY has ended go once nothing of theirs is left. -/
def State.reapQps (s : State) : State :=
  s.prtUp fun p => { p with qps := p.qps.filter fun q => !(q.2.destroying && !s.qpBusy q.1) }

/-- The connection of a request is bound to a session and its holder is privileged (R264). -/
def State.privileged (s : State) (r : Req) : Bool :=
  s.holderPriv r.holder && (match s.conn r.conn with | some x => x.session.isSome | none => false)

/-- QP_DESTROY. What it answers for a number that is not in use, the spec leaves open. -/
def State.doQpDestroy (s : State) (r : Req) (n : Nat) : State :=
  match s.qp n with
  | none =>
    let st := if (Config.freeBits 3 s.freeCtr).getLsbD 0 then Status.ok else Status.noRights
    s.tick.respond r (mkAns r.op st)
  | some q =>
    if q.holder ≠ r.holder ∧ !s.privileged r then s.refuse r Status.noRights
    else ((s.setQp n { q with destroying := true }).reapQps).respond r (mkAns r.op Status.ok)

/-- CNP_RECEIVE: the rate halves, at most once per CUT_US, and not below 1 Gb/s. -/
def State.cnp (s : State) (n : Nat) : State :=
  match s.qp n with
  | none => s
  | some q =>
    if !s.subOpen q.port q.sub then s else
    let ok := match q.cutAt with | none => true | some t => t + s.fld R.PRT_RCE_CFG_CUT_US * usCycles ≤ s.now
    if !ok then s
    else s.setQp n { q with rate := max 1000 (q.rate / 2), cutAt := some s.now,
                            riseAt := s.now + s.fld R.PRT_RCE_CFG_RISE_US * usCycles }

/-- CNP_RECEIVE. -/
def execCnpReceive (qpn : BitVec 24) (s : State) : Out := .next (s.cnp qpn.toNat)

/-- RATE_RISE. -/
def State.rateRise (s : State) (n : Nat) : State :=
  match s.qp n with
  | none => s
  | some q =>
    let s := s.toTime q.riseAt
    let line := s.lineRate q.port
    s.setQp n { q with rate := min line (q.rate + line * s.fld R.PRT_RCE_CFG_RISE_PCT / 100),
                       riseAt := q.riseAt + s.fld R.PRT_RCE_CFG_RISE_US * usCycles }

/-- RATE_RISE. -/
def execRateRise (qpn : BitVec 24) (s : State) : Out := .next (s.rateRise qpn.toNat)

/-- PSN `a` lies at or before `b` in the 24-bit PSN space. -/
def psnLe (a b : Nat) : Bool := (b + 2 ^ 24 - a % 2 ^ 24) % 2 ^ 24 < 2 ^ 23

/-- Every SEND not yet acknowledged leaves again. -/
def State.resendSends (s : State) (q : Qp) : State :=
  q.unacked.foldl (fun s m =>
    match m.2 with
    | .send d _ _ _ _ _ _ _ _ _ _ body _ _ => s.egPush d.port d.sub (some q.tenant) none none body.length m.2
    | _ => s) s

/-- Retransmission after a timeout or a sequence NAK: the SENDs leave again, or after the retry count the queue pair
enters the error state and its completions are discarded (R273, R274). -/
def State.qpRetry (s : State) (n : Nat) (q : Qp) : State :=
  if q.unacked = [] then s
  else if q.retries ≤ q.tried then s.qpError n
  else (s.setQp n { q with tried := q.tried + 1 }).resendSends q

/-- ROCEV2_ACK: kind 0 an ACK, 1 an RNR NAK, 2 a PSN sequence NAK, any other a NAK that ends the queue pair. -/
def State.roceAckIn (s : State) (n psn kind : Nat) : State :=
  match s.qp n with
  | none => s
  | some q =>
    if q.error ∨ !s.subOpen q.port q.sub then s
    else if kind = 0 then
      s.setQp n { q with unacked := q.unacked.filter fun m => !psnLe m.1 psn, tried := 0, rnrTried := 0, rnrWait := false }
    else
      let q := { q with unacked := q.unacked.filter fun m => !(psnLe m.1 psn && m.1 ≠ psn) }
      if kind = 1 then s.setQp n { q with rnrWait := q.unacked ≠ [] }
      else if kind = 2 then (s.setQp n q).qpRetry n q
      else s.qpError n

/-- ROCEV2_ACK. -/
def execRocev2Ack (qpn psn : BitVec 24) (kind : Nat) (s : State) : Out := .next (s.roceAckIn qpn.toNat psn.toNat kind)

/-- LOCAL_ACK_TIMEOUT. -/
def State.ackTimeout (s : State) (n : Nat) : State :=
  match s.qp n with
  | none => s
  | some q => if q.error then s else s.qpRetry n q

/-- LOCAL_ACK_TIMEOUT. -/
def execLocalAckTimeout (qpn : BitVec 24) (s : State) : Out := .next (s.ackTimeout qpn.toNat)

/-- RNR_TIMER_EXPIRE. -/
def State.rnrExpire (s : State) (n : Nat) : State :=
  match s.qp n with
  | none => s
  | some q =>
    if q.error ∨ !q.rnrWait then s
    else if q.rnr ≤ q.rnrTried then s.qpError n
    else (s.setQp n { q with rnrTried := q.rnrTried + 1, rnrWait := false }).resendSends q

/-- RNR_TIMER_EXPIRE. -/
def execRnrTimerExpire (qpn : BitVec 24) (s : State) : Out := .next (s.rnrExpire qpn.toNat)

end Sys2Proof.Machine
end

