-- ==== Sys2Proof/Machine/Sec.lean ====
section
/-! DEFINITION. Tenants, keys, consent, sessions and debug (chapter 16): tenant states and commands, key rotation and the
re-key sweep, the SPDM responder, and the conditions that close debug access. -/

namespace Sys2Proof.Machine

/-! ### Identities -/

/-- A digest held in six registers, byte 8w at bit 64w (Table 16.9). -/
def State.digestAt (s : State) (off : Nat) : BitVec 384 :=
  BitVec.ofNat 384 ((List.range 6).foldl (fun n w => n + (s.word (off + 8 * w)).toNat * 2 ^ (64 * w)) 0)

/-- A tenant's identity; zero is none. -/
def State.idOf (s : State) (t : Nat) : BitVec 384 := s.digestAt (0xC100 + 0x30 * t)

/-- The privileged identity `SEC_OPID`. -/
def State.opId (s : State) : BitVec 384 := s.digestAt 0xB180

/-- The debug key digest `SEC_DBGID`. -/
def State.dbgId (s : State) : BitVec 384 := s.digestAt 0xB1C0

/-- The domain key digest `SEC_DOMID`. -/
def State.domId (s : State) : BitVec 384 := s.digestAt 0xB200

/-- The tenant whose identity a digest is (R348). -/
def State.tenantOfId (s : State) (d : BitVec 384) : Option Nat :=
  if d = 0 then none else (List.range 64).find? fun t => s.idOf t = d

/-! ### Debug access (R360, R361) -/

/-- The causes that close debug access: start-up, BIST, takeover, rebuild or resync. -/
def State.closeCauses (s : State) : Nat :=
  (if s.inService then 0 else 1) + (if s.fld R.BST_STATUS_STATE = 1 then 2 else 0) +
    (if s.taking 0 ∨ s.taking 1 then 4 else 0) +
    (if s.ecc.rebuild.isSome ∨ s.par.resync ≠ [] ∨ (s.pset 0).st = 4 ∨ (s.pset 1).st = 4 then 8 else 0)

/-- Put the debug state, raising DEBUG_CHANGE at a change. -/
def State.setDebug (s : State) (d : Nat) : State :=
  if s.sec.debug = d then s else (s.secUp fun x => { x with debug := d }).raise 11 10

/-- Debug is CLOSED while a cause holds, and LOCKED when the last one clears. -/
def State.debugSync (s : State) : State :=
  s.setDebug (if s.closeCauses ≠ 0 then 0 else if s.sec.debug = 0 then 1 else s.sec.debug)

/-- A minute, in CK_FT cycles. -/
def minuteCycles : Nat := 60000000 * usCycles

/-- DEBUG_UNLOCK: an attempt with a fresh nonce, over the management port. A signature that does not verify is a failure in
every debug state; while debug is CLOSED no credential opens it, and while it is OPEN a good one opens nothing. -/
def State.debugUnlock (s : State) (key : BitVec 384) (sigOk : Bool) : State :=
  let s := s.secUp fun x => { x with nonces := x.nonces + 1 }
  if ¬(sigOk ∧ key = s.dbgId) then s.count R.SEC_COUNTS_UNLOCK_FAIL
  else if s.sec.debug ≠ 1 then s
  else
    let s := s.secUp fun x => { x with unlocks := x.unlocks + 1, openUntil := s.now + s.fld R.SEC_CFG_DBG_MIN * minuteCycles }
    s.setDebug 2

/-- DEBUG_UNLOCK. -/
def execDebugUnlock (keyDigest : BitVec 384) (sigOk : Bool) (s : State) : Out := .next (s.debugUnlock keyDigest sigOk)

/-- DEBUG_TIMEOUT. -/
def execDebugTimeout (s : State) : Out :=
  .next (if s.sec.debug = 2 then (s.toTime s.sec.openUntil).setDebug 1 else s)

/-- RELOCK: a write of `SEC_DBG_CTRL` with RELOCK. -/
def execRelock (src : RegSrc) (s : State) : Out :=
  let s := s.storeReg src 0xB118 1
  .next (if s.sec.debug = 2 then s.setDebug 1 else s)

/-! ### Sessions and the SPDM responder (R353, R354, R356) -/

/-- SPDM message heads: version 1.2, code, two parameters (DSP0274). -/
def spdmHead (code p1 p2 : Nat) : List Byte := [0x12, BitVec.ofNat 8 code, BitVec.ofNat 8 p1, BitVec.ofNat 8 p2]

/-- An ERROR message. -/
def spdmError (e : Nat) : List Byte := spdmHead 0x7F e 0

def spdmInvalid : Nat := 1
def spdmNoSession : Nat := 2
def spdmBusy : Nat := 3
def spdmUnexpected : Nat := 4
def spdmDecrypt : Nat := 6
def spdmUnsupported : Nat := 7

/-- Bytes of a value that the spec does not state, drawn under log number `n`. -/
def freeBytes (n k len : Nat) : List Byte :=
  fitBytes len ((List.range (ceilDiv len 8)).flatMap fun w => leBytes 8 (Config.freeBits n (k * 64 + w)).toNat)

/-- One measurement block: index, specification 1, its size, then the DMTF value type, size and value (Table 16.4). -/
def measBlock (index typ : Nat) (v : List Byte) : List Byte :=
  leBytes 1 index ++ [1] ++ leBytes 2 (v.length + 3) ++ leBytes 1 typ ++ leBytes 2 v.length ++ v

/-- The measurement blocks. -/
def State.measurement (s : State) (index : Nat) : List Byte :=
  match index with
  | 1 => measBlock 1 0 (freeBytes 6 0 48)
  | 2 => measBlock 2 1 (freeBytes 7 s.freeCtr 48)
  | 3 => measBlock 3 0x87 (leBytes 1 (s.fld R.LMC_FW_SVN))
  | 4 => measBlock 4 0x83 (leBytes 1 (s.fld R.LMC_STATUS_LC) ++ leBytes 2 s.sec.unlocks ++
      leBytes 1 (if s.sec.jtagOpened then 1 else 0))
  | _ => measBlock 5 0x83 (leBytes 1 (s.act R.FTM_CTRL_MODE) ++ leBytes 1 (s.pset 0).st ++ leBytes 1 (s.pset 1).st)

def State.session (s : State) (n : Nat) : Option Session := mget s.sec.sessions n

def State.setSession (s : State) (n : Nat) (x : Session) : State :=
  s.secUp fun c => { c with sessions := mset c.sessions n x }

/-- A session that is up. -/
def State.liveSession (s : State) (n : Nat) : Option Session :=
  match s.session n with
  | some x => if x.up then some x else none
  | none => none

/-- A session ends, and every connection bound to it closes. -/
def State.endSession (s : State) (n : Nat) : State :=
  let s := s.secUp fun c => { c with sessions := mdel c.sessions n }
  s.closeConns fun c => c.session = some n

/-- The SPDM step that a transport has reached. -/
def State.spdmAt (s : State) (key : Nat) : Nat := mgetD s.sec.spdmNext key 0

def State.setSpdmAt (s : State) (key n : Nat) : State :=
  s.secUp fun c => { c with spdmNext := mset c.spdmNext key n }

/-- KEY_EXCHANGE: a session opens, to be finished by FINISH. -/
def State.openSession (s : State) (via conn : Nat) (x : KeyExArg) : State × List Byte :=
  if x.mutualAuth ∧ !x.ok then (s, spdmError spdmInvalid)
  else if 1024 ≤ s.sec.sessions.length then (s, spdmError spdmBusy)
  else
    match s.freeNumber (s.sec.sessions.map (·.1)) (2 ^ 32) with
    | (none, s) => (s, spdmError spdmBusy)
    | (some n, s) =>
      (s.setSession n ⟨if x.mutualAuth then some x.digest else none, via, conn, false, 0⟩,
        spdmHead 0x64 0 0 ++ leBytes 4 n)

/-- Which step of the responder's order a message needs: VERSION, CAPABILITIES, ALGORITHMS, or all three. -/
def spdmNeeds : SpdmMsg → Nat
  | .getVersion => 0
  | .getCapabilities => 1
  | .negotiateAlgorithms => 2
  | _ => 3

/-- A message of an up session, or its ERROR. -/
def State.inSession (s : State) (n : Nat) (f : Session → State × List Byte) : State × List Byte :=
  match s.liveSession n with
  | none => (s, spdmError spdmNoSession)
  | some x => f x

/-- The answer to an SPDM message on transport `via` (0 IPT, 1 I3C, 2 the management port), whose order is kept under
`key`. -/
def State.spdmAnswer (s : State) (via key conn : Nat) (m : SpdmMsg) : State × List Byte :=
  if s.spdmAt key < spdmNeeds m then (s, spdmError spdmUnexpected)
  else
    match m with
    | .getVersion => (s.setSpdmAt key 1, spdmHead 4 0 0 ++ [0, 1, 0, 0x12])
    | .getCapabilities => (s.setSpdmAt key (max 2 (s.spdmAt key)), spdmHead 0x61 0 0)
    | .negotiateAlgorithms => (s.setSpdmAt key 3, spdmHead 0x63 0 0)
    | .getDigests => (s, spdmHead 1 0 (if s.domId = 0 then 1 else 3))
    | .getCertificate k => if k < 2 then (s, spdmHead 2 k 0) else (s, spdmError spdmInvalid)
    | .challenge k _ => if k < 2 then (s, spdmHead 3 k 0) else (s, spdmError spdmInvalid)
    | .getMeasurements i _ =>
      if i = 0 then (s, spdmHead 0x60 5 0)
      else if 1 ≤ i ∧ i ≤ 5 then (s.tick, spdmHead 0x60 0 0 ++ [1] ++ s.measurement i)
      else if i = 0xFF then
        (s.tick, spdmHead 0x60 0 0 ++ [5] ++ [1, 2, 3, 4, 5].flatMap s.measurement)
      else (s, spdmError spdmInvalid)
    | .keyExchange x => s.openSession via conn x
    | .finish n ok =>
      match s.session n.toNat with
      | none => (s, spdmError spdmNoSession)
      | some x =>
        if x.up ∨ x.via ≠ via then (s, spdmError spdmUnexpected)
        else if ok then (s.setSession n.toNat { x with up := true }, spdmHead 0x65 0 0)
        else (s.endSession n.toNat, spdmError spdmDecrypt)
    | .heartbeat n => s.inSession n.toNat fun _ => (s, spdmHead 0x68 0 0)
    | .keyUpdate n => s.inSession n.toNat fun x => (s.setSession n.toNat { x with updates := x.updates + 1 }, spdmHead 0x69 0 0)
    | .endSession n => s.inSession n.toNat fun _ => (s.endSession n.toNat, spdmHead 0x6A 0 0)
    | _ => (s, spdmError spdmUnsupported)

/-- HEARTBEAT_MISS: a session whose heartbeat is missed ends. -/
def execHeartbeatMiss (session : BitVec 32) (s : State) : Out :=
  .next (if (s.liveSession session.toNat).isSome then s.endSession session.toNat else s)

/-! ### Tenant commands (R348 to R351, R357, R358) -/

/-- The response to a tenant command. -/
def tenantReply (code status hint : Nat) (body : List Byte) : List Byte :=
  [0xC0, BitVec.ofNat 8 code, BitVec.ofNat 8 status, 0] ++ leBytes 4 hint ++ body

/-- Answer a tenant command of a request. -/
def State.tenantAns (s : State) (r : Req) (code status : Nat) (hint : Nat := 0) (body : List Byte := []) : State :=
  s.respond r (mkAns r.op Status.ok 0 (tenantReply code status hint body))

/-- The consents that a tenant holds as grantor. -/
def State.consentsOf (s : State) (t : Nat) : Nat := (s.sec.consents.filter fun c => c.grantor = t).length

/-- The fresh name of a key. -/
def State.newKeyName (s : State) : Nat × State := s.newKey

/-- Whether the key of KEY_SET or KEY_ROTATE can be used: generated, or unwrapped with unequal halves. -/
def KeyUsable (k : KeyArg) : Bool := k.generated || (k.unwrapOk && !k.halvesEqual)

/-- KEY_SET by tenant `t` (R349, Table 16.2). -/
def State.doKeySet (s : State) (r : Req) (t : Nat) (k : KeyArg) : State :=
  let x := s.tenant t
  if !KeyUsable k then (s.count R.SEC_COUNTS_UNWRAP_FAIL).tenantAns r 1 Status.noRights
  else if x.st ≠ 1 then s.tenantAns r 1 Status.conflict
  else
    let (n, s) := s.newKeyName
    let s := (s.seqUp fun q => { q with alive := mdel q.alive t }).setTenant t { x with st := 2, cur := n, curGen := 0, prev := none, rotations := 0 }
    s.tenantAns r 1 Status.ok 0 [0]

/-- The first granule that a tenant's sweep has still to rewrite: written, under another generation; `ok` chooses among
them. -/
def State.sweepNext (s : State) (t : Nat) (ok : Nat → Bool) : Option Nat :=
  let gen := (s.tenant t).curGen
  let mine := s.xlt.extents.filter fun e => e.2.tenant = t && s.dataHere e.1 e.2
  let units := (s.ecc.units.map (·.1)).filter fun u => mine.any fun e => e.2.start ≤ u && u < e.2.start + e.2.len
  units.findSome? fun u => (List.range 1024).findSome? fun k =>
    let g := u * 1024 + k
    if s.written g && metaGen (s.gmeta g) ≠ gen && ok g then some g else none

/-- Bytes that a tenant's sweep has left. -/
def State.sweepLeft (s : State) (t : Nat) : Nat :=
  let gen := (s.tenant t).curGen
  let mine := s.xlt.extents.filter fun e => e.2.tenant = t && s.dataHere e.1 e.2
  let units := (s.ecc.units.map (·.1)).filter fun u => mine.any fun e => e.2.start ≤ u && u < e.2.start + e.2.len
  64 * (units.map fun u => ((List.range 1024).filter fun k =>
    let g := u * 1024 + k
    s.written g && metaGen (s.gmeta g) ≠ gen && !s.pcRetired (pcOf (g * 64))).length).sum

/-- A rotation is accepted for the next frame boundary. -/
def State.rotateNext (s : State) (t : Nat) : State :=
  let (n, s) := s.newKeyName
  s.setTenant t { s.tenant t with switchAt := some (s.frame + 1, n) }

/-- µs that a tenant's sweep has left at the current rate, at least 1: of one that its boundary has still to start, every
granule (R350). -/
def State.sweepHint (s : State) (t : Nat) : Nat :=
  let x := s.tenant t
  let n := if x.sweep.isSome then s.sweepLeft t
    else (s.setTenant t { x with curGen := (x.curGen + 1) % 4 }).sweepLeft t
  max 1 (min 0xFFFFFFFF (ceilDiv n (1000 * s.fld R.SEC_CFG_REKEY_GBS)))

/-- KEY_ROTATE by tenant `t` (R350): its OK waits for the boundary. -/
def State.doKeyRotate (s : State) (r : Req) (t : Nat) (k : KeyArg) : State :=
  let x := s.tenant t
  if x.st ≠ 2 then s.tenantAns r 2 Status.conflict
  else if x.sweep.isSome ∨ x.switchAt.isSome then
    s.tenantAns r 2 Status.retryAfter (s.sweepHint t)
  else if !KeyUsable k then (s.count R.SEC_COUNTS_UNWRAP_FAIL).tenantAns r 2 Status.noRights
  else (s.rotateNext t).secUp fun c => { c with rotating := c.rotating ++ [(t, r)] }

/-- KEY_STATUS by tenant `t`. -/
def State.doKeyStatus (s : State) (r : Req) (t : Nat) : State :=
  let x := s.tenant t
  s.tenantAns r 3 Status.ok 0
    ([BitVec.ofNat 8 x.st, BitVec.ofNat 8 x.curGen, if x.prev.isSome then 1 else 0] ++ List.replicate 5 0 ++
      leBytes 8 (if x.sweep.isSome then s.sweepLeft t else 0))

/-- KEY_ROTATION_EFFECT (R351): at its boundary an accepted rotation switches the keys and starts the sweep. -/
def State.rotateTenant (s : State) (t : Nat) : State :=
  let x := s.tenant t
  match x.switchAt with
  | none => s
  | some (f, n) =>
    if s.frame < f then s
    else
      let gen := (x.curGen + 1) % 4
      let s := s.setTenant t { x with cur := n, curGen := gen, prev := some (x.cur, x.curGen), switchAt := none,
                                      sweep := some [], rotations := x.rotations + 1 }
      let s := s.secUp fun c => { c with rekeyAt := max c.rekeyAt (s.now * 2000) }
      let mine := s.sec.rotating.filter fun q => q.1 = t
      let s := s.secUp fun c => { c with rotating := c.rotating.filter fun q => q.1 ≠ t }
      mine.foldl (fun s q => s.tenantAns q.2 2 Status.ok 0 ([BitVec.ofNat 8 gen] ++ List.replicate 7 0 ++ leBytes 8 f)) s

/-- KEY_ROTATION_EFFECT. -/
def execKeyRotationEffect (s : State) : Out :=
  .next ((s.sec.tenants.map (·.1)).foldl (fun s t => s.rotateTenant t) s)

/-- The re-key write of a granule (R352): under CURRENT, as a conditional write; its extent's parity follows. -/
def State.rekeyGranule (s : State) (i : Nat) (e : Extent) (g : Nat) : State :=
  if metaPoison (s.gmeta g) then s.poisonGranule g
  else
    match s.readGranule e g [] with
    | (s, .poisoned) => s
    | (s, .remote) =>
      let (k, s) := s.newKey
      s.askRemote k i e g
    | (s, .data bs) =>
      if metaGen (s.gmeta g) = (s.tenant e.tenant).curGen then s
      else if e.prot = 3 then s.writeGranule i e g bs .keep plainWriter
      else
        let residual := metaResidual (s.gmeta g)
        (((s.parityFirst e g none).putGranule g e.tenant e.prot bs residual false).parityOut e g none)

/-- The sweep may visit the granule now: its pseudo-channel is in service, its stack is awake, and no planned write of it
is queued (R215, R352). -/
def State.sweepable (s : State) (g : Nat) : Bool :=
  let p := pcOf (g * 64)
  (s.pc p).state = 1 && !s.stackNapping (stackOfPc p) && !(s.pc p).planned.any fun c => c.write && c.g = g

/-- Two positions that the running slot has left at a granule's pseudo-channel, for the read and the write of the sweep: in
a SCRUB slot, or in an ACCESS slot where the template has no SCRUB slot (R239, R352). -/
def State.rekeyPlaces (s : State) (g t : Nat) : Option (Nat × Nat) :=
  let p := pcOf (g * 64)
  if s.rebuildWants p then none else
  match s.idleAt p g t (!s.hasScrubSlot p) with
  | none => none
  | some c => ((s.pc p).idle.find? fun d => c < d).map fun d => (c, d)

/-- REKEY_SWEEP: the tenant's sweep takes, at its paced time, the next granule of a pseudo-channel whose running slot has
positions left for it; it stops at power level 8 (R391). With nothing left PREVIOUS is zeroised and REKEY_DONE raised; a
napping pseudo-channel's granules wait for its return. A granule behind a spare needs no position. -/
def State.rekeySweep (s : State) (t : Nat) : State :=
  let x := s.tenant t
  match x.sweep with
  | none => s
  | some ptrs =>
    let due := max s.now (ceilDiv s.sec.rekeyAt 2000)
    let next := fun (g : Nat) => mgetD ptrs (pcOf (g * 64)) 0 ≤ g
    let spare := fun (g : Nat) => s.ecc.remap.any fun x => x.1 = g
    if s.fld R.PWR_STATUS_LEVEL = 8 then s
    else
      match s.sweepNext t (fun g => next g && s.sweepable g && (spare g || (s.rekeyPlaces g due).isSome)) with
      | some g =>
        let p := pcOf (g * 64)
        let s := match (if spare g then none else s.rekeyPlaces g due) with
          | some (c, d) => (s.takeIdle p g c false).takeIdle p g d true
          | none => s
        let s := s.toTime due
        let s := s.secUp fun c => { c with rekeyAt := max c.rekeyAt (s.now * 2000 - 1999) + ceilDiv 64000 (s.fld R.SEC_CFG_REKEY_GBS) }
        let s := s.setTenant t { x with sweep := some (mset ptrs p (g + 1)) }
        match s.extentAt (g * 64) with
        | none => s
        | some (i, e) => (s.rekeyGranule i e g).markScrub g
      | none =>
        if (s.sweepNext t fun g => next g && s.sweepable g).isSome then s
        else
          match s.sweepNext t (fun g => !s.pcRetired (pcOf (g * 64))) with
          | some _ => s.setTenant t { x with sweep := some [] }
          | none => (s.setTenant t { x with sweep := none, prev := none }).raise 11 8

/-- REKEY_SWEEP. -/
def execRekeySweep (tenant : Nat) (s : State) : Out := .next (s.rekeySweep tenant)

/-! ### Consents (R357, R358) -/

/-- A registration that fails. -/
def State.consentFail (s : State) (r : Req) : State :=
  ((s.count R.SEC_COUNTS_CONSENT_FAIL).raise 11 11).tenantAns r 0x10 Status.noRights

/-- The conditions on a record beside its signature. -/
def State.consentOk (s : State) (t : Nat) (c : Consent) : Bool :=
  c.grantor = t && c.caller < 64 && c.grantor ≠ c.caller && (c.rights = 1 || c.rights = 3) &&
    !(s.sec.consents.any fun d => d.grantor = t && d.consentId = c.consentId) &&
    s.consentsOf t < s.fld (R.SEC_TCFG_MAX_CONSENTS.at (0x10 * t)) && s.sec.consents.length < 4096

/-- CONSENT_REGISTER: what needs no signature is judged at once, the rest when its verification ends. -/
def State.doConsentRegister (s : State) (r : Req) (t : Nat) (c : Consent) : State :=
  if s.consentOk t c then
    let (k, s) := s.newKey
    s.secUp fun x => { x with verifying := x.verifying ++ [(k, r, c)] }
  else s.consentFail r

/-- CONSENT_VERIFY_DONE: the record is registered, or refused. -/
def State.consentVerified (s : State) (key : Nat) : State :=
  match s.sec.verifying.find? (fun v => v.1 = key) with
  | none => s
  | some (_, r, c) =>
    let s := s.secUp fun x => { x with verifying := x.verifying.filter fun v => v.1 ≠ key }
    if c.sigOk && s.consentOk c.grantor c then
      (s.secUp fun x => { x with consents := x.consents ++ [c] }).tenantAns r 0x10 Status.ok
    else s.consentFail r

/-- CONSENT_VERIFY_DONE. -/
def execConsentVerifyDone (key : Nat) (s : State) : Out := .next (s.consentVerified key)

/-- The first slot of a call that a withdrawn consent record has admitted: its rights cover what the slot needs, and no record
that remains admits the slot. -/
def State.usesConsent (s : State) (c : Consent) (q : CallRec) : Option Nat :=
  let samePlan : Bool := match s.plan q.plan with | some p => p.hash = c.planHash | none => false
  if q.tenant ≠ c.caller ∨ !(q.foreign.contains c.grantor) then none
  else if samePlan then
    ((List.range q.binds.length).find? fun k =>
      let b := q.binds.getD k noBind
      let need := dirNeed b.dir
      b.tenant = c.grantor && b.gen * 2 ^ 18 + b.index = c.handle.toNat && covers c.rights need &&
        !s.consented c.planHash c.caller c.grantor c.handle.toNat need)
  else none

/-- A withdrawn record ends the queued calls whose lock has not taken effect and that rest on it (R119). -/
def State.endConsented (s : State) (c : Consent) : State :=
  (s.queuedCalls.filter fun q => !q.locked).foldl (fun s q =>
    match s.usesConsent c q with
    | none => s
    | some k => s.endCall q (queuedEnd Status.callFault 13 k)) s

/-- CONSENT_WITHDRAW: OK whether or not such a record existed. -/
def State.doConsentWithdraw (s : State) (r : Req) (t : Nat) (id : BitVec 64) : State :=
  let mine := fun (c : Consent) => c.grantor = t && c.consentId = id
  let gone := s.sec.consents.filter mine
  let s := s.secUp fun x => { x with consents := x.consents.filter fun c => !mine c }
  let s := gone.foldl (fun s c => s.endConsented c) s
  s.tenantAns r 0x11 Status.ok

/-! ### Requests (R348, R355) -/

/-- The code of a tenant command. -/
def tenantCode : SpdmMsg → Nat
  | .tenantCommand c => c.toNat
  | .keySet _ _ => 1
  | .keyRotate _ _ => 2
  | .keyStatus _ => 3
  | .consentRegister _ _ => 0x10
  | .consentWithdraw _ _ => 0x11
  | _ => 0

/-- The session of a tenant command. -/
def tenantSession : SpdmMsg → Option Nat
  | .keySet n _ | .keyRotate n _ | .keyStatus n | .consentRegister n _ | .consentWithdraw n _ => some n.toNat
  | _ => none

/-- The tenant for which a session acts: that of its authenticated key, over IPT only (R348). -/
def State.sessionTenant (s : State) (x : Session) : Option Nat :=
  if x.via ≠ 0 then none
  else match x.digest with
    | some d => s.tenantOfId d
    | none => none

/-- A tenant command acts for its session's tenant. -/
def State.doTenant (s : State) (r : Req) (m : SpdmMsg) (t : Nat) : State :=
  match m with
  | .keySet _ k => s.doKeySet r t k
  | .keyRotate _ k => s.doKeyRotate r t k
  | .keyStatus _ => s.doKeyStatus r t
  | .consentRegister _ c => s.doConsentRegister r t c
  | .consentWithdraw _ id => s.doConsentWithdraw r t id
  | _ => s.tenantAns r (tenantCode m) Status.noRights

/-- An IPT SPDM request: an SPDM message, or a tenant command inside a secured message. -/
def State.doSpdm (s : State) (r : Req) (m : SpdmMsg) : State :=
  match tenantSession m with
  | some n =>
    match s.liveSession n with
    | none => s.respond r (mkAns r.op Status.ok 0 (spdmError spdmNoSession))
    | some x =>
      match s.sessionTenant x with
      | none => s.tenantAns r (tenantCode m) Status.noRights
      | some t => s.doTenant r m t
  | none =>
    if tenantCode m ≠ 0 then s.tenantAns r (tenantCode m) Status.noRights
    else
      let (s, body) := s.spdmAnswer 0 (16 + r.conn) r.conn m
      s.respond r (mkAns r.op Status.ok 0 body)

/-- The cores run firmware that carries SPDM over the management transports. -/
def State.mgmtUp (s : State) : Bool := 2 ≤ s.fld R.PWR_STATUS_PHASE

/-- An SPDM message over I3C (1) or the management port (2). -/
def State.spdmDirect (s : State) (via : Nat) (m : SpdmMsg) : State :=
  if !s.mgmtUp then s
  else
    let (s, body) := s.spdmAnswer via via 0 m
    s.emit (.spdm via ((body.getD 1 0).toNat) (body.map (·.toNat)))

/-- A tenant command over the management path: NO_RIGHTS. -/
def State.tenantDirect (s : State) (m : SpdmMsg) : State :=
  if !s.mgmtUp then s
  else s.emit (.spdm 2 (tenantCode m) ((tenantReply (tenantCode m) Status.noRights 0 []).map (·.toNat)))

/-- SESSION_BIND: the session's authenticated key must be that of the operator, for a privileged holder, or of the
holder's tenant. A failure closes the connection. -/
def State.doSessionBind (s : State) (r : Req) (n : Nat) : State :=
  let want := if s.holderPriv r.holder then s.opId else s.idOf r.tenant
  let ok := match s.liveSession n with
    | some x => x.digest = some want && want ≠ 0
    | none => false
  if ok then
    let s := match s.conn r.conn with
      | none => s
      | some x =>
        let s := s.setConn r.conn { x with session := some n, setup := false, txPn := 1, rxHigh := 0, rxSeen := [] }
        if x.setup then s.flushHeld r.conn else s
    s.respond r (mkAns r.op Status.ok)
  else
    let s := (s.count R.SEC_COUNTS_BIND_FAIL).raise 11 9
    (((s.unqueueConn r.conn).refuse r Status.noRights).sayClose r.conn).removeConn r.conn

/-! ### Register commands (Table 16.2, R351, R365) -/

/-- An AUTOKEY tenant's rotation; otherwise the ROTATE is ignored and recorded as a clamp. -/
def State.autoRotate (s : State) (src : RegSrc) (t : Nat) (w : Word64) : State :=
  let x := s.tenant t
  if s.fld (R.SEC_TCFG_AUTOKEY.at (0x10 * t)) = 0 ∨ x.sweep.isSome ∨ x.switchAt.isSome then
    recordClamp s 11 (fieldNo (R.SEC_TCFG_ROTATE.at (0x10 * t))) kState (srcCode src) w 0
  else if x.st = 2 then s.rotateNext t
  else s

/-- Nothing of the tenant is left in the pool. -/
def State.retirable (s : State) (t : Nat) : Bool :=
  !(s.xlt.extents.any fun e => e.2.tenant = t && e.2.state ≠ .quarantined) &&
    !(s.seq.plans.any fun p => p.2.tenant = t && p.2.st = 2) && !(s.seq.calls.any fun c => c.tenant = t)

/-- The identity words of a tenant become zero, in force and held. -/
def State.clearId (s : State) (t : Nat) : State :=
  (List.range 6).foldl (fun s w =>
    let off := 0xC100 + 0x30 * t + 8 * w
    let s := s.setWord off 0
    { s with held := mdel s.held off }) s

/-- RETIRE (Table 16.2). -/
def State.retireTenant (s : State) (t : Nat) : State :=
  let x := s.tenant t
  if x.st ≠ 2 then s.setTenant t { x with retireResult := 2 }
  else if !s.retirable t then s.setTenant t { x with retireResult := 1 }
  else
    let s := s.closeConns fun c => c.tenant = t
    let s := s.secUp fun c => { c with
      consents := c.consents.filter fun d => d.caller ≠ t && d.grantor ≠ t
      rotating := c.rotating.filter fun q => q.1 ≠ t }
    (s.setTenant t emptyTenant).clearId t

/-- A write of `SEC_TCFG_t`: its fields are stored, then ROTATE and RETIRE act. -/
def State.writeTcfg (s : State) (src : RegSrc) (t : Nat) (w : Word64) : State :=
  let s := s.storeReg src (0xB400 + 0x10 * t) w
  let s := if w.getLsbD 61 then s.autoRotate src t w else s
  if w.getLsbD 62 then s.retireTenant t else s

/-- SEC_ROTATE: a write of `SEC_TCFG_t` with ROTATE. -/
def execSecRotate (src : RegSrc) (tenant : Nat) (w : Word64) (s : State) : Out :=
  .next (if tenant < 64 then s.writeTcfg src tenant (w ||| BitVec.ofNat 64 (2 ^ 61)) else s)

/-- SEC_RETIRE: a write of `SEC_TCFG_t` with RETIRE. -/
def execSecRetire (src : RegSrc) (tenant : Nat) (w : Word64) (s : State) : Out :=
  .next (if tenant < 64 then s.writeTcfg src tenant (w ||| BitVec.ofNat 64 (2 ^ 62)) else s)

/-- What an APPLY of the SEC pages makes of a tenant (Table 16.2). -/
def State.applyTenant (s : State) (t : Nat) : State :=
  let x := s.tenant t
  if x.st = 0 ∧ s.idOf t ≠ 0 then s.setTenant t { x with st := 1 }
  else if x.st = 0 ∧ s.fld (R.SEC_TCFG_AUTOKEY.at (0x10 * t)) = 1 then
    let (n, s) := s.newKeyName
    (s.seqUp fun q => { q with alive := mdel q.alive t }).setTenant t { x with st := 2, cur := n, curGen := 0, prev := none, rotations := 0 }
  else if x.st = 1 ∧ s.idOf t = 0 then s.setTenant t { x with st := 0 }
  else s

/-- An APPLY of SEC0 or SEC1 has put its words in force. -/
def State.secApplied (s : State) : State := (List.range 64).foldl (fun s t => s.applyTenant t) s

end Sys2Proof.Machine
end

