-- ==== Sys2Proof/Machine/Retire.lean ====
section
/-! DEFINITION. Stacks as a whole (chapter 10): training and the start of the frame timer (R216, R398), retirement (R221 to
R223), self-refresh (R219, R220), and the start of the STACK_PARITY rebuild (R247). -/

namespace Sys2Proof.Machine

/-! ### Training (R216, R398) -/

def State.setStack (s : State) (n st : Nat) : State := s.smcUp fun x => { x with stackSts := x.stackSts.set n st }

/-- Pseudo-channels of a stack. -/
def pcsOf (n : Nat) : List Nat := (List.range 64).map (64 * n + ·)

/-- Every pseudo-channel of the stack is retired. -/
def State.allRetired (s : State) (n : Nat) : Bool := (pcsOf n).all fun p => s.pcRetired p

/-- Firmware has released the stack. -/
def State.released (s : State) (n : Nat) : Bool := (s.fld R.PWR_BOOT_STACKS_OK).testBit n

/-- Interface training of the stack has ended: each of its pseudo-channels is in service or retired. -/
def State.tuned (s : State) (n : Nat) : Bool := (pcsOf n).all fun p => (s.pc p).state ≠ 0

/-- The training of a stack has ended, its release included (R398). -/
def State.stackUp (s : State) (n : Nat) : State :=
  if s.stackSt n = 0 ∧ s.released n ∧ s.tuned n ∧ !s.allRetired n then s.setStack n 1 else s

/-- The eight stacks are in service or retired, and at least one pseudo-channel is in service. -/
def State.stacksDone (s : State) : Bool :=
  ((List.range 8).all fun n => s.stackSt n ≠ 0) && s.latNeeded ≠ 0

/-- Step 8 of Table 18.4: `PL_LAT` is set and the frame timer starts. -/
def State.startFrames (s : State) : State :=
  let s := (List.range 8).foldl (fun s n => s.stackUp n) s
  if s.pwr.step8.isSome ∨ !s.stacksDone then s
  else
    let s := s.setFld R.FTM_REBASE_PL_LAT s.latNeeded
    let s := s.pwrUp fun p => { p with step8 := some s.now, timer := true, callAt := s.now }
    let s : State := { s with frameStart := s.now }
    s.setFld R.PWR_STATUS_PHASE 3

/-! ### Retirement (R221 to R223) -/

/-- A rebuild starts from the first parity row; with none it has ended (R247). -/
def State.startRebuild (s : State) : State :=
  let n := s.parityTotal
  if n = 0 then s.raise 24 11
  else s.eccUp fun x => { x with rebuild := some 0, rowsLeft := n }

/-- What the queues of a retired pseudo-channel held is discarded. Requests that waited for its write queue go on, and find
it retired (R222). -/
def State.discardQueues (s : State) (p : Nat) : State :=
  let waits := s.smc.waits.filter fun w => w.at p
  let s := s.smcUp fun x => { x with
    waits := x.waits.filter fun w => !w.at p
    heldReads := x.heldReads.filter fun e => pcOf (e.g * 64) ≠ p }
  let x := s.pc p
  let s := s.setPc p { resetPc with state := x.state, cause := x.cause, rdLat := x.rdLat, calFaults := x.calFaults, wqMax := x.wqMax }
  let s := s.dirUp fun d => { d with ready := d.ready ++ waits.filterMap fun w => match w.who with | .req r => some r | .entry _ => none }
  s.recount

/-- The running window's plan names the pseudo-channel. -/
def State.windowNames (s : State) (p : Nat) : Bool :=
  match s.windowCall with
  | some (_, c) => (headerOf (s.planImage c.plan)).pcMask.testBit p
  | none => false

/-- Another device has been asked for the granule (R330, R340). -/
def State.ringAsked (s : State) (g : Nat) : Bool :=
  s.par.reqs.any fun q => match q.kind with
    | .read _ | .rpRead _ => q.off / 64 = g
    | _ => false

/-- A pseudo-channel is retired, at the boundary at which this takes effect. -/
def State.retirePc (s : State) (p cause : Nat) : State :=
  let n := stackOfPc p
  let s := s.discardQueues p
  let s := s.setPc p { s.pc p with state := 2, cause := cause }
  let s := s.smcUp fun x => { x with
    retiring := x.retiring.filter (fun e => e.1 ≠ p)
    retireNow := x.retireNow.filter (fun e => e.1 ≠ p)
    retireCmd := x.retireCmd.erase p
    retireDue := x.retireDue.erase p }
  let s := s.eccUp fun x => { x with verify := x.verify.filter (fun g => pcOf (g * 64) ≠ p),
                                     recon := x.recon.filter (fun g => pcOf (g * 64) ≠ p) }
  let s := (s.ecc.planFaults.filter fun f => pcOf (f.g * 64) = p && !s.ringAsked f.g).foldl (fun s f => s.plannedDone f.g false) s
  let s := s.raise (32 + n) 8
  let s := if s.allRetired n then s.setStack n 5 else s.stackUp n
  let s := if s.windowNames p then s.endWindow Status.callFault 14 0 else s
  let s := s.downCheck
  s.startRebuild.debugSync

/-- PC_RETIRE: a fault retirement takes effect at its boundary, under the cause that R221 ranks first. -/
def State.pcRetire (s : State) (p : Nat) : State :=
  match s.smc.retireNow.find? (fun e => e.1 = p) with
  | some (_, cause) => if s.atBoundary then s.retirePc p cause else s
  | none => s

/-- PC_RETIRE_COMMAND_EFFECT: at a free boundary the retirements by command take effect. -/
def State.commandRetire (s : State) : State :=
  if s.atBoundary then
    s.smc.retireDue.foldl (fun s p =>
      if s.pcRetired p ∨ s.faultRetiring p then s.smcUp fun x => { x with retireDue := x.retireDue.erase p }
      else s.retirePc p 3) s
  else s

/-- The pseudo-channels that `SMC_RETIRE` of a stack names. -/
def State.retireTargets (s : State) (n : Nat) : List Nat :=
  let d := 0x1000 * n
  let t := s.fld (R.SMC_RETIRE_TARGET.at d)
  match s.fld (R.SMC_RETIRE_SCOPE.at d) with
  | 0 => [64 * n + t]
  | 1 => [64 * n + t / 2 * 2, 64 * n + t / 2 * 2 + 1]
  | _ => pcsOf n

/-- A write of `SMC_RETIRE` with GO. -/
def State.smcRetire (s : State) (src : RegSrc) (n : Nat) (w : Word64) : State :=
  if 8 ≤ n then s
  else
    let s := s.storeReg src (0x20110 + 0x1000 * n) (w ||| BitVec.ofNat 64 (2 ^ 63))
    (s.retireTargets n).foldl (fun s p =>
      if s.pcRetired p ∨ s.faultRetiring p ∨ s.smc.retireCmd.contains p ∨ s.smc.retireDue.contains p then s
      else s.smcUp fun x => { x with retireCmd := x.retireCmd ++ [p] }) s

/-! ### Training's end -/

/-- A pseudo-channel fails training (R216): it is retired with cause TRAINING, at once before the frame timer runs, later at
the next frame boundary (R221). -/
def State.trainFails (s : State) (p : Nat) : State :=
  let s := s.raise (32 + stackOfPc p) 10
  if s.pwr.timer then s.retireFault p 1
  else (s.setPc p { s.pc p with state := 2, cause := 1 }).raise (32 + stackOfPc p) 8

/-- The training of one pseudo-channel ends: with its read latency, or in retirement with cause TRAINING. -/
def State.trainPc (s : State) (lats : List (Nat × Nat)) (failed : List Nat) (p : Nat) : State :=
  let x := s.pc p
  if x.state ≠ 0 then s
  else
    match lats.find? (fun e => e.1 = p) with
    | some (_, l) =>
      if failed.contains p ∨ 96 < l then s.trainFails p
      else s.setPc p { x with state := 1, rdLat := l }
    | none => s.trainFails p

/-- STACK_TRAINING_COMPLETE: the training of every stack in TRAINING has finished. Before the frame timer runs it leads to
step 8, and its length is that of initial training, which TRAIN_MS keeps (R216); of a stack that a repair has sent back to training, the latencies are judged as R51 has it. -/
def State.trainingComplete (s : State) (lats : List (Nat × Nat)) (failed : List Nat) (ms : Nat) : State :=
  if s.fld R.PWR_STATUS_PHASE < 2 ∨ s.lmc.ppr.isSome then s
  else
    let ns := (List.range 8).filter fun n => s.stackSt n = 0 && !s.tuned n
    let ps := (ns.flatMap pcsOf).filter fun p => (s.pc p).state = 0
    let s := ps.foldl (fun s p => s.trainPc lats failed p) s
    let s := ns.foldl (fun s n =>
      let s := if s.pwr.step8.isSome then s else s.smcUp fun x => { x with trainMs := x.trainMs.set n (min ms 1023) }
      if s.allRetired n then s.setStack n 5 else s) s
    let s := s.startFrames
    if s.fld R.FTM_REBASE_PL_LAT = 0 then s
    else s.applyLats ((ps.filter fun p => (s.pc p).state = 1).map fun p => (p, (s.pc p).rdLat))

/-- STACK_TRAINING_COMPLETE. -/
def execStackTrainingComplete (lats : List (Nat × Nat)) (failed : List Nat) (ms : Nat) (s : State) : Out :=
  .next (s.trainingComplete lats failed ms)

/-! ### Self-refresh (R219, R220) -/

/-- NAP_CHANGE of the stack, and PWR's STATE_CHANGE. -/
def State.napChanged (s : State) (n : Nat) : State := (s.raise (32 + n) 11).raise 2 9

/-- NAP_ENTRY_COMPLETE: at boundary B + 1, the one after its entry began at boundary B, a demand has cancelled the entry, or
the drained stack enters self-refresh and 0.2 µs later NAP. -/
def State.napEntered (s : State) (n : Nat) : State :=
  if s.stackSt n ≠ 2 ∨ s.frameStart ≤ mgetD s.smc.napAt n 0 then s
  else if s.smc.demand.contains n then
    ((s.setStack n 1).smcUp fun x => { x with demand := x.demand.erase n }).releaseReads n
  else if (pcsOf n).any fun p => (s.pc p).wq ≠ [] || (s.pc p).rq ≠ [] || s.smc.waits.any fun w => w.at p then s
  else
    let s := (pcsOf n).foldl (fun s p =>
      let x := s.pc p
      if x.openRows = [] ∧ x.idleAt = [] then s else s.setPc p { x with openRows := [], idleAt := [] }) s
    ((s.toTime (s.frameStart + 100)).setStack n 3).napChanged n

/-- NAP_ENTRY_COMPLETE. -/
def execNapEntryComplete (stack : Nat) (s : State) : Out := .next (s.napEntered stack)

/-- A stack's exit from self-refresh begins (Table 10.5, step 1). -/
def State.napExit (s : State) (n : Nat) : State :=
  (s.setStack n 4).smcUp fun x => { x with napAt := mset x.napAt n s.now }

/-- NAP_EXIT_START: a demand at step 3 of the entry or later starts the exit. -/
def execNapExitStart (stack : Nat) (s : State) : Out :=
  .next (if s.stackSt stack = 3 ∧ s.smc.demand.contains stack ∧ !s.deep then s.napExit stack else s)

/-- The latest boundary is one at which the exit's results, ready 21 µs after its start, are applied (Table 10.5,
step 6). -/
def State.napExitDue (s : State) (n : Nat) : Bool :=
  s.atBoundary && mgetD s.smc.napAt n 0 + 21 * usCycles ≤ s.frameStart

/-- A stack leaves self-refresh with the results of its tracking, and after ZQ calibration: the count to the next regular ZQ
and the temperature at the last one start again (R50, R220). The reads that waited for it enter its queues. -/
def State.napLeft (s : State) (n : Nat) (lats : List (Nat × Nat)) : State :=
  let s := (s.setStack n 1).smcUp fun x => { x with demand := x.demand.erase n }
  let temp := mgetD s.ftm.temps n 0
  let s := s.ftmUp fun f => { f with
    calCount := f.calCount.filter fun e => stackOfPc e.1 ≠ n
    zqTemp := mapIf (fun e => stackOfPc e.1 = n) (fun e => (e.1, temp)) f.zqTemp }
  ((s.applyLats (lats.filter fun e => stackOfPc e.1 = n && (s.pc e.1).state = 1)).napChanged n).releaseReads n

end Sys2Proof.Machine
end

