-- ==== Sys2Proof/Machine/Scrub.lean ====
section
/-! DEFINITION. The scrubber (R238 to R241), the STACK_PARITY rebuild (R247), and the remap registers (R230, R253). -/

namespace Sys2Proof.Machine

/-! ### Scrubbing -/

/-- Granules of one pseudo-channel. -/
def pcGranules : Nat := 2 ^ 25

/-- The granule that a pseudo-channel's scrubber visits as its `n`-th, in ascending physical address order (Table 10.1). -/
def scrubGranule (p n : Nat) : Nat :=
  n / 1024 * 2 ^ 19 + n / 4 % 256 * 2 ^ 11 + (p ^^^ (n / 1024 % 512)) % 512 * 4 + n % 4

/-- First granule of the validity map, and of the reserve (R233). -/
def mapGranule : Nat := 0xFF40000000 / 64
def reserveGranule : Nat := 0xFFC0000000 / 64

/-- The pseudo-channel is scrubbed by the fall-back (R240). -/
def State.onFallback (s : State) (p : Nat) : Bool := !s.hasScrubSlot p && s.fld R.ECC_SCRUB_FALLBACK = 1

/-- The pass period in CK_FT cycles. -/
def State.scrubPeriod (s : State) : Nat := s.fld R.ECC_SCRUB_PERIOD_H * 60 * minuteCycles

/-- The STACK_PARITY extent whose parity range holds a byte address. -/
def State.parityOwner (s : State) (a : Nat) : Option (Nat × Extent) :=
  s.parityExtents.find? fun e => match e.2.parity with
    | some (p, n) => p * 65536 ≤ a && a < (p + n) * 65536
    | none => false

/-- A map granule is lost: every unit that it covers becomes mixed with every bit 0, an empty one too (R241). -/
def State.mapLost (s : State) (g : Nat) : State :=
  let u := (g * 64 - 0xFF40000000) / 128
  let s := s.clearUnits u 1
  (s.eccUp fun x => { x with units := mset x.units u false }).vcachePut u 0

/-- A parity granule that cannot be corrected is formed anew from its members; where one of those is lost too, the group has
lost two members (R246). One that holds a rebuilt member's word is lost with that member (R247). -/
def State.scrubParity (s : State) (e : Extent) (g : Nat) : State :=
  let ps := match e.parity with | some (p, _) => p * 65536 | none => 0
  let members := (groupMembers (e.start * 65536) (e.len * 128) (stripeRow ps (g * 64)) (stackOf (g * 64))).map (· / 64)
  match members.find? s.isRebuilt with
  | some m => s.poisonGroup e m
  | none => s.remakeParity e g members

/-- A scrub read of a granule outside the data of every extent: a parity granule, which carries no tag; one of the map or the
reserve; or, as parity, free space. -/
def State.scrubOther (s : State) (g : Nat) : State :=
  if mapGranule ≤ g then
    match s.mapDecode g with
    | (s, true) => s
    | (s, false) => if g < reserveGranule then s.mapLost g else s
  else
    match s.decoded g with
    | (s, .clean) => s
    | (s, .fixed) => s.corrected g
    | (s, .lost) =>
      let s := s.uncorrectable g
      match s.parityOwner (g * 64) with
      | some (_, e) => s.scrubParity e g
      | none => s.orphanFault

/-- A granule that the scrubber counts as visited without a stack read (R234, R238): an unwritten one. The map and the
reserve are always read as valid (R233). -/
def State.scrubSkips (s : State) (g : Nat) : Bool := g < mapGranule && !s.written g

/-- A scrub read (R241): steps 3 and 4 of Table 11.3, which find a poisoned granule's errors as well. -/
def State.scrubRead (s : State) (g : Nat) : State :=
  match s.extentAt (g * 64) with
  | none => s.scrubOther g
  | some (i, e) =>
    match s.decodeStep e g [] with
    | (s, some .remote) =>
      let (k, s) := s.newKey
      s.askRemote k i e g
    | (s, _) => s

/-- The scrubber of a pseudo-channel may read: it is in service and awake, power is below level 8 (R391), and a SCRUB slot
or the fall-back serves it. -/
def State.scrubs (s : State) (p : Nat) : Bool :=
  p < 512 && (s.pc p).state = 1 && !s.stackNapping (stackOfPc p) && s.fld R.PWR_STATUS_LEVEL ≠ 8 && s.pwr.timer &&
    (s.hasScrubSlot p || s.onFallback p)

/-- A pass ends: its length is recorded, and one of more than 1.5 periods raises LAP_LATE. -/
def State.passEnds (s : State) (p : Nat) : State :=
  let len := s.now - mgetD s.ecc.passAt p 0
  let m := min (len / minuteCycles) 65535
  let fb := s.onFallback p
  let s := s.eccUp fun x => { x with
    lap := if fb then mdel x.lap p else mset x.lap p m
    lapFb := if fb then mset x.lapFb p m else mdel x.lapFb p
    cursor := mset x.cursor p 0
    passAt := mset x.passAt p s.now }
  if s.scrubPeriod * 3 < len * 2 then s.raise 24 10 else s

/-- The re-key sweep of some tenant wants the next idle position at the pseudo-channel (R239). -/
def State.rekeyWants (s : State) (p : Nat) : Bool :=
  s.sec.rekeyAt ≤ s.now * 2000 && s.sec.tenants.any fun t =>
    match t.2.sweep with
    | some m => (s.sweepNext t.1 fun g => pcOf (g * 64) = p && mgetD m p 0 ≤ g && s.sweepable g).isSome
    | none => false

/-- SCRUB_VISIT: the scrubber reaches its next granule at its pace. A granule that is read from its stack takes a position
that the running SCRUB slot has left, or, by the fall-back, a command cycle that the running ACCESS slot has left, after
the rebuild and the re-key sweep (R239, R240); without one the visit waits. A granule with a queued planned write waits for the next pass
(R215). -/
def State.scrubVisit (s : State) (p : Nat) : State :=
  if !s.scrubs p then s
  else
    let n := mgetD s.ecc.cursor p 0
    let at_ := match mget s.ecc.passAt p with | some t => t | none => s.now
    let due := max s.now (at_ + n * s.scrubPeriod / pcGranules)
    let g := scrubGranule p n
    let skip := s.scrubSkips g || (s.pc p).planned.any fun c => c.write && c.g = g
    let stack := !skip && !(s.ecc.remap.any fun x => x.1 = g)
    let place := s.idleAt p g due (s.onFallback p)
    if stack && (place.isNone || s.rekeyWants p || s.rebuildWants p) then s
    else
      let s := s.eccUp fun x => { x with passAt := mset x.passAt p at_ }
      let s := s.toTime due
      let s := match place with | some c => if stack then s.takeIdle p g c false else s | none => s
      let s := if skip then s else (s.scrubRead g).markScrub g
      let s := s.eccUp fun x => { x with cursor := mset x.cursor p (n + 1) }
      if pcGranules ≤ n + 1 then s.passEnds p else s

/-- SCRUB_VISIT. -/
def execScrubVisit (pc : Nat) (s : State) : Out := .next (s.scrubVisit pc)

/-! ### Rebuild -/

/-- A position for the ECC block's command on a granule, which the running SCRUB slot or ACCESS slot of its pseudo-channel
has left idle (R239, R247). -/
def State.leftIdle (s : State) (g : Nat) : Option Nat :=
  let p := pcOf (g * 64)
  match s.idleAt p g s.now false with
  | some c => some c
  | none => s.idleAt p g s.now true

/-- The commands of the move of a member: the reads of its sources, the last of which is the parity location, and, in the
same activation, the write there. None while a position is wanting. -/
def State.rebuildPlaces (s : State) (l : List Nat) : Option State :=
  match l with
  | [] => some s
  | g :: t =>
    let p := pcOf (g * 64)
    if s.offStack g then s.rebuildPlaces t
    else
      match s.leftIdle g with
      | none => none
      | some c =>
        if t ≠ [] then (s.takeIdle p g c false).rebuildPlaces t
        else ((s.pc p).idle.find? fun d => c < d).map fun d => (s.takeIdle p g c false).takeIdle p g d true

/-- The rebuild's work on one group: a lost data member's word goes to the group's parity location, once positions are left
for it; a group that has lost two is counted, and its lost members at pseudo-channels in service are poisoned; so is one whose
rebuilt member stands at a parity location that has been retired since (R246, R247). -/
def State.rebuildGroup (s : State) (e : Extent) (k j : Nat) : Option State :=
  match s.rebuildLost e k j, s.rebuildMember e k j with
  | [], _ =>
    some (match ((groupMembers (e.start * 65536) (e.len * 128) k j).map (· / 64)).find? s.isRebuilt, e.parity with
      | some _, some (ps, _) =>
        let p := parityAddr (ps * 65536) k j / 64
        if s.pcRetired (pcOf (p * 64)) then s.groupLost p else s
      | _, _ => s)
  | _, some g =>
    (s.rebuildPlaces (s.groupSources e g)).map fun s =>
      match s.groupWord e g with
      | (s, some w) =>
        let s := match e.parityOf g with | some p => s.putParity p w | none => s
        s.eccUp fun x => { x with rebuilt := x.rebuilt ++ [g] }
      | (s, none) => s.poisonGroup e g
  | g :: _, none => some (s.poisonGroup e g)

/-- The groups of a rebuild have all been visited: REBUILD_DONE. -/
def State.rebuildDone (s : State) : State :=
  ((s.eccUp fun x => { x with rebuild := none, rowsLeft := 0 }).raise 24 11).debugSync

/-- REBUILD_STEP: the next group of the parity rows; after the last one REBUILD_DONE is raised. None is issued at power level
8 (R391). -/
def State.rebuildStep (s : State) : State :=
  match s.ecc.rebuild with
  | none => s
  | some n =>
    if s.fld R.PWR_STATUS_LEVEL = 8 then s
    else
      match rebuildRow s.parityExtents (n / 8) with
      | none => s.rebuildDone
      | some (e, row) =>
        match s.rebuildGroup e row (n % 8) with
        | none => s
        | some s =>
          let left := s.parityTotal - (n + 1) / 8
          if left = 0 then s.rebuildDone
          else s.eccUp fun x => { x with rebuild := some (n + 1), rowsLeft := left }

/-- REBUILD_STEP. -/
def execRebuildStep (s : State) : Out := .next s.rebuildStep

/-! ### Remap registers -/

/-- The granule at a location of `ECC_REMAP_ADD`. -/
def State.remapTarget (s : State) : Nat :=
  addrOf (s.fld R.ECC_REMAP_ADD_PC) (s.fld R.ECC_REMAP_ADD_BANK) (s.fld R.ECC_REMAP_ADD_ROW) (s.fld R.ECC_REMAP_ADD_COL) / 64

/-- A write of `ECC_REMAP_ADD` with GO (R253). -/
def State.remapGo (s : State) (src : RegSrc) (w : Word64) : State :=
  let w := w ||| BitVec.ofNat 64 (2 ^ 63)
  let s := s.storeReg src 0x18158 w
  let g := s.remapTarget
  let clamp := recordClamp s 24 (fieldNo R.ECC_REMAP_ADD_GO) kState (srcCode src) w (w &&& ~~~ BitVec.ofNat 64 (2 ^ 63))
  if s.fld R.FTM_REBASE_PL_LAT ≠ 0 then clamp
  else if s.ecc.remap.any fun x => x.1 = g then s
  else if 16 ≤ s.remapUsed (pcOf (g * 64)) then clamp
  else
    match s.decoded g with
    | (s, d) => s.remapAdd g (d = .lost)

/-- ECC_REMAP_ADD. -/
def execEccRemapAdd (src : RegSrc) (w : Word64) (s : State) : Out := .next (s.remapGo src w)

/-- The word of `ECC_REMAP_LOG`: the oldest new entry not yet read. -/
def State.remapLogWord (s : State) : Word64 :=
  match s.ecc.remapLog with
  | [] => 0
  | g :: _ =>
    let a := g * 64
    BitVec.ofNat 64 (pcOf a + bankOf a * 2 ^ 9 + rowOf a * 2 ^ 15 + colOf a * 2 ^ 30 + 2 ^ 63)

end Sys2Proof.Machine
end

