-- ==== Sys2Proof/Machine/Pair.lean ====
section
/-! DEFINITION. Lichen pairs (chapter 15): forming the pair connection, epoch records and the copy of the partner's set,
mirrored data, leases, fencing, takeover, handover, resync, and ring parity. -/

namespace Sys2Proof.Machine

/-! ### The pair connection (R322, R336, R356) -/

/-- This device's side of its pair: 0 for the lower device index (R320). -/
def State.side (s : State) : Nat := if s.devIndex < s.fld R.PAR_CFG_PARTNER then 0 else 1

/-- The `PAR_STATUS` codes and terms of both sets as a HELLO reports them. -/
def State.ownHello (s : State) : Hello :=
  ⟨Config.station 8, s.side, BitVec.ofNat 32 s.par.set0.term,
    BitVec.ofNat 32 s.par.set1.term, s.par.set0.st, s.par.set1.st⟩

/-- Pair messages have a path: the symbiont link, or the ring links when `ALT_PATH` allows it (R322). -/
def State.pairPath (s : State) : Bool := s.symbiontUp || s.fld R.PAR_CFG_ALT_PATH = 1

/-- A change of a set's state at this device: PAIR_CHANGE is raised, and debug access follows (R361). -/
def State.setSetState (s : State) (k st : Nat) : State :=
  let p := s.pset k
  if p.st = st then s else ((s.setPset k { p with st := st }).raise 26 10).debugSync

/-! ### Epoch records of the holder (R324 to R328) -/

/-- Split entries into those that fit in a number of units, and the rest. -/
def splitUnits (n : Nat) : List EpochEntry → List EpochEntry × List EpochEntry
  | [] => ([], [])
  | e :: t =>
    if entryUnits e ≤ n then let (a, b) := splitUnits (n - entryUnits e) t; (e :: a, b) else ([], e :: t)

/-- The entries of a record whose first byte lies in fragment `i`, the header of 64 bytes before them (R326). -/
def fragEntries (l : List EpochEntry) (i : Nat) : List EpochEntry :=
  (l.foldl (fun (acc : Nat × List EpochEntry) e =>
    (acc.1 + 32 * entryUnits e, if acc.1 / 32768 = i then acc.2 ++ [e] else acc.2)) (64, [])).2

/-- Fragments of a record (R326). -/
def fragCount (l : List EpochEntry) : Nat := ceilDiv (64 + 32 * recordUnits l) 32768

/-- One fragment of a record as it is sent. -/
def State.fragOf (s : State) (k : Nat) (r : EpochRec) (i : Nat) : Sent :=
  .epoch k (s.pset k).term (r.alive % 65536) i (fragCount r.entries - 1) r.handover r.base r.crc (fragEntries r.entries i)

/-- Send a record, every fragment, and await its answer. -/
def State.sendRecord (s : State) (k : Nat) (r : EpochRec) : State :=
  let s := s.peerSend partnerPeer (.epoch k r.alive) 0 (s.fragOf k r 0)
  (List.range (fragCount r.entries - 1)).foldl (fun s i => s.emit (s.fragOf k r (i + 1))) s

/-- Head of an entry (Table 15.3): KIND and its length in units. -/
def entryHead (kind : Nat) (e : EpochEntry) : List Byte := [BitVec.ofNat 8 kind, BitVec.ofNat 8 (entryUnits e)]

/-- The 16-byte directory entry (Table 7.3). -/
def dirEntryBytes (line st : Nat) (coarse : Bool) (tenant gen : Nat) (ptrs groups : List Nat) : List Byte :=
  leBytes 8 (st + bit01 coarse 4 + tenant % 64 * 2 ^ 4 + gen % 2 ^ 14 * 2 ^ 10 + line % 2 ^ 33 * 2 ^ 24) ++
    leBytes 8 (if coarse then (groups.map fun g => 2 ^ (g % 64)).sum
      else ((numbered (ptrs.take 4)).map fun x => x.2 % 4096 * 2 ^ (12 * x.1)).sum + ptrs.length % 8 * 2 ^ 48)

/-- The bytes of an entry (Table 15.3): its fields in order, little-endian, padded with zeros to its units. -/
def EpochEntry.bytes (e : EpochEntry) : List Byte :=
  fitBytes (32 * entryUnits e) (match e with
    | .extent i st gen t start len prot hint co tr =>
      entryHead 1 e ++ leBytes 4 i ++ fitBytes 32 (Config.entryField 1 [st, gen, t, start, len, prot, hint, bit01 co 1, tr])
    | .grant i h r => entryHead 2 e ++ leBytes 4 i ++ leBytes 2 h ++ leBytes 1 r
    | .dir l st co t gen ps gs => entryHead 3 e ++ dirEntryBytes l st co t gen ps gs
    | .member h c st => entryHead 4 e ++ leBytes 2 h ++ leBytes 2 c ++ leBytes 1 st
    | .sync n typ du fa fu crc ws =>
      entryHead 5 e ++ leBytes 2 n ++ leBytes 8 (typ + bit01 du 8 + bit01 fa 16 + bit01 fu 32 + crc.toNat * 2 ^ 32) ++
        fitBytes 64 (ws.flatMap (bvBytes 8))
    | .waiter n h id sop us a =>
      entryHead 6 e ++ leBytes 2 n ++ leBytes 2 h ++ bvBytes 6 id ++ leBytes 1 sop ++ leBytes 2 us ++
        fitBytes 64 (a.flatMap (bvBytes 8))
    | .replay t h id st aux body =>
      entryHead 7 e ++ leBytes 1 t ++ leBytes 2 h ++ bvBytes 6 id ++ fitBytes 21 (Config.entryField 7 [st, aux.toNat, body.length]) ++ body
    | .mark h m => entryHead 8 e ++ leBytes 2 h ++ bvBytes 6 m
    | .pfx t key b v stamp => entryHead 9 e ++ leBytes 1 t ++ bvBytes 16 key ++ leBytes 4 b ++ leBytes 4 v ++ leBytes 8 stamp
    | .pin h b us => entryHead 10 e ++ leBytes 2 h ++ leBytes 4 b ++ leBytes 4 us
    | .block b st o => entryHead 11 e ++ leBytes 4 b ++ leBytes 1 st ++ leBytes 2 o)

/-- CRC-32C over a whole record, its header (Table 15.2) with the CRC field taken as zero (R250). -/
def recordCrc (set : Nat) (handover base : Bool) (term epoch alive : Nat) (entries : List EpochEntry) : Nat :=
  let head := [BitVec.ofNat 8 (set % 2 + bit01 handover 2 + bit01 base 4), 0, 0, 0] ++ leBytes 4 term ++ leBytes 8 epoch ++
    leBytes 2 alive ++ [0, 0] ++ leBytes 4 (recordUnits entries)
  (crc32c (fitBytes 64 head ++ entries.flatMap EpochEntry.bytes)).toNat

/-- Stamp a record with the alive counter and the CRC of unit 0, and send it. -/
def State.stampRecord (s : State) (k : Nat) (handover base : Bool) (entries rest : List EpochEntry) : State :=
  let p := s.pset k
  let crc := recordCrc k handover base p.term s.frame (p.alive + 1) entries
  let r : EpochRec := ⟨p.alive + 1, s.frame, handover, base, entries, crc⟩
  let s := s.setPset k { p with alive := p.alive + 1, log := rest, unacked := p.unacked ++ [r] }
  let s := (s.setWord 0x19210 (BitVec.ofNat 64 crc)).countWrap R.PAR_EPOCH_SENT
  s.sendRecord k r

/-- Written granules of the mirrored extents of a set, which a resync copies (R337). -/
def State.copyGranules (s : State) (k : Nat) : List Nat :=
  (s.xlt.extents.filter fun e => setOfIndex e.1 = k && (e.2.prot = 2 || e.2.prot = 4)).flatMap fun e =>
    ((List.range (e.2.len * 1024)).map (· + e.2.start * 1024)).filter s.written

/-- A holder's epoch record of the frame just ended, at its boundary (R324). While the partner is brought up, records
carry BASE until the base image and every copy granule have gone (R337); at most 16 records are unacknowledged. -/
def State.epochSend (s : State) (k : Nat) : State :=
  let s := s.mirrorDrain
  let p := s.pset k
  if !(s.paired && s.par.formed && (p.st = 2 || (p.st = 1 && p.filling))) || 16 ≤ p.unacked.length then s
  else
    let base := p.filling && (!p.baseDone || mgetD s.par.resync k [] ≠ [])
    let (now, rest) := splitUnits s.recordLimit p.log
    let s := s.stampRecord k false base now rest
    if p.filling ∧ !p.baseDone ∧ rest = [] then
      let copies := s.copyGranules k
      let p := s.pset k
      let s := s.setPset k { p with baseDone := true }
      if copies = [] then s.raise 26 11
      else (s.parUp fun x => { x with resync := mset x.resync k copies }).debugSync
    else s

/-- Every entry of a set: its base image (R337). -/
def State.baseEntries (s : State) (k : Nat) : List EpochEntry :=
  (s.xlt.extents.filter fun e => setOfIndex e.1 = k).map (fun e => extentEntry e.1 e.2 (stateCode e.2.state)) ++
  (s.xlt.quarantine.filter fun i => setOfIndex i = k).map (fun i => .extent i 4 (s.genOf i) 0 0 0 0 0 false 0) ++
  (s.xlt.grants.filter fun g => setOfIndex (g.1 % 2 ^ 18) = k).map (fun g => .grant (g.1 % 2 ^ 18) (g.1 / 2 ^ 18) g.2) ++
  (s.dir.entries.filter fun d => setOfIndex d.index = k && s.mirrored d.index).map
    (fun d => dirRecord d (if d.owned then 2 else 1)) ++
  (s.dir.members.filter fun m => m.1 < 4096 && m.2.set = k).map
    (fun m => .member m.1 m.2.credits (if m.2.state = 0 then 0 else 2)) ++
  (s.syn.objs.filter fun o => setOfObj o.1 = k).map (fun o => syncEntry o.1 o.2) ++
  (s.syn.waiters.filter fun w => setOfObj w.obj = k).map (fun w => s.waiterEntry w w.sop) ++
  (s.acc.replay.filter fun e => e.set = k).filterMap (fun e => e.ans.map fun a =>
    .replay e.tenant e.holder e.reqId a.status (BitVec.ofNat 64 a.aux) (a.body.take 96)) ++
  (s.acc.marks.filter fun m => m.1 % 3 = k).map (fun m => .mark (m.1 / 3) (BitVec.ofNat 48 m.2)) ++
  (s.pfx.entries.filter fun e => s.setOfBlock e.block = k).map (fun e => .pfx e.tenant e.key e.block e.version e.stamp) ++
  (s.pfx.pins.filter fun p => s.setOfBlock p.block = k).map
    (fun p => .pin p.holder p.block (ceilDiv (p.ends - s.now) usCycles)) ++
  (s.pfx.blocks.filter fun b => s.setOfBlock b.1 = k).map (fun b => .block b.1 b.2.st b.2.owner)

/-- Begin to bring the partner up for a set: its base image goes ahead of later changes (R336, R337). -/
def State.beginFill (s : State) (k : Nat) : State :=
  let p := s.pset k
  s.setPset k { p with filling := true, baseDone := false, log := s.baseEntries k, unacked := [], alive := 0 }

/-! ### Fencing (R333) -/

/-- The set of an extent handle, sync object, block's arena or key that a request names. -/
def State.namesSet (s : State) (k : Nat) (r : Req) : Bool :=
  (r.op.addrs.any fun a => setOfIndex (a.handle.toNat % 2 ^ 18) = k) ||
  match r.op with
  | .sync _ x => setOfObj x.obj.toNat = k
  | .kvAlloc h | .kvFree h _ | .publish h _ _ | .republish h _ _ _ => setOfIndex (h.toNat % 2 ^ 18) = k
  | .unpublish key _ | .lookup key =>
    (match s.findKey r.tenant key with | some e => s.setOfBlock e.block = k | none => false)
  | .unpin b => s.setOfBlock b.toNat = k
  | _ => false

/-- Complete held requests, each once; one that stands for a piece of a longer operation ends with that. -/
def State.refuseAll (s : State) (status : Nat) : List Req → State
  | [] => s
  | r :: t => (if r.chunk.isSome ∨ t.any r.same then s else s.refuse r status).refuseAll status t

/-- Bulk moves of a set end at once, whatever their chunks wait for. -/
def State.stopMoves (s : State) (p : Req → Bool) : State :=
  let ended := fun (m : Move) => { m with fate := some (m.answer Status.notHolder), held := none }
  s.accUp fun a => { a with moves := mapIf (fun m => p m.req && m.fate.isNone) ended a.moves }

/-- The requests of a set that wait inside the device are taken out of where they wait: for acknowledgements, other devices,
write queues, the directory. A coherent request whose grant has been sent has had its answer (R4). -/
def State.takeWaiting (s : State) (k : Nat) (p : Req → Bool) : List Req × State :=
  let answered := fun (t : Txn) => t.kind ≠ .acc && t.grant.isSome
  let recorded := fun (x : Parked) => x.set = k && x.record.isSome       -- no record of the set will be acknowledged
  let l := (s.parked.filter fun x => p x.req || recorded x).map (·.req) ++ (s.par.fetches.filter fun f => p f.2.1).map (·.2.1) ++
    s.engineReqs.filter p ++ s.dir.ready.filter p ++ (s.dir.waiters.filter fun w => p w.req).map (·.req) ++
    (s.dir.txns.filter fun t => setOfIndex t.index = k && !answered t).filterMap (·.req) ++
    (s.acc.prefetch.filter fun x => p x.req).map (·.req)
  let stays := fun (w : WaitWrite) => match w.who with | .req r => !p r | .entry _ => true
  let s : State := { s with parked := s.parked.filter fun x => !(p x.req || recorded x) }
  let s := s.parUp fun x => { x with fetches := x.fetches.filter fun f => !p f.2.1 }
  let s := s.smcUp fun x => { x with waits := x.waits.filter stays }
  let s := s.dirUp fun x => { x with
    ready := x.ready.filter fun r => !p r
    waiters := x.waiters.filter fun w => !p w.req
    txns := x.txns.filter fun t => setOfIndex t.index ≠ k }
  (l, s.accUp fun a => { a with prefetch := a.prefetch.filter fun x => !p x.req })

/-- Calls with an argument in a set end with NOT_HOLDER; a running call with none, but with an outstanding operation on one of
the set's objects, ends with CALL_FAULT DETAIL 15 (R103, R333 step 2). -/
def State.stopCalls (s : State) (k : Nat) : State :=
  let calls := fun (c : CallRec) => c.binds.any fun b => b.rows ≠ 0 && setOfIndex b.index = k
  let s := match s.runCall with
    | some (r, c) =>
      if calls c then s.endRun Status.notHolder 0 0
      else if r.ops.any (fun o => setOfObj o.obj = k && o.result.isNone) then s.endRun Status.callFault 15 0
      else s
    | none => match s.windowCall with
      | some (_, c) => if calls c then s.endWindow Status.notHolder 0 0 else s
      | none => s
  s.endQueued calls (queuedEnd Status.notHolder 0 0)

/-- Every request of a set in progress completes with NOT_HOLDER, and nothing more is owed to the partner for it
(R333 step 2). -/
def State.stopSet (s : State) (k : Nat) : State :=
  let p := s.namesSet k
  let owed := fun (q : PeerReq) => match q.kind, q.msg with | .mirror _, .mirror j .. => j = k | _, _ => false
  let s := s.parUp fun x => { x with reqs := x.reqs.filter fun q => !owed q }
  let s := s.fenceWaiters k
  let s := s.sweepHeld s.acc.nextKey p Status.notHolder
  let s := s.stopMoves p
  let (l, s) := s.takeWaiting k p
  let s := s.refuseAll Status.notHolder l
  let rings := s.pfx.ring.filter fun x => p x.req
  let s := rings.foldl (fun s x => s.ringEnd x (mkAns x.req.op Status.notHolder) false k) s
  s.stopCalls k

/-- A set is fenced (R333): service of it ends, and FENCED is raised. Records already sent are not waited for. -/
def State.fence (s : State) (k : Nat) : State :=
  let s := s.stopSet k
  let s := s.setSetState k 3
  let s := (s.raise 26 9).count R.PAR_COUNTS_FENCES
  let p := s.pset k
  let s := s.setPset k { p with filling := false }
  let s := s.xltUp fun x => x.mapCmds fun c =>
    { c with waitRecord := if setOfIndex c.index = k then none else c.waitRecord }
  s.parUp fun x => { x with
    reqs := x.reqs.filter fun q => match q.kind with | .epoch j _ => j ≠ k | _ => true
    resync := mdel x.resync k }

/-- What this device copied of a set, or held of it before a fence, is discarded; data in the stacks stays (R336). -/
def State.discardSet (s : State) (k : Nat) : State :=
  let s := s.xltUp fun x => { x with
    extents := x.extents.filter fun e => setOfIndex e.1 ≠ k
    gens := x.gens.filter fun g => setOfIndex g.1 ≠ k
    quarantine := x.quarantine.filter fun i => setOfIndex i ≠ k
    grants := x.grants.filter fun g => setOfIndex (g.1 % 2 ^ 18) ≠ k
    tlb := x.tlb.filter fun a => setOfIndex a.index ≠ k
    revokes := x.revokes.filter fun r => setOfIndex r.1 ≠ k }
  let s := s.dirUp fun x => { x with
    entries := x.entries.filter fun d => setOfIndex d.index ≠ k
    members := x.members.filter fun m => m.2.set ≠ k }
  let s := s.pfxUp fun x => { x with
    entries := x.entries.filter fun e => s.setOfBlock e.block ≠ k
    pins := x.pins.filter fun p => s.setOfBlock p.block ≠ k
    blocks := x.blocks.filter fun b => s.setOfBlock b.1 ≠ k }
  let s := s.synUp fun x => { x with
    objs := x.objs.filter fun o => setOfObj o.1 ≠ k
    waiters := x.waiters.filter fun w => setOfObj w.obj ≠ k }
  let s := s.accUp fun x => { x with
    replay := x.replay.filter fun e => e.set ≠ k
    marks := x.marks.filter fun m => m.1 % 3 ≠ k }
  s.parUp fun x => { x with lostExtents := x.lostExtents.filter fun i => setOfIndex i ≠ k }

/-- Granules of this device's parity area (R339). -/
def State.parityArea (s : State) : Nat × Nat :=
  (s.fld R.PAR_RPP_P_BASE * 1024, s.fld R.PAR_RPR_D_UNITS / 4 * 1024)

/-- A set begins to be copied from its holder: with a parity area in use, that is rebuilt as well (R336, R341). -/
def State.enterResync (s : State) (k term : Nat) : State :=
  let s := s.discardSet k
  let s := s.setPset k { resetSet with st := (s.pset k).st, term := term, renewal := s.frame }
  let s := s.setSetState k 4
  if s.fld R.PAR_RPG_RP_EN = 1 then
    let (a, n) := s.parityArea
    s.eccUp fun x => { x with recon := x.recon ++ (List.range n).map (· + a) }
  else s

/-- A message told this device of a higher term for a set (R323): it is counted, and a holder fences the set and lets
its state go. -/
def State.staleTerm (s : State) (k term : Nat) : State :=
  let s := s.count R.PAR_COUNTS_STALE_TERM
  let s := if (s.pset k).st = 1 ∨ (s.pset k).st = 2 then s.fence k else s
  if (s.pset k).st = 3 then s.enterResync k term else s

/-! ### HELLO (R336) -/

/-- What a HELLO decides for one set: `st` and `term` are the partner's, `side` tells whether this device is the set's
side. -/
def State.helloSet (s : State) (k st term : Nat) (mySide : Bool) : State :=
  let p := s.pset k
  let heldThere := st = 1 || st = 2 || st = 6
  if p.st = 0 then
    if heldThere ∨ p.term < term then s.enterResync k term
    else if mySide then
      let s := s.setPset k { resetSet with term := 1 }
      (s.setSetState k 1).beginFill k
    else s.enterResync k 1
  else if p.st = 1 ∨ p.st = 2 then
    if p.term < term then s.staleTerm k term
    else if p.st = 1 ∧ (st = 0 ∨ st = 4) then s.beginFill k
    else s
  else if p.st = 3 ∧ p.term < term then s.enterResync k term
  else s

/-- PAIR_HELLO: its answer is this device's own, and each set is decided. -/
def State.pairHello (s : State) (h : Hello) : State :=
  if !(s.paired && s.par.formed) then s
  else
    let s := s.emit (.hello s.ownHello)
    let s := s.parUp fun x => { x with hello := some h, reqs := x.reqs.filter fun q => q.kind ≠ .hello }
    let s := s.helloSet 0 h.state0 h.term0.toNat (s.side = 0)
    s.helloSet 1 h.state1 h.term1.toNat (s.side = 1)

/-- PAIR_HELLO. -/
def execPairHello (h : Hello) (s : State) : Out := .next (s.pairHello h)

/-- Resend the holder's records from a counter on (R327 step 3). -/
def State.resendFrom (s : State) (k alive : Nat) : State :=
  let p := s.pset k
  let rs := p.unacked.filter fun r => (r.alive + 65536 - alive % 65536) % 65536 < 32768
  let s := s.parUp fun x => { x with
    reqs := x.reqs.filter fun q => match q.kind with | .epoch j _ => j ≠ k | _ => true }
  rs.foldl (fun s r => s.sendRecord k r) s

/-- At pair formation the last accepted counters are 0 (R327): records still unacknowledged are numbered anew, and what
waits for them with them. -/
def State.renumber (s : State) (k : Nat) : State :=
  let p := s.pset k
  let d := p.alive - p.unacked.length
  let s := s.setPset k { p with
    alive := if p.st = 2 ∨ p.st = 1 then p.unacked.length else 0
    frags := []
    unacked := p.unacked.map fun r => { r with alive := r.alive - d } }
  let held := mapIf (fun x => x.set = k) (fun x => { x with record := x.record.map (· - d) }) s.parked
  let s : State := { s with parked := held }
  let s := s.seqUp fun q => { q with run := q.run.map fun r =>
    { r with durable := r.durable.map fun x => if x.1 = k then (k, x.2 - d) else x } }
  s.xltUp fun x => { x.mapCmds (fun c =>
      { c with waitRecord := if setOfIndex c.index = k then c.waitRecord.map (· - d) else c.waitRecord }) with
    revokes := mapIf (fun r => setOfIndex r.1 = k) (fun r => (r.1, r.2.map (· - d))) x.revokes }

/-- The pair connection has formed over a mutual SPDM session: HELLO goes to the partner. -/
def State.pairForm (s : State) (ok : Bool) : State :=
  if !(s.paired && s.pairPath && s.domId ≠ 0 && !s.par.formed) then s
  else if ok then
    let s := s.parUp fun x => { x with formed := true, alt := !s.symbiontUp }
    let s := (s.renumber 0).renumber 1
    let s := s.peerSend partnerPeer .hello 0 (.hello s.ownHello)
    let s := (s.resendFrom 0 1).resendFrom 1 1
    -- records that were owed when the connection failed go again (R18)
    let owed := fun (q : PeerReq) => match q.kind with | .mirror _ => true | _ => false
    (s.parUp fun x => { x with
      unsent := (x.reqs.filter owed).map (·.key)
      reqs := mapIf owed (fun q => { q with tries := 0 }) x.reqs }).mirrorDrain
  else (s.count R.SEC_COUNTS_BIND_FAIL).raise 11 9

/-- PAIR_CONNECTION_FORM. -/
def execPairConnectionForm (ok : Bool) (s : State) : Out := .next (s.pairForm ok)

/-- PEER_SESSION_RETRY: the session of the pair, or of a peer, is tried again; a session between two devices forms its
connection (R299, R356). -/
def execPeerSessionRetry (pair : Bool) (peer : Nat) (ok : Bool) (s : State) : Out :=
  if pair then .next (s.pairForm ok)
  else if s.domId = 0 ∨ s.par.peers.contains peer then .next s
  else if ok then .next (s.parUp fun x => { x with peers := peer :: x.peers })
  else .next ((s.count R.SEC_COUNTS_BIND_FAIL).raise 11 9)

/-! ### The copy of the partner's set (R327) -/

/-- The extent of set `k` whose range, in this device's addresses, holds a byte. -/
def State.copyAt (s : State) (k a : Nat) : Option (Nat × Extent) :=
  s.xlt.extents.find? fun e => setOfIndex e.1 = k && e.2.start * 65536 ≤ a && a < (e.2.start + e.2.len) * 65536

/-- A ring-parity address of the other device of the pair as this device places it, and back (R341). -/
def flipAway (a : Nat) : Nat := if awayBase ≤ a then a - awayBase else a + awayBase

/-- A copied directory entry takes a way as R161 places a new one; none while every way open to it is pinned. -/
def State.placeDir (s : State) (d : DirEntry) : Option State :=
  let ways := s.dirWays d.tenant
  let inSet := s.dir.entries.filter fun y => dirSetOf y.line = dirSetOf d.line
  match ways.find? (fun w => !(inSet.any fun y => y.way = w)) with
  | some w => some (s.dirUp fun x => { x with entries := { d with way := w } :: x.entries })
  | none =>
    match s.dirWay d.tenant d.line with
    | some (w, some v) =>
      some ((s.evictEntry v).dirUp fun x => { x with entries := { d with way := w } :: x.entries })
    | _ => none

/-- The DIR entry of a record: the line lies in a copied extent, of this device's addresses or of the other's. -/
def State.copyDir (s : State) (k line st : Nat) (coarse : Bool) (tenant gen : Nat) (ptrs groups : List Nat) :
    Option State :=
  let away := flipAway (line * 128)
  let place := match s.copyAt k away with
    | some (i, e) => if e.prot = 3 then some (i, away / 128) else none
    | none => none
  let place := match place with
    | some x => some x
    | none => (s.copyAt k (line * 128)).map fun (x : Nat × Extent) => (x.1, line)
  match place with
  | none => some s
  | some (i, l) =>
    let old := s.dir.entries.find? fun d => d.line = l && d.index = i
    let s := s.dirUp fun x => { x with entries := x.entries.filter fun d => !(d.line = l && d.index = i) }
    if st = 0 then some s
    else
      let d : DirEntry := ⟨l, i, 0, st = 2, coarse, tenant, gen, ptrs, groups⟩
      match old with
      | some o => some (s.dirUp fun x => { x with entries := { d with way := o.way } :: x.entries })
      | none => s.placeDir d

/-- The source of a request that has no frame here: a waiter copied from the partner. -/
def noSrc : Src := ⟨0, 0, 0, 0, 0, 0, 0, 0, 0, 0, none, none⟩

/-- The connection number of a request whose holder has no connection here; no connection has it. -/
def noConn : Nat := 65536

/-- A copied waiter as a request of this device. -/
def State.copyReq (s : State) (holder : Nat) (reqId : BitVec 48) (sop obj leftUs : Nat) (a : List Word64) : Req :=
  ⟨.ipt, noConn, holder, s.holderTenant holder, noSrc, 0, reqId, false, false, false, 0, s.now, true, [], [], none, none, true, false,
    false, none, none, .sync (BitVec.ofNat 8 sop) ⟨true, BitVec.ofNat 16 leftUs, BitVec.ofNat 16 obj, a⟩, 0⟩

/-- A copied prefix-index entry: a full set gives up its least recent unpinned entry; with every entry pinned the copy is
dropped and counted (R327). -/
def State.copyPfx (s : State) (t : Nat) (key : BitVec 128) (block version stamp : Nat) : State :=
  let same := fun (e : PfxEntry) => e.tenant = t && e.key = key && s.setOfBlock e.block = s.setOfBlock block
  let s := s.pfxUp fun x => { x with entries := x.entries.filter fun e => !same e }
  if version = 0 then s
  else
    let put := fun (s : State) => s.pfxUp fun x => { x with
      entries := x.entries ++ [⟨t, key, block, version, stamp⟩], stamp := max x.stamp stamp }
    let inSet := fun (e : PfxEntry) => e.tenant = t && s.keySet t e.key = s.keySet t key
    if (s.pfx.entries.filter inSet).length < 8 then put s
    else match s.leastRecent inSet with
      | some e => put (s.evictPfx e)
      | none => s.count R.PAR_COUNTS_COPY_DROPS

/-- Apply one entry of a record of set `k` (Table 15.3); none while it waits for a way of the directory. A cached status that
Table 0.4 does not name is taken as INTERNAL_ERROR (R4, R5). -/
def State.applyEntry (s : State) (k : Nat) (e : EpochEntry) : Option State :=
  match e with
  | .extent i st gen tenant start len prot hint coherent trights =>
    if st = 0 ∨ st = 4 then
      some (s.xltUp fun x => { x with
        extents := mdel x.extents i
        gens := mset x.gens i gen
        quarantine := (x.quarantine.filter (· ≠ i)) ++ (if st = 4 then [i] else [])
        grants := x.grants.filter fun g => g.1 % 2 ^ 18 ≠ i })
    else
      let here := if prot = 3 then flipAway (start * 65536) / 65536 else start
      let old := s.extent i
      let par := match old with | some o => if o.gen = gen then o.parity else none | none => none
      let xs := if st = 1 then XState.opened else if st = 2 then .closing else .closed
      let s := s.setExtent i ⟨xs, gen, here, len, tenant, prot, hint, coherent, trights, par⟩
      let s := s.parUp fun x => { x with ranges := x.ranges.filter fun r => r.1 ≠ i }
      -- R341: a returning member rebuilds its data region
      if prot = 3 ∧ here < poolUnits ∧ old.isNone ∧ (s.pset k).st = 4 then
        some (s.eccUp fun x => { x with recon := x.recon ++ (List.range (len * 1024)).map (· + here * 1024) })
      else some s
  | .grant i holder rights =>
    some (s.xltUp fun x => { x with
      grants := if rights = 0 then mdel x.grants (grantKey holder i) else mset x.grants (grantKey holder i) rights })
  | .dir line st coarse tenant gen ptrs groups => s.copyDir k line st coarse tenant gen ptrs groups
  | .member holder credits st =>
    some (s.dirUp fun x => { x with
      members := if st = 1 then mdel x.members (4096 + holder)
        else mset x.members (4096 + holder)
          ⟨s.holderTenant holder, noConn, credits, if st = 0 then 0 else 1, s.now, k⟩ })
  | .sync n typ durable faulted full crc words =>
    some (s.synUp fun x => { x with
      objs := if typ = 0 ∧ !faulted then mdel x.objs n else mset x.objs n ⟨typ, durable, faulted, full, crc, words⟩ })
  | .waiter obj holder reqId sop leftUs a =>
    let rest := s.syn.waiters.filter fun w => !(w.obj = obj && w.req.holder = holder && w.req.reqId = reqId)
    -- the request is in progress for the replay cache as well, so that a reissue is not executed twice (R201)
    let open_ := fun (e : ReplayEntry) => e.partner && e.holder = holder && e.reqId = reqId && e.ans.isNone
    let s := s.accUp fun x => { x with replay := x.replay.filter fun e => !open_ e }
    if sop = 0 then some (s.synUp fun x => { x with waiters := rest })
    else
      let s := s.accUp fun x => { x with
        replay := x.replay ++ [⟨s.holderTenant holder, holder, reqId, none, none, true, true, k⟩] }
      let w : SyncWaiter := ⟨obj, sop, s.copyReq holder reqId sop obj leftUs a, q8 a, a.take 2,
        if leftUs = 0 then none else some (s.now + leftUs * usCycles)⟩
      some (s.synUp fun x => { x with waiters := rest ++ [w] })
  | .replay tenant holder reqId status aux body =>
    some (s.accUp fun x => { x with
      replay := (x.replay.filter fun e => !(e.partner && e.tenant = tenant && e.holder = holder && e.reqId = reqId)) ++
        [⟨tenant, holder, reqId, some ⟨min status Status.internalError, aux.toNat, body, 0, 0, 0⟩, none, true, false, k⟩] })
  | .mark holder mark =>
    some (s.accUp fun x => { x with
      marks := mset x.marks (markKey holder k) mark.toNat
      replay := x.replay.filter fun e => !(e.partner && e.holder = holder && reqIdLe e.reqId.toNat mark.toNat) })
  | .pfx t key block version stamp =>
    -- entries of a PLAIN arena do not survive the loss of their device (R178)
    let plain : Bool := match s.extent (s.arenaIndex (arenaOfBlock block)) with | some x => x.prot ≠ 2 | none => false
    some (if plain then s else s.copyPfx t key block version stamp)
  | .pin holder block leftUs =>
    let rest := s.pfx.pins.filter fun p => !(p.holder = holder && p.block = block)
    some (s.pfxUp fun x => { x with
      pins := rest ++ (if leftUs = 0 then [] else [⟨holder, block, s.now + leftUs * usCycles⟩]) })
  | .block b st owner => some (s.pfxUp fun x => { x with blocks := msetD x.blocks b ⟨st, owner⟩ freeBlock })

/-- Apply entries in order. -/
def State.applyEntries (s : State) (k : Nat) : List EpochEntry → Option State
  | [] => some s
  | e :: t => match s.applyEntry k e with
    | some s => s.applyEntries k t
    | none => none

/-! ### Takeover (R334) -/

/-- The set's term after a takeover or handover (R331). -/
def nextTerm (t : Nat) : Nat := if t = 0xFFFFFFFF then 1 else t + 1

/-- TAKING begins (R334 steps 1 and 2): the term advances, PLAIN and STACK_PARITY extents are LOST, and the set's members
become this device's own. -/
def State.startTaking (s : State) (k : Nat) (handed : Bool) : State :=
  let p := s.pset k
  let s := s.setPset k { p with term := nextTerm p.term, alive := 0, frags := [], log := [], unacked := [], handed := handed }
  let s := s.setSetState k 6
  let lost := s.xlt.extents.filter fun e => setOfIndex e.1 = k && (e.2.prot = 0 || e.2.prot = 1) &&
    (s.par.lostExtents.contains e.1 = false)
  let s := lost.foldl (fun s e => (s.setExtent e.1 { e.2 with state := .closed, parity := none }).asyncFault e.2.tenant
    Status.poisoned (handleOf e.2.gen e.1) 0 0) s
  let names := lost.map (·.1)
  let s := s.parUp fun x => { x with lostExtents := x.lostExtents ++ names }
  -- entries and pins of their arenas go with them (R178)
  let s := ((List.range 256).filter fun a =>
    s.fld (R.PFX_ARENA_VALID.at (8 * a)) = 1 && names.contains (s.arenaIndex a)).foldl (fun s a => s.emptyArena a) s
  let copies := s.dir.members.filter fun m => 4096 ≤ m.1
  s.dirUp fun x => { x with
    entries := x.entries.filter fun d => !names.contains d.index
    members := copies.foldl (fun l m =>
      let h := m.1 - 4096
      let l := mdel l m.1
      if (mget l h).isSome then l else mset l h { m.2 with conn := (s.connOf h).getD noConn }) x.members }

/-- TAKEOVER_START: the first boundary at least 14 frames after the standby accepted its latest record (R332). -/
def execTakeoverStart (set : Nat) (s : State) : Out :=
  let k := set % 2
  .next (if s.paired && (s.pset k).st = 5 && (s.pset k).renewal + 14 ≤ s.frame then s.startTaking k false else s)

/-- A copied waiter is answered with TAKEOVER on its holder's connection here; with none, the NOTIFY is held for 1 s
(R201, R334 step 3). -/
def State.takeoverWait (s : State) (w : SyncWaiter) : State :=
  match s.connOf w.req.holder with
  | some c =>
    let w' := { w with req := { w.req with conn := c } }
    let s := s.synUp fun x => { x with waiters := mapIf (fun y => y = w) (fun _ => w') x.waiters }
    s.endWait w' (resOk false ((s.obj w.obj).timeoutWords w')) true
  | none =>
    let res := (resOk false ((s.obj w.obj).timeoutWords w)).body true
    let body := w.req.op.msgBody res
    let s := if w.req.op.cached then s.replayDone w.req (mkAns w.req.op Status.ok 0 res) else s
    let pkt := OutPkt.ipt 2 0x59 Status.ok noConn 0 w.req.reqId 0 0 0 body none false noSrc
    let s := s.synUp fun x => { x with waiters := x.waiters.erase w }
    s.parUp fun x => { x with heldNotify := x.heldNotify ++ [(w.req.holder, s.now + 1000000 * usCycles, pkt)] }

/-- The objects of a set that may have changed: those that are listed, and those of the tenants' ranges, whose first INIT the
standby may not have seen. -/
def State.objectsOf (s : State) (k : Nat) : List Nat :=
  let owned := (List.range 64).flatMap fun t =>
    (List.range (s.fld (R.SYN_TCFG_OBJ_COUNT.at (0x10 * t)))).map (· + s.fld (R.SYN_TCFG_OBJ_BASE.at (0x10 * t)))
  ((s.syn.objs.map (·.1) ++ owned).filter fun n => setOfObj n = k).eraseDups

/-- The work of TAKING ends (R334 steps 3 to 5): the set is held as SOLE. -/
def State.takeoverEnd (s : State) (k : Nat) : State :=
  let p := s.pset k
  let objs := s.objectsOf k
  let lost := if p.handed then []
    else objs.filter fun n => (Config.freeBits 11 (s.freeCtr * 65536 + n)).getLsbD 0
  let s := (s.tick.faultObjects lost).setSetState k 1
  let s := (s.syn.waiters.filter fun w => setOfObj w.obj = k && w.req.conn = noConn).foldl
    (fun s w => s.takeoverWait w) s
  let s := s.takeoverPins k (s.now + 2000 * usCycles)
  let twice := s.pfx.entries.filter fun e => s.setOfBlock e.block = k &&
    s.pfx.entries.any fun y => y.tenant = e.tenant && y.key = e.key && s.setOfBlock y.block ≠ k
  let s := twice.foldl (fun s e => (s.dropEntry e).unpublishBlock e.block) s
  let s := (s.raise 26 8).count R.PAR_COUNTS_TAKEOVERS
  let q := s.pset k
  let s := s.setPset k { q with
    holdUntil := some (s.now + s.fld R.PAR_CFG_HOLD_US * usCycles)
    renewal := s.frame
    filling := p.handed && s.par.formed
    baseDone := p.handed }
  s.debugSync

/-- TAKEOVER_COMPLETE. -/
def execTakeoverComplete (set : Nat) (s : State) : Out :=
  .next (if s.taking (set % 2) then s.takeoverEnd (set % 2) else s)

/-- HELD_NOTIFY_DISCARD: a held NOTIFY has waited 1 s. -/
def execHeldNotifyDiscard (holder : Nat) (s : State) : Out :=
  match s.par.heldNotify.find? (fun h => h.1 = holder) with
  | none => .next s
  | some h =>
    let s := s.toTime h.2.1
    .next (s.parUp fun x => { x with heldNotify := x.heldNotify.filter fun y => !(y.1 = holder && y.2.1 ≤ s.now) })

/-- REPLAY_HOLD_EXPIRE: the replay entries kept after a takeover begin to expire (R334 step 5). -/
def execReplayHoldExpire (set : Nat) (s : State) : Out :=
  let k := set % 2
  match (s.pset k).holdUntil with
  | none => .next s
  | some t =>
    let s := s.toTime t
    let p := s.pset k
    let s := s.setPset k { p with holdUntil := none }
    .next (s.accUp fun x => { x with
      replay := mapIf (fun e => e.partner && e.set = k) (fun e => { e with partner := false, expires := some s.now }) x.replay })

/-! ### The standby's side of a record (R326, R327) -/

/-- The OK answer to an EPOCH: SET, ALIVE, TERM. -/
def State.epochOk (s : State) (k : Nat) : State :=
  s.emit (.pairAnswer 0x79 Status.ok 0 [k, (s.pset k).alive % 65536, (s.pset k).term])

/-- Counters that a new term starts again. -/
def State.newTerm (s : State) (k term : Nat) : State :=
  let p := s.pset k
  s.setPset k { p with term := term, alive := 0, frags := [], unacked := [] }

/-- A whole record: CRC, alive counter, then its entries (R327). -/
def State.record (s : State) (k : Nat) (fs : List EpochFrag) (f : EpochFrag) : State :=
  let h := fs.headD f                                   -- the header stands in the first fragment
  let crc := recordCrc h.set h.handover h.base h.term.toNat h.epoch h.alive (fs.flatMap fun x => x.entries)
  let clear := fun (s : State) => let p := s.pset k; s.setPset k { p with frags := [] }
  let s := s.crcCompare 1 h.crc.toNat crc
  if h.crc.toNat ≠ crc then clear s
  else
    let last := (s.pset k).alive
    if f.alive % 65536 = last % 65536 then ((clear s).aliveReject 1).epochOk k
    else if !aliveAccepts last f.alive then
      ((clear s).aliveReject 1).emit (.pairAnswer 0x79 Status.conflict ((last + 1) % 65536) [])
    else
      match s.applyEntries k (fs.flatMap fun x => x.entries) with
      | none => s                                       -- the answer waits until a way frees
      | some s =>
        let p := s.pset k
        let s := s.setPset k { p with alive := last + 1, frags := [], renewal := s.frame }
        let s := (s.setFld (R.CRC_STAT_LAST_ALIVE.at 0x40) (f.alive % 65536)).epochOk k
        if f.handover then s.startTaking k true
        else if !f.base ∧ (s.pset k).st = 4 then s.setSetState k 5
        else s

/-- EPOCH: one fragment arrives. Fragments of a record are held until all are here; one with a higher ALIVE discards an
incomplete record before it. -/
def State.epochIn (s : State) (f : EpochFrag) : State :=
  let k := f.set % 2
  let p := s.pset k
  if !(s.paired && s.par.formed) then s
  else if f.term.toNat < p.term then
    (s.count R.PAR_COUNTS_STALE_TERM).emit (.pairAnswer 0x79 Status.notHolder p.term [])
  else if p.term < f.term.toNat ∧ (p.st = 1 ∨ p.st = 2) then s.staleTerm k f.term.toNat
  else if p.term < f.term.toNat ∧ p.st = 3 then s.enterResync k f.term.toNat
  else if p.st ≠ 4 ∧ p.st ≠ 5 then s
  else
    let s := if p.term < f.term.toNat then s.newTerm k f.term.toNat else s
    let p := s.pset k
    -- a record that comes again is counted with its last fragment (R251)
    if f.alive % 65536 = p.alive % 65536 then (if f.frag = f.nfrag then s.aliveReject 1 else s).epochOk k
    else
      let kept := p.frags.filter fun x => x.alive = f.alive && x.frag ≠ f.frag
      let all_ := kept ++ [f]
      let s := s.setPset k { p with frags := all_ }
      if all_.length ≤ f.nfrag then s.epochOk k
      else
        let sorted := (List.range (f.nfrag + 1)).filterMap fun i => all_.find? fun x => x.frag = i
        s.record k sorted f

/-- EPOCH. -/
def execEpoch (f : EpochFrag) (s : State) : Out := .next (s.epochIn f)

/-- The partner has accepted every record up to one of the holder's (R328, R332): the lease is renewed at the boundary
that sent it, and what waited for those records goes on. -/
def State.recordAcked (s : State) (k : Nat) (r : EpochRec) : State :=
  let p := s.pset k
  let done := p.unacked.filter fun x => x.alive ≤ r.alive
  let s := s.setPset k { p with
    renewal := max p.renewal r.frame, unacked := p.unacked.filter fun x => r.alive < x.alive }
  let s := s.countWrap R.PAR_EPOCH_ACKED done.length
  let s := s.parUp fun x => { x with
    reqs := x.reqs.filter fun q => match q.kind with | .epoch j a => !(j = k && a ≤ r.alive) | _ => true }
  let over_ := fun (n : Nat) => n ≤ r.alive
  let held := mapIf (fun x => x.set = k)
    (fun x => { x with record := x.record.bind fun n => if over_ n then none else some n }) s.parked
  let s : State := { s with parked := held }
  let s := s.xltUp fun x => { x.mapCmds (fun c => { c with waitRecord :=
      (if setOfIndex c.index = k then c.waitRecord.bind fun n => if over_ n then none else some n else c.waitRecord) }) with
    revokes := mapIf (fun r => setOfIndex r.1 = k && (match r.2 with | some n => over_ n | none => false))
      (fun r => (r.1, none)) x.revokes }
  let s := s.releaseParked
  let s := if done.any (fun x => !x.base) ∧ (s.pset k).st = 1 then
      let q := s.pset k
      let s := s.setPset k { q with filling := false }
      s.setSetState k 2
    else s
  if done.any (fun x => x.handover) ∧ (s.pset k).st = 3 then
    let q := s.pset k
    let s := s.setPset k { q with renewal := s.frame, alive := 0 }
    s.setSetState k 5
  else s

/-- EPOCH_ACK: the partner's answer to a record of set `set`. -/
def State.epochAck (s : State) (k status alive term : Nat) : State :=
  if status = Status.notHolder then s.staleTerm k term
  else if status = Status.conflict then s.resendFrom k alive
  else if status = Status.ok then
    match (s.pset k).unacked.find? (fun r => r.alive % 65536 = alive % 65536) with
    | none => s
    | some r => s.recordAcked k r
  else s

/-- LEASE_FENCE: the holder's tenth boundary after its latest renewal point (R332). -/
def execLeaseFence (set : Nat) (s : State) : Out :=
  let k := set % 2
  .next (if s.paired && (s.pset k).st = 2 && (s.pset k).renewal + 10 ≤ s.frame then s.fence k else s)

/-- HANDOVER: a write of `PAR_CTRL` with HANDOVER (R338). -/
def State.handover (s : State) (k : Nat) (force : Bool) : State :=
  let result := fun (s : State) (n : Nat) => s.setFld R.PAR_STATUS_HO_RESULT n
  if (s.pset k).st ≠ 2 ∨ !s.paired then result s 1
  else if !s.par.formed then result s 3
  else if !force && (s.xlt.extents.any fun e =>
      setOfIndex e.1 = k && e.2.state = .opened && (e.2.prot = 0 || e.2.prot = 1)) then result s 2
  else
    let s := (result s 0).fence k
    let p := s.pset k
    s.stampRecord k true false p.log []

/-- HANDOVER. -/
def execHandover (src : RegSrc) (w : Word64) (s : State) : Out :=
  let s := s.storeReg src 0x1A110 (w ||| 0x8000000000000000)
  .next (s.handover (s.fld R.PAR_CTRL_SET) (s.fld R.PAR_CTRL_FORCE = 1))

/-! ### Resync (R337) -/

/-- The copy of a set is complete: RESYNC_DONE, and the partner is no longer a lost member (R341). -/
def State.resyncDone (s : State) (k : Nat) : State :=
  let s := s.parUp fun x => { x with resync := mdel x.resync k }
  let lost := s.fld R.PAR_RPG_LOST
  let j := s.partnerPos
  let s := if lost.testBit j ∧ s.rpMember j = s.fld R.PAR_CFG_PARTNER then s.setFld R.PAR_RPG_LOST (lost - 2 ^ j) else s
  (s.raise 26 11).debugSync

/-- RESYNC_COPY: the next written granule goes to the partner as a MIRROR of kind 2. None is sent at L = 8, nor while a mirrored record waits for
the symbiont link (R19). -/
def State.resyncCopy (s : State) (k : Nat) : State :=
  match mgetD s.par.resync k [] with
  | [] => s
  | g :: t =>
    if s.fld R.PWR_STATUS_LEVEL = 8 ∨ !s.par.formed ∨ s.par.unsent ≠ [] then s
    else
      let s := match s.extentAt (g * 64) with
        | some (i, e) =>
          (match s.readGranule e g [] with
          | (s, .data bs) => s.mirrorSend i 2 (g * 64) bs none 0
          | (s, _) => s)
        | none => s
      if t = [] then s.resyncDone k else s.parUp fun x => { x with resync := mset x.resync k t }

/-- RESYNC_COPY. -/
def execResyncCopy (set : Nat) (s : State) : Out := .next (s.resyncCopy (set % 2))

/-- RESYNC_TIMEOUT: 14 frames without a record end a resync (Table 15.6). -/
def execResyncTimeout (set : Nat) (s : State) : Out :=
  let k := set % 2
  if (s.pset k).st = 4 ∧ (s.pset k).renewal + 14 ≤ s.frame then
    let s := s.discardSet k
    let p := s.pset k
    let s := s.setPset k { resetSet with st := p.st }
    .next (s.setSetState k 0)
  else .next s

/-! ### Ranges of mirrored extents (R321) -/

/-- A range meets the one that a mirrored CREATE of this device has offered to the partner and waits for. -/
def State.rangeOffered (s : State) (start len : Nat) : Bool :=
  match s.xlt.cmd with
  | some c => c.op = 1 && c.waitRange && overlaps start len (c.start, bitsOf c.arg0.toNat 24 24)
  | none => false

/-- PAIR_RANGE: the partner reserves or releases a range here; lengths and starts in 64 KiB units. DESIGN CHOICE (entry 69): the
range that a CREATE of this device has offered and awaits an answer for counts as taken, so that crossing CREATEs of one range
do not both succeed (R321, R434). -/
def State.pairRangeIn (s : State) (op index start len : Nat) : State :=
  let answer := fun (s : State) (r : Nat) => s.emit (.pairAnswer 0x77 Status.ok 0 [r])
  if !(s.paired && s.par.formed) then s
  else if op = 0 then
    if !s.rangeFree start len ∨ s.rangeOffered start len then answer s xOverlap
    else if poolUnits < s.usedUnits + len then answer s xNoSpace
    else answer (s.parUp fun x => { x with ranges := x.ranges ++ [(index, start, len)] }) xOk
  else
    let s := s.parUp fun x => { x with ranges := x.ranges.filter fun r => r.1 ≠ index }
    let s := match s.extent index with
      | some e => if s.holds (setOfIndex index) then s else s.setExtent index { e with prot := 0 }
      | none => s
    answer (s.clearUnits start len) xOk

/-- PAIR_RANGE. -/
def execPairRange (op set : Nat) (term : BitVec 32) (index start len : Nat) (s : State) : Out :=
  let _ := (set, term)
  .next (s.pairRangeIn op index start len)

/-- PAIR_RANGE_ANSWER. -/
def execPairRangeAnswer (result : Nat) (s : State) : Out := .next (s.rangeAnswer result)

/-- XLT_CMD_DONE. -/
def execXltCmdDone (s : State) : Out := .next s.xltDone

/-! ### Mirrored data (R323, R329, R330) -/

/-- The term of a message of set `k`: a message of a lower term is answered NOT_HOLDER with the known term. -/
def State.termRefuses (s : State) (op k term : Nat) : Option State :=
  if term < (s.pset k).term then
    some ((s.count R.PAR_COUNTS_STALE_TERM).emit (.pairAnswer op Status.notHolder (s.pset k).term []))
  else none

/-- MIRROR: data of a write, an atomic with its replay entry, or a resync copy is applied to the copy. -/
def State.mirrorIn (s : State) (k term off : Nat) (data : List Byte) (replay : Option EpochEntry) : State :=
  if !(s.paired && s.par.formed) then s
  else
    match s.termRefuses 0x7A k term with
    | some s => s
    | none =>
      if (s.pset k).st ≠ 4 ∧ (s.pset k).st ≠ 5 then s
      else
        let s := (List.range (data.length / 64)).foldl (fun s j =>
          let a := off / 64 * 64 + 64 * j
          match s.copyAt k a with
          | some (_, e) =>
            let s := s.putGranule (a / 64) e.tenant e.prot (fitBytes 64 (data.drop (64 * j))) false false
            s.wqEnter (a / 64) e.tenant false
          | none => s) s
        let s := match replay with
          | some e => (s.applyEntry k e).getD s
          | none => s
        s.emit (.pairAnswer 0x7A Status.ok 0 [])

/-- MIRROR. -/
def execMirror (set kind : Nat) (term : BitVec 32) (off : Nat) (data : List Byte) (replay : Option EpochEntry)
    (s : State) : Out :=
  let _ := kind
  .next (s.mirrorIn (set % 2) term.toNat off data replay)

/-- Take a request to another device out of those that await an answer. -/
def State.takeReq (s : State) (key : Nat) : State := s.parUp fun x => { x with reqs := x.reqs.filter fun q => q.key ≠ key }

/-- The request to another device with a key. -/
def State.peerReq (s : State) (key : Nat) : Option PeerReq := s.par.reqs.find? fun q => q.key = key

/-- MIRROR_ACK: the partner has the copy (R18), or knows a higher term. -/
def State.mirrorAck (s : State) (key status term : Nat) : State :=
  match s.peerReq key with
  | some q => match q.kind, q.msg with
    | .mirror park, .mirror k .. =>
      let s := s.takeReq key
      if status = Status.notHolder then s.staleTerm k term else (s.unpark park).mirrorDrain
    | _, _ => s
  | none => s

/-- Read `n` granules of the copy from `a` upward; none when one of them is lost. -/
def State.readCopy (s : State) (k a : Nat) : Nat → State × Option (List Byte)
  | 0 => (s, some [])
  | n + 1 =>
    match s.copyAt k a with
    | none => (s, none)
    | some (_, e) =>
      match s.readGranule e (a / 64) [] with
      | (s, .data bs) =>
        (match s.readCopy k (a + 64) n with
        | (s, some rest) => (s, some (bs ++ rest))
        | (s, none) => (s, none))
      | (s, _) => (s, none)

/-- PAIR_READ: granules of this device's copy; POISONED when one is lost here too. -/
def State.pairReadIn (s : State) (k term off granules : Nat) : State :=
  if !(s.paired && s.par.formed) then s
  else
    match s.termRefuses 0x7B k term with
    | some s => s
    | none =>
      match s.readCopy k (off / 64 * 64) granules with
      | (s, some bs) => s.emit (.pairData Status.ok bs)
      | (s, none) => s.emit (.pairData Status.poisoned [])

/-- PAIR_READ. -/
def execPairRead (set : Nat) (term : BitVec 32) (off granules : Nat) (s : State) : Out :=
  .next (s.pairReadIn (set % 2) term.toNat off granules)

/-- PAIR_READ_ANSWER: the copy serves the request that waited, and is written back (R330). DESIGN CHOICE (entry 68): the
answer carries 64 bytes and no residual flag, so the granule written back has none. -/
def State.pairReadAnswer (s : State) (key status : Nat) (data : List Byte) : State :=
  match s.peerReq key with
  | some q => match q.kind with
    | .read park => (s.takeReq key).fetched park (q.off / 64) (if status = Status.ok then some (fitBytes 64 data, false) else none)
    | _ => s
  | none => s

/-! ### Ring parity (R339 to R341) -/

/-- A granule of the parity area; zeros until something has updated it. -/
def State.parityWord (s : State) (g : Nat) : List Byte := mgetD s.par.rpWords g (List.replicate 72 0)

/-- RP_UPDATE: P′ = P XOR delta. -/
def execRpUpdate (peer off : Nat) (delta : List Byte) (s : State) : Out :=
  let _ := peer
  let g := off / 64
  let new := xorBytes (s.parityWord g) (fitBytes 72 delta)
  let s := s.parUp fun x => { x with rpWords := msetD x.rpWords g new (List.replicate 72 0) }
  .next ((s.wqEnter g 0 false).emit (.pairAnswer 0x7C Status.ok 0 []))

/-- The write of a RING_PARITY granule takes effect, for the answer `park` and what waits for the line (R340). -/
def State.ringTakes (s : State) (park : Nat) (put : RingPut) : State := ((s.ringPut park put).unpark park).homeDone (put.g / 2)

/-- RP_UPDATE_ACK: the parity member has the delta, and the write takes effect (R340). -/
def State.rpUpdateAck (s : State) (key : Nat) : State :=
  match s.peerReq key with
  | some q => match q.kind with
    | .rpUpdate park put => (s.takeReq key).ringTakes park put
    | _ => s
  | none => s

/-- RP_READ: a stored word of the parity area or of the data region; unwritten granules count as zero. -/
def State.rpReadIn (s : State) (off : Nat) (parity : Bool) : State :=
  let g := off / 64
  if parity then s.emit (.rpWord Status.ok (s.parityWord g))
  else
    match s.extentAt (g * 64) with
    | none => s.emit (.rpWord Status.ok (List.replicate 72 0))
    | some (_, e) =>
      match s.readGranule e g [] with
      | (s, .data _) => s.emit (.rpWord Status.ok (s.wordOf e.tenant g))
      | (s, _) => s.emit (.rpWord Status.poisoned [])

/-- RP_READ. -/
def execRpRead (peer off : Nat) (parity : Bool) (s : State) : Out :=
  let _ := peer
  .next (s.rpReadIn off parity)

/-- RP_READ_ANSWER: the XOR of the four words is the lost one, which is decoded and written back; with fewer than four, or
when it does not decode, the granule is lost (R340). A word of the parity area is stored as it is. -/
def State.rpReadAnswer (s : State) (key : Nat) (words : List (List Byte)) : State :=
  match s.peerReq key with
  | none => s
  | some q => match q.kind with
    | .rpRead park =>
      let s := s.takeReq key
      let g := q.off / 64
      let x := words.foldl (fun a w => xorBytes a (fitBytes 72 w)) (List.replicate 72 0)
      let (pa, pn) := s.parityArea
      if words.length ≠ 4 then s.fetched park g none
      else if pa ≤ g ∧ g < pa + pn ∧ s.fld R.PAR_RPG_RP_EN = 1 then
        s.parUp fun y => { y with rpWords := msetD y.rpWords g x (List.replicate 72 0) }
      else
        match s.extentAt (q.off) with
        | none => s.fetched park g none
        | some (_, e) =>
          let s := if awayBase ≤ q.off then s.parUp fun y => { y with rpWords := mset y.rpWords g x } else s
          let bs := if x = List.replicate 72 0 then some (List.replicate 64 0, false)
            else if q.off < awayBase ∧ x = s.wordOf e.tenant g then some (s.granule g, metaResidual (s.gmeta g))
            else s.plainOf e g x
          s.fetched park g bs
    | _ => s

/-! ### Retransmission (R266) -/

/-- A ring-parity member is treated as failed: its bit of LOST is set, and writes complete without its update (R341). -/
def State.memberFailed (s : State) (peer : Nat) : State :=
  let s := match (List.range 5).find? (fun j => s.rpMember j = peer) with
    | some j =>
      if s.fld R.PAR_RPG_RP_EN = 1 ∧ (s.fld R.PAR_RPG_LOST).testBit j = false then
        (s.setFld R.PAR_RPG_LOST (s.fld R.PAR_RPG_LOST + 2 ^ j)).raise 26 12
      else s
    | none => s
  let mine := s.par.reqs.filter fun q => q.peer = peer
  let s := s.parUp fun x => { x with reqs := x.reqs.filter fun q => q.peer ≠ peer, peers := x.peers.filter (· ≠ peer) }
  let s := mine.foldl (fun s q => match q.kind with
    | .rpUpdate park put => (s.ringPut park put).unpark park
    | .rpRead park => s.fetched park (q.off / 64) none
    | _ => s) s
  mine.foldl (fun s q => match q.kind with | .rpUpdate _ put => s.homeDone (put.g / 2) | _ => s) s

/-- A set that this device holds alone, whose copy was being brought up, goes on without it: what waited for a record of it
waits no more (R200, R336). -/
def State.fillStops (s : State) (k : Nat) : State :=
  let p := s.pset k
  let s := s.setPset k { p with filling := false }
  if p.st = 1 then
    let s := s.seqUp fun q => { q with run := q.run.map fun r =>
      { r with durable := match r.durable with | some (j, n) => if j = k then none else some (j, n) | none => none } }
    let freed := mapIf (fun x => x.set = k) (fun x => { x with record := none }) s.parked
    ({ s with parked := freed } : State).releaseParked
  else s

/-- The partner is treated as failed: the pair connection is over. Reads it owed are lost; a device that served its set
alone goes on without the copy, and a mirrored CREATE has no partner. Mirrored records of a set that has a standby stay
owed until the fence, which follows by the lease (R18, R20). -/
def State.partnerFailed (s : State) : State :=
  let owed := fun (q : PeerReq) => match q.kind, q.msg with | .mirror _, .mirror k .. => (s.pset k).st = 2 | _, _ => false
  let mine := s.par.reqs.filter fun q => q.peer = partnerPeer && !owed q
  let s := s.parUp fun x => { x with
    formed := false, resync := [], reqs := x.reqs.filter fun q => q.peer ≠ partnerPeer || owed q }
  let s := mine.foldl (fun s q => match q.kind with
    | .read park => s.fetched park (q.off / 64) none
    | .mirror park => s.unpark park
    | _ => s) s
  let s := (s.fillStops 0).fillStops 1
  let s := match s.xlt.cmd with
    | some c =>
      if !c.waitRange then s
      else if c.op = 1 then s.cmdDone 1 c.tenant c.named xNoPartner 0
      else s.xltUp fun x => { x with cmd := some { c with waitRange := false } }
    | none => s
  s.debugSync

/-- PEER_RETRANSMIT: 20 µs without an answer; after the third retransmission the peer is treated as failed. A record goes
again whole. -/
def State.peerRetransmit (s : State) (key : Nat) : State :=
  match s.peerReq key with
  | none => s
  | some q =>
    let s := s.toTime (q.sentAt + 20 * usCycles)
    if s.par.unsent.contains key then s.mirrorDrain
    else if 3 ≤ q.tries then (if q.peer = partnerPeer then s.partnerFailed else s.memberFailed q.peer)
    else
      let s := s.parUp fun x => { x with
        reqs := mapIf (fun y => y.key = key) (fun y => { y with tries := y.tries + 1, sentAt := s.now }) x.reqs }
      match q.kind with
      | .epoch k alive =>
        (match (s.pset k).unacked.find? (fun r => r.alive = alive) with
        | some r => (List.range (fragCount r.entries)).foldl (fun s i => s.emit (s.fragOf k r i)) s
        | none => s)
      | _ => s.emit q.msg

end Sys2Proof.Machine
end

