-- ==== Sys2Proof/Machine/Qos.lean ====
section
/-! DEFINITION. Policing, fair queueing and shaping (chapter 14): the token buckets, the overload limits and advertised
credit, the egress scheduler of a sub-port, and the queue histograms. -/

namespace Sys2Proof.Machine

/-! ### Policers and shapers (R306, R312) -/

/-- The offset of `QOS_PS_p_t` from that of port 0 and tenant 0. -/
def psOff (port t : Nat) : Nat := (if port < 4 then 0 else 0x1000) + 8 * (64 * (port % 4) + t)

/-- A bucket's tokens now, in fifths of a byte: a rate of 1 is 100 MB/s, one fifth of a byte in each 2 ns. -/
def Bucket.now (b : Bucket) (rate cap now : Nat) : Nat := min cap (b.tok + rate * (now - b.at_))

/-- A policer's capacity in fifths of a byte, and its tokens. -/
def State.policeTok (s : State) (port t : Nat) : Nat × Nat :=
  let cap := s.fld (R.QOS_PS_t1_P_BURST_KIB.at (psOff port t)) * 5120
  let rate := s.fld (R.QOS_PS_t1_P_RATE.at (psOff port t))
  (cap, match mget s.qos.police (64 * port + t) with | some b => b.now rate cap s.now | none => cap)

/-- The policer of a tenant at a port judges a cost: it passes and its tokens go, or it does not. A rate of 0 passes all. -/
def State.police (s : State) (port t cost : Nat) : Bool × State :=
  if s.fld (R.QOS_PS_t1_P_RATE.at (psOff port t)) = 0 then (true, s)
  else
    let (_, tok) := s.policeTok port t
    if 5 * cost ≤ tok then
      (true, s.qosUp fun q => { q with police := mset q.police (64 * port + t) ⟨tok - 5 * cost, s.now⟩ })
    else (false, s)

/-- The time at which a policer's bucket holds enough for a cost. -/
def State.policeAt (s : State) (port t cost : Nat) : Nat :=
  let rate := s.fld (R.QOS_PS_t1_P_RATE.at (psOff port t))
  if rate = 0 then s.now
  else s.now + ceilDiv (5 * cost - (s.policeTok port t).2) rate

/-- A shaper's tokens, in fifths of a byte. -/
def State.shapeTok (s : State) (port t : Nat) : Nat :=
  let cap := s.fld (R.QOS_PS_t1_S_BURST_KIB.at (psOff port t)) * 5120
  let rate := s.fld (R.QOS_PS_t1_S_RATE.at (psOff port t))
  match mget s.qos.shape (64 * port + t) with | some b => b.now rate cap s.now | none => cap

/-- A shaper holds the cost of a packet, or does not shape. -/
def State.shapeOk (s : State) (port t cost : Nat) : Bool :=
  s.fld (R.QOS_PS_t1_S_RATE.at (psOff port t)) = 0 || 5 * cost ≤ s.shapeTok port t

/-- A shaper's tokens for a chosen packet go. -/
def State.shapeTake (s : State) (port t cost : Nat) : State :=
  if s.fld (R.QOS_PS_t1_S_RATE.at (psOff port t)) = 0 then s
  else s.qosUp fun q => { q with shape := mset q.shape (64 * port + t) ⟨s.shapeTok port t - 5 * cost, s.now⟩ }

/-- The policer of a tenant at a port is filled (R309). -/
def State.policeFill (s : State) (port t : Nat) : State :=
  s.qosUp fun q => { q with police := mdel q.police (64 * port + t) }

/-- The shaper of a tenant at a port takes its tokens of S_RESET (R313). -/
def State.shapeReset (s : State) (port t : Nat) : State :=
  if s.fld (R.QOS_PS_t1_S_RESET.at (psOff port t)) = 0 then s.qosUp fun q => { q with shape := mdel q.shape (64 * port + t) }
  else s.qosUp fun q => { q with shape := mset q.shape (64 * port + t) ⟨0, s.now⟩ }

/-! ### Work in progress (R316, R317) -/

/-- Each request of a list once. -/
def distinctReqs : List Req → List Req
  | [] => []
  | r :: t => if t.any r.same then distinctReqs t else r :: distinctReqs t

/-- Requests that hold receiver credit: those that have arrived and have had neither RESPONSE nor ACCEPT put into an egress
queue (R265). -/
def State.held_ (s : State) : List Req :=
  distinctReqs (((s.qos.acq.filterMap fun x => match x.kind with | .req r => some r | _ => none) ++
    (s.acc.rdma.filterMap fun m => if s.qos.acq.any fun x => x.kind = .rdma m.key then some m.req else none) ++
    (s.dir.waiters.map fun w => w.req) ++ ((s.dir.txns.filter fun t => t.grant.isNone).filterMap fun t => t.req) ++
    s.engineReqs ++
    (s.parked.filterMap fun p => if p.toAccept || !p.req.accepted then some p.req else none) ++
    (s.par.fetches.map fun f => f.2.1) ++ (s.sec.rotating.map fun x => x.2) ++ (s.sec.verifying.map fun x => x.2.1) ++
    s.dir.ready).filter fun r => !r.accepted && r.chunk.isNone && (match r.via with | .ring _ => false | _ => true))

/-- Requests in progress that satisfy `p`, and their answers that wait in the egress queues, which `q` picks out. -/
def State.inProgress (s : State) (p : Req → Bool) (q : EgItem → Bool) : Nat :=
  (s.held_.filter p).length + (s.qos.egr.filter fun e => e.reqBytes.isSome && q e).length

/-- Requests of a tenant in progress. -/
def State.progOf (s : State) (t : Nat) : Nat := s.inProgress (fun r => r.tenant = t) fun e => e.tenant = some t

/-- Requests in progress on the device. -/
def State.progAll (s : State) : Nat := s.inProgress (fun _ => true) fun _ => true

end Sys2Proof.Machine

namespace Sys2Proof

open Machine

/-- The cost of the answer that a request will send (Table 14.1). -/
def ReqOp.answerCost (op : ReqOp) : Nat :=
  64 + match op with
    | .read a | .rdNa a => a.rwLen
    | .swap a _ | .cas a _ _ | .fetchAdd a _ | .fetchAnd a _ | .fetchOr a _ | .fetchXor a _ | .fetchSmin a _
    | .fetchSmax a _ | .fetchUmin a _ | .fetchUmax a _ => a.width
    | .rdS _ | .rdX _ | .upg _ => 136
    | .lookup _ => 32
    | .sync _ _ => 72
    | .faultPop _ => 256
    | _ => 0

end Sys2Proof

namespace Sys2Proof.Machine

/-- The egress cost in progress of the requests that satisfy `p` at a sub-port. -/
def State.egressIn (s : State) (port sub : Nat) (p : Nat → Bool) : Nat :=
  ((s.held_.filter fun r => r.src.port = port && r.src.sub = sub && p r.tenant).map fun r => r.op.answerCost).sum +
    ((s.qos.egr.filter fun e => e.port = port && e.sub = sub && e.reqBytes.isSome &&
      (match e.tenant with | some t => p t | none => false)).map fun e => e.cost).sum

/-- Σ w of the shares of R316: over the tenants with work in progress in shared mode, over all in strict mode. -/
def State.shareSum (s : State) (busy : Nat → Bool) : Nat :=
  sumTenants fun t => if s.strict || busy t then s.accWeight t else 0

/-- A tenant holds more than its share of a limit. -/
def State.overShare (s : State) (limit mine t : Nat) (busy : Nat → Bool) : Bool :=
  limit * s.accWeight t < mine * s.shareSum busy || (s.shareSum busy = 0 && 1 < mine)

/-- A tenant has work in progress. -/
def State.busyTenant (s : State) (t : Nat) : Bool := s.progOf t ≠ 0

/-- A tenant holds more than its share of the device's requests, or of a sub-port's bytes (R317). -/
def State.tenantOver (s : State) (port sub t : Nat) : Bool :=
  s.overShare (s.fld R.QOS_OVL_DEV_REQ) (s.progOf t) t s.busyTenant ||
    s.overShare (s.fld R.QOS_OVL_PORT_KIB * 1024 / s.subCount port) (s.egressIn port sub fun u => u = t) t s.busyTenant

/-- A refusal for overload is counted and raised (R316). -/
def State.overload (s : State) (t : Nat) : State := (s.count (R.QOS_TSTAT_REFUSED.at (0x10 * t))).raise 28 9

/-- The device or sub-port limit refuses a request whose tenant holds more than its share. -/
def State.limitRefuses (s : State) (r : Req) : Bool :=
  let dev := s.fld R.QOS_OVL_DEV_REQ
  let port := s.fld R.QOS_OVL_PORT_KIB * 1024 / s.subCount r.src.port
  (dev ≤ s.progAll && s.overShare dev (s.progOf r.tenant + 1) r.tenant fun t => t = r.tenant || s.busyTenant t) ||
    (port < s.egressIn r.src.port r.src.sub (fun _ => true) + r.op.answerCost &&
      s.overShare port (s.egressIn r.src.port r.src.sub (fun t => t = r.tenant) + r.op.answerCost) r.tenant
        fun t => t = r.tenant || s.busyTenant t)

/-- ACCESS commands queued at a pseudo-channel, of one tenant or of all. -/
def State.depthOf (s : State) (p : Nat) (t : Option Nat) : Nat :=
  ((s.pc p).rq.filter fun e => forTenant t e.tenant).length + ((s.pc p).wq.filter fun e => forTenant t e.tenant).length

/-- A request's stack granules would take some pseudo-channel beyond its depth (R316). -/
def State.depthRefuses (s : State) (t : Nat) (gs : List Nat) : Bool :=
  let who := if s.strict then some t else none
  let limit := if s.strict then s.strictShare (s.fld R.QOS_OVL_PC_DEPTH) t else s.fld R.QOS_OVL_PC_DEPTH
  let pcs := gs.map fun g => pcOf (g * 64)
  pcs.any fun p => limit < s.depthOf p who + (pcs.filter (· = p)).length

/-- The connection has written a MIRROR extent, and mirrored records wait for the symbiont link (R19). -/
def State.mirrorHeld (s : State) (c : Nat) : Bool :=
  s.par.unsent ≠ [] && s.parked.any fun p => p.mirror && (match p.req.via with | .ipt | .send _ => true | _ => false) && p.req.conn = c

/-- Writes of the connection wait for a full write queue (R209). -/
def State.writesHeld (s : State) (c : Nat) : Bool :=
  let mine := fun (r : Req) => (match r.via with | .ipt | .send _ => true | _ => false) && r.conn = c
  s.smc.waits.any fun w => match w.who with
    | .req r => mine r
    | .entry e => e.key ≠ 0 && s.parked.any fun p => p.key = e.key && mine p.req

/-- The credit that an answer advertises on connection `c` (R19, R209, R265, R317): least while it is held back. -/
def State.advert (s : State) (c port sub t : Nat) : Nat × Nat :=
  if s.tenantOver port sub t || s.mirrorHeld c || s.writesHeld c then (1, 4) else (s.fld R.PRT_IPT_CFG_CRED_REQ, s.fld R.PRT_IPT_CFG_CRED_KIB)

/-! ### The egress scheduler (R310 to R314) -/

/-- The PCP of a packet, for priority flow control (R256, R257). -/
def OutPkt.pcp : OutPkt → Nat
  | .ipt _ _ _ _ _ _ _ _ _ _ _ _ d | .send d .. | .roceAck d _ _ | .roceNak d _ _ _ | .roceRnr d _ _ _ | .roceRead d ..
  | .roceAtomic d _ _ _ | .arpReply d .. | .neighbourAdvert d .. | .echoReply d .. => d.pcp.toNat
  | .pfc .. => 8

/-- The queue pair whose sending rate a packet takes (R276). -/
def OutPkt.rated : OutPkt → Option Nat
  | .send _ n .. => some n
  | .roceRead _ n .. => some n
  | _ => none

/-- The sub-port's priority flow control and the queue pair's rate let a packet go now. -/
def State.mayGo (s : State) (e : EgItem) : Bool :=
  (match mget (s.sub e.port e.sub).paused e.pkt.pcp with | some t => decide (t ≤ s.now) | none => true) &&
    (match e.pkt.rated with
    | some n => (match s.qp n with | some q => q.sendAt ≤ s.now | none => true)
    | none => true)

/-- The first packet of a tenant's queue at a sub-port, when the scheduler may choose it. -/
def State.egEligible (s : State) (port sub t : Nat) : Option EgItem :=
  match s.qos.egr.find? fun e => e.inQueue port sub (some t) with
  | none => none
  | some e =>
    let k := 64 * subKey port sub + t
    if s.mayGo e && s.shapeOk port t e.cost && (!s.strict || (s.egrWeight t ≠ 0 && mgetD s.qos.clock k 0 ≤ s.now)) then some e
    else none

/-- The first of `l` in rotating order from `prio`, among those of least key. -/
def leastRotated (l : List Nat) (key : Nat → Nat) (prio : Nat) : Option Nat :=
  let turn := fun (t : Nat) => (t + 64 - prio % 64) % 64
  l.foldl (fun m t => match m with
    | none => some t
    | some u => if key t < key u ∨ (key t = key u ∧ turn t < turn u) then some t else m) none

/-- The tenant that a scheduler serves: the smallest finish tag among those of non-zero weight, else any in rotation
(R311). -/
def chooseTenant (l : List Nat) (weight finish : Nat → Nat) (prio : Nat) : Option Nat :=
  match leastRotated (l.filter fun t => weight t ≠ 0) finish prio with
  | some t => some t
  | none => leastRotated l (fun _ => 0) prio

/-- A packet leaves in a MACsec frame: its packet number, or none when the sub-port cannot send (R258, R259). -/
def State.macsecSend (s : State) (port sub : Nat) : State × Option (Option Nat) :=
  if s.fld (R.PRT_CFG_MACSEC.at (0x1000 * port)) = 0 then (s, some none)
  else
    let x := s.sub port sub
    match x.txAn with
    | none => (s, none)
    | some _ =>
      if 2 ^ 64 ≤ x.txPn then (s, none)
      else
        let n := x.txPn + 1
        let s := s.setSub port sub { x with txPn := n }
        let s := if n = 2 ^ 64 - 2 ^ 32 then s.raise (40 + port) 9 else s
        (if n = 2 ^ 64 then s.raise (40 + port) 10 else s, some (some x.txPn))

/-- The bytes of a SEND on the wire beside its transport headers: the IPT header, the body, and what E2E and ENC add (R260). -/
def sendBytes (body : List Byte) (crc enc : Bool) : Nat := 32 + body.length + bit01 crc 4 + bit01 enc 24

/-- The credit that a packet of type `typ` advertises as it leaves on connection `c`: a RESPONSE and an ACCEPT do (R265). Where no
connection has the number, the configured values stand. -/
def State.credits (s : State) (c port sub typ cr ck : Nat) : Nat × Nat :=
  if typ = 1 ∨ typ = 5 then
    match s.conn c with
    | some x => s.advert c port sub x.tenant
    | none => (s.fld R.PRT_IPT_CFG_CRED_REQ, s.fld R.PRT_IPT_CFG_CRED_KIB)
  else (cr, ck)

/-- What a packet leaves in its connection: the advertisement that it carried, and its packet number, which it takes with it
(R265, R269). -/
def State.stampConn (s : State) (c typ cr ck : Nat) (enc : Bool) : State × Option Nat :=
  match s.conn c with
  | none => (s, none)
  | some x =>
    let x := if typ = 1 ∨ typ = 5 then { x with credReq := cr, credKib := ck } else x
    if enc then (s.setConn c { x with txPn := x.txPn + 1 }, some x.txPn) else (s.setConn c x, none)

/-- What a packet takes with it as it leaves: an answer's credit advertisement, a session's packet number, and the PSNs of a SEND,
one for each packet of the path MTU (R265, R269, R274). A SEND that leaves again keeps its own. -/
def State.stamp (s : State) (e : EgItem) : State × OutPkt × Option Nat :=
  match e.pkt with
  | .ipt typ op st c seq id cr ck aux body crc enc dst =>
    let (cr, ck) := s.credits c e.port e.sub typ cr ck
    let (s, pn) := s.stampConn c typ cr ck enc
    (s, .ipt typ op st c seq id cr ck aux body crc enc dst, pn)
  | .send dst n none typ op st seq id cr ck aux body crc enc =>
    match s.qp n with
    | none => (s, e.pkt, none)
    | some q =>
      let (cr, ck) := s.credits q.conn e.port e.sub typ cr ck
      let (s, pn) := s.stampConn q.conn typ cr ck enc
      let p := OutPkt.send dst n (some (q.txPsn, pn)) typ op st seq id cr ck aux body crc enc
      let k := packetCount (s.mtuOf n) (sendBytes body crc.isSome enc)
      (s.setQp n { q with txPsn := (q.txPsn + k) % 2 ^ 24, unacked := q.unacked ++ [((q.txPsn + k - 1) % 2 ^ 24, p)] }, p, pn)
  | .send _ _ (some x) .. => (s, e.pkt, x.2)
  | p => (s, p, none)

/-- The queue pair's rate delays its next packet (R276): the rate is in Mb/s. -/
def State.rateTake (s : State) (e : EgItem) : State :=
  match e.pkt.rated with
  | none => s
  | some n => match s.qp n with
    | none => s
    | some q => s.setQp n { q with sendAt := max q.sendAt s.now + ceilDiv (4000 * e.cost) (max 1 q.rate) }

/-- The answer of a bounded request is measured as it leaves (R146). -/
def State.measureBound (s : State) (e : EgItem) : State :=
  match e.boundFrom with
  | none => s
  | some t =>
    let ns := 2 * (s.now - t)
    let s := s.countMax R.ACC_BOUND_MAX_NS ns
    if 6000 < ns then (s.count R.ACC_BOUND_LATE).raise 20 8 else s

/-- The 802.1Q tag of the frames that a sub-port sends (`PRT_SPCFG_s`). -/
def State.vlanOf (s : State) (port sub : Nat) : Option Nat :=
  let d := 0x1000 * port + 0x40 * sub
  if s.fld (R.PRT_SPCFG_VLAN_EN.at d) = 1 then some (s.fld (R.PRT_SPCFG_VLAN.at d)) else none

/-- A chosen packet leaves the sub-port, or is discarded when MACsec cannot carry it. -/
def State.egSend (s : State) (e : EgItem) : State :=
  let s := s.qosUp fun q => { q with egr := q.egr.erase e }
  match s.macsecSend e.port e.sub with
  | (s, none) => s
  | (s, some m) =>
    let s := s.rateTake e
    let (s, p, pn) := s.stamp e
    (s.measureBound e).emit (.eth e.port e.sub (s.vlanOf e.port e.sub) m pn p)

/-- The tenant queues' decision: the choice of R311 or R314, its tags, its shaper and its clock. -/
def State.egChoose (s : State) (port sub : Nat) : State :=
  let sk := subKey port sub
  let open_ := (List.range 64).filter fun t => (s.egEligible port sub t).isSome
  let prio := mgetD s.qos.prioEgr sk 0
  match chooseTenant open_ s.egrWeight (fun t => mgetD s.qos.fEgr (64 * sk + t) 0) prio with
  | none => s
  | some t =>
    match s.egEligible port sub t with
    | none => s
    | some e =>
      let k := 64 * sk + t
      let w := s.egrWeight t
      let total := sumTenants s.egrWeight
      let c := if s.strict then
          max (mgetD s.qos.clock k 0) s.now + ceilDiv (e.cost * 4000 * total) (max 1 (s.lineRate port * w))
        else mgetD s.qos.clock k 0
      let s := s.qosUp fun q => { q with
        vEgr := mset q.vEgr sk (if w = 0 then mgetD q.vEgr sk 0 else max (mgetD q.vEgr sk 0) (mgetD q.sEgr k 0))
        prioEgr := mset q.prioEgr sk ((prio + 1) % 64)
        clock := mset q.clock k c }
      let s := (s.shapeTake port t e.cost).egSend e
      match s.qos.egr.find? fun y => y.inQueue port sub (some t) with
      | some y => s.egHead sk t y.cost false
      | none => s

/-- EGRESS_DISPATCH: the control queue, at 1 Gb/s at most, comes before the tenants' queues, unless its packet's priority is
paused (R257, R310). Nothing leaves a sub-port
that is not open or whose link is down. -/
def State.egressDispatch (s : State) (port sub : Nat) : State :=
  if !(s.subOpen port sub && (s.sub port sub).up) then s
  else
    let sk := subKey port sub
    match s.qos.egr.find? fun e => e.inQueue port sub none with
    | some e =>
      let at_ := mgetD s.qos.ctlAt sk 0
      if at_ ≤ s.now ∧ s.mayGo e then
        (s.qosUp fun q => { q with ctlAt := mset q.ctlAt sk (s.now + 4 * e.cost) }).egSend e
      else s.egChoose port sub
    | none => s.egChoose port sub

/-- EGRESS_DISPATCH. -/
def execEgressDispatch (port sub : Nat) (s : State) : Out := .next ((s.egressDispatch port sub).reapQps)

/-! ### Pausing the sender (R257) -/

/-- Bytes of RoCEv2 requests of a priority that wait at a sub-port. -/
def State.roceHeld (s : State) (port sub prio : Nat) : Nat :=
  ((s.held_.filter fun r => (match r.via with | .ipt | .ring _ => false | _ => true) && r.src.port = port && r.src.sub = sub && r.src.pcp.toNat = prio).map (·.bodyLen)).sum

/-- XOFF above three quarters of a priority's buffer, XON below half of it, in a MACsec frame where the port uses MACsec (R258). -/
def State.pfcPrio (s : State) (port sub prio : Nat) : State :=
  let x := s.sub port sub
  let n := s.roceHeld port sub prio
  let say := fun (s : State) (off : Bool) => match s.macsecSend port sub with
    | (s, none) => s
    | (s, some m) => s.emit (.eth port sub none m none (.pfc prio off))
  if !x.xoff.contains prio ∧ 3 * Config.roceBuffer < 4 * n then
    say (s.setSub port sub { x with xoff := x.xoff ++ [prio] }) true
  else if x.xoff.contains prio ∧ 2 * n < Config.roceBuffer then say (s.setSub port sub { x with xoff := x.xoff.erase prio }) false
  else s

/-- The priorities of a sub-port under priority flow control. -/
def State.pfcCheck (s : State) (port sub : Nat) : State :=
  let mask := s.fld (R.PRT_CFG_PFC_MASK.at (0x1000 * port))
  ((List.range 8).filter fun i => mask.testBit i).foldl (fun s i => s.pfcPrio port sub i) s

/-- Every sub-port that has sent XOFF. -/
def State.pfcAll (s : State) : State :=
  (s.prt.subs.filter fun e => e.2.xoff ≠ []).foldl (fun s e => s.pfcCheck (e.1 / 4) (e.1 % 4)) s

/-! ### Depth and delay sampling (R319) -/

/-- The depth bucket of a count. -/
def depthBucket (n : Nat) : Nat := min 15 (if n = 0 then 0 else n.log2 + 1)

/-- The sojourn bucket of a wait in nanoseconds. -/
def waitBucket (ns : Nat) : Nat := min 15 (if ns < 16 then 0 else (ns / 16).log2 + 1)

/-- Add a sample to a histogram bucket. -/
def histAdd (h : NMap Nat) (queue kind bucket : Nat) : NMap Nat := bumpAt h (queue * 32 + kind * 16 + bucket) 0xFFFFFFFF

/-- The sample of one queue: its depth, and when its head item entered it. -/
def State.sampleQueue (s : State) (h : NMap Nat) (queue depth : Nat) (since : Option Nat) : NMap Nat :=
  let h := histAdd h queue 0 (depthBucket depth)
  histAdd h queue 1 (match since with | some t => waitBucket (2 * (s.now - t)) | none => 0)

/-- Sample every access queue and every egress queue. -/
def State.queueSample (s : State) : State :=
  let s := s.toTime (s.qos.sampledAt + usCycles)
  let h := (List.range 64).foldl (fun h t =>
    let q := s.qos.acq.filter fun x => x.tenant = t
    s.sampleQueue h t q.length (q.head?.map (·.since))) s.qos.hist
  let h := (List.range 32).foldl (fun h sk => (List.range 64).foldl (fun h t =>
    let q := s.qos.egr.filter fun e => e.inQueue (sk / 4) (sk % 4) (some t)
    s.sampleQueue h (64 + 64 * sk + t) q.length (q.head?.map (·.since))) h) h
  s.qosUp fun q => { q with hist := h, sampledAt := s.now }

end Sys2Proof.Machine
end

