-- ==== Sys2Proof/Machine/Net.lean ====
section
/-! DEFINITION. Ring links, the symbiont link and torus routing (chapter 13): cells, acknowledgement, replay and credits,
link states, link-state notices, route classes, packets and reassembly. Link 8 is the symbiont link. -/

namespace Sys2Proof
open Machine

/-! ### Cells (R280, R281) -/

/-- FEC has nothing to report of a cell: so of each cell that leaves. -/
def noFec : CellFec := ⟨false, 0, 0, 0⟩

/-- Header bytes 0 to 3 of a sequenced cell (Table 13.2). -/
def Cell.headBytes (c : Cell) : List Byte :=
  leBytes 4 (c.vc % 16 + c.seq % 4096 * 2 ^ 4 + bit01 c.head (2 ^ 16) + bit01 c.tail (2 ^ 17) + bit01 c.retKind (2 ^ 18) +
    c.ret % 2 ^ 13 * 2 ^ 19)

/-- The CRC of a sequenced cell. -/
def Cell.check (c : Cell) : BitVec 32 := crc32c (c.headBytes ++ c.payload)

/-- A sequenced cell passes R281 and carries a VC that is sent (R280). -/
def Cell.good (c : Cell) : Bool := c.vc ≤ 8 && !c.fec.bad && c.crc = c.check

/-- A number of `n` bytes in network byte order (Table 0.5). -/
def netBytes (n v : Nat) : List Byte := (leBytes n v).reverse

/-- The payload of a LINK cell (Table 13.4): FREED is little-endian, and the fields for which the chapter states no order stand in
network byte order (Table 0.5, entry 77). -/
def LinkCell.payload (c : LinkCell) : List Byte :=
  netBytes 2 (c.ack % 4096 + bit01 c.nak 4096) ++ ((List.range 9).flatMap fun v => leBytes 2 (c.freed.getD v 0)) ++
    ((List.range 9).flatMap fun v => netBytes 2 (c.credit.getD v 0)) ++ leBytes 1 c.req ++
    leBytes 1 (c.offerWidth % 4 + c.offerSpeed % 2 * 4) ++ netBytes 6 c.station.toNat ++ leBytes 1 c.device ++ leBytes 1 c.dir ++
    netBytes 2 c.domain ++ fitBytes 198 c.reserved

/-- The CRC of a LINK cell. -/
def LinkCell.check (c : LinkCell) : BitVec 32 := crc32c (bvBytes 4 c.word ++ c.payload)

/-- A LINK cell passes R281, and its VC code is 15 (R280). -/
def LinkCell.good (c : LinkCell) : Bool := c.word.toNat % 16 = 15 && !c.fec.bad && c.crc = c.check

end Sys2Proof
namespace Sys2Proof.Machine

/-- A cell of the replay buffer as it leaves, with its RET and its CRC. -/
def TxCell.out (c : TxCell) (kind : Bool) (ret : Nat) : Cell :=
  let x : Cell := ⟨c.vc, c.seq, c.head, c.tail, kind, ret, 0, c.payload, noFec⟩
  { x with crc := x.check }

/-! ### Links -/

/-- A link that has seen nothing yet. -/
def resetLink : Link := ⟨0, 0, 0, 0, 0, 0, [], 0, none, none, [], [], [], [], [], 0, 0, [], 0, 0, [], 0, []⟩

def State.link (s : State) (n : Nat) : Link := mgetD s.net.links n resetLink

def State.setLink (s : State) (n : Nat) (l : Link) : State := s.netUp fun x => { x with links := mset x.links n l }

/-- The direction that a port serves: 0 X+, 1 X−, 2 Y+, 3 Y−, and 4 the symbiont link; none when no entry names it
(R279). -/
def State.dirOf (s : State) (n : Nat) : Option Nat :=
  if n = 8 then some 4 else (List.range 4).find? fun d => s.fld (R.RTE_PORTMAP_PORT.up (4 * d)) = n

/-- The port of a ring direction. -/
def State.portOfDir (s : State) (d : Nat) : Nat := s.fld (R.RTE_PORTMAP_PORT.up (4 * d))

/-- The opposite direction. -/
def oppDir (d : Nat) : Nat := if d % 2 = 0 then d + 1 else d - 1

/-- A port in ring mode that a direction names, or the symbiont link of a paired device. -/
def State.linkOn (s : State) (n : Nat) : Bool :=
  if s.deep then false
  else if n = 8 then s.paired && s.pwr.on
  else n < 8 && s.pwr.on && s.fld (R.PRT_CFG_ENABLE.at (0x1000 * n)) = 1 && s.fld (R.PRT_CFG_RING.at (0x1000 * n)) = 1 &&
    (s.dirOf n).isSome

/-- The time in CK_FT cycles of a link's `ACK_TIMEOUT_US`. -/
def State.ackTimeoutOf (s : State) (n : Nat) : Nat := s.fld (R.LNK_CFG_ACK_TIMEOUT_US.at (0x1000 * n)) * usCycles

/-- The configured credits of VCs 0 to 8. -/
def State.ownCredits (s : State) (n : Nat) : List Nat :=
  let d := 0x1000 * n
  ((List.range 6).map fun v => s.fld ((R.LNK_VCCRED_A_CRED.at d).up (9 * v))) ++
    [s.fld (R.LNK_VCCRED_B_CRED_6.at d), s.fld (R.LNK_VCCRED_B_CRED_7.at d), s.fld (R.LNK_VCCRED_B_CRED_CTRL.at d)]

/-- Width and lane rate that an end offers (R290). -/
def State.offer (s : State) (n : Nat) : Nat × Nat :=
  let l := s.link n
  (min 2 (s.fld (R.LNK_CFG_WIDTH.at (0x1000 * n)) + l.stepDown), min 1 (s.fld (R.LNK_CFG_SPEED.at (0x1000 * n)) + l.stepSpeed))

/-- The last SEQ accepted. -/
def Link.ack (l : Link) : Nat := (l.rxSeq + 4095) % 4096

/-- Freed counts of VCs 0 to 8. -/
def Link.freedAll (l : Link) : List Nat := (List.range 9).map fun v => mgetD l.freed v 0 % 65536

/-- The LINK cell that this end sends (Table 13.4): its ACK and freed counts, its credits, its outstanding request, its offer and
its identity. While it trains it asks for nothing. -/
def State.linkCell (s : State) (n : Nat) (nak : Bool) : LinkCell :=
  let l := s.link n
  let (w, r) := s.offer n
  let x : LinkCell := ⟨15, l.ack, nak, l.freedAll, s.ownCredits n, if l.st = 1 then 0 else l.req, w, r, Config.station n, s.devIndex,
    (s.dirOf n).getD 0, s.fld R.RTE_CFG_DOMAIN, List.replicate 198 0, 0, noFec⟩
  { x with crc := x.check }

/-- A LINK cell leaves (R284). -/
def State.sendLink (s : State) (n : Nat) (nak : Bool) : State :=
  let l := s.link n
  (s.setLink n { l with lastLink := s.now, told := l.freed, ackTold := l.rxSeq }).emit (.linkCell n (s.linkCell n nak))

/-- The RET field of the next sequenced cell: the ACK when it has advanced, else a credit return by rotation (R284). -/
def Link.nextRet (l : Link) : (Bool × Nat) × Link :=
  if l.ackTold ≠ l.rxSeq then ((false, l.ack), { l with ackTold := l.rxSeq })
  else
    let turn := (List.range 9).map fun k => (l.retVc + k) % 9
    match turn.find? fun v => mgetD l.freed v 0 ≠ mgetD l.told v 0 with
    | some v =>
      let f := mgetD l.freed v 0
      ((true, v + f % 512 * 16), { l with told := mset l.told v f, retVc := (v + 1) % 9 })
    | none => ((false, l.ack), l)

/-- A sequenced cell enters the replay buffer and leaves (R282). A link that is not UP, or whose replay buffer is full,
sends none. -/
def State.sendCell (s : State) (n vc : Nat) (head tail : Bool) (payload : List Byte) : State :=
  let l := s.link n
  if l.st ≠ 2 ∨ 2048 ≤ l.replay.length then s
  else
    let c : TxCell := ⟨l.txSeq, vc, head, tail, payload, 0⟩
    let ((kind, ret), l) := l.nextRet
    let l := { l with
      txSeq := (l.txSeq + 1) % 4096
      ackAt := if l.replay = [] then s.now else l.ackAt
      replay := l.replay ++ [c]
      sent := mset l.sent vc (mgetD l.sent vc 0 + 1) }
    ((s.setLink n l).countWrap (R.LNK_TX_COUNT.at (0x1000 * n))).emit (.cell n (c.out kind ret) false)

/-- Credit available on a VC (R285). -/
def Link.credit (l : Link) (vc : Nat) : Nat := mgetD l.cred vc 0 - (mgetD l.sent vc 0 - mgetD l.known vc 0)

/-- Cells that leave an input buffer are freed. A link or VC beyond 8 names none: a local injection, or cells of a link that
has trained anew since they came. -/
def State.freeCells (s : State) (n vc k : Nat) : State :=
  if 8 < n ∨ 8 < vc then s
  else let l := s.link n; s.setLink n { l with freed := mset l.freed vc (mgetD l.freed vc 0 + k) }

/-- The control cells that wait leave as far as the control VC has credit and the replay buffer room (R282, R286). -/
def State.drainCtl (s : State) (n : Nat) : State :=
  (s.link n).ctl.foldl (fun s p =>
    let l := s.link n
    if l.st = 2 ∧ l.credit 8 ≠ 0 ∧ l.replay.length < 2048 then
      (s.setLink n { l with ctl := l.ctl.drop 1 }).sendCell n 8 true true p
    else s) s

/-- A control cell joins those that wait for a link. -/
def State.sendCtl (s : State) (n : Nat) (p : List Byte) : State :=
  let l := s.link n
  (s.setLink n { l with ctl := l.ctl ++ [p] }).drainCtl n

/-! ### Link-state notices (R300) -/

/-- The links of the four ring directions that are up, as a notice reports them. -/
def State.ownStates (s : State) : Nat :=
  ((List.range 4).map fun d =>
    let p := s.portOfDir d
    if p < 8 ∧ (s.link p).st = 2 ∨ p < 8 ∧ (s.link p).st = 3 then 2 ^ d else 0).sum

/-- Record what a device reports of its links: a direction newly up waits for `UP_HOLD_US`, one that is down is out of use
at once. -/
def State.applyStates (s : State) (dev states : Nat) : State :=
  (List.range 4).foldl (fun s d =>
    let key := 4 * dev + d
    let use := mgetD s.net.usable dev 0
    let was := (mgetD s.net.lsdb dev 0).testBit d
    if states.testBit d then
      if was then s else s.netUp fun x => { x with upAt := mset x.upAt key s.now }
    else s.netUp fun x => { x with
      upAt := mdel x.upAt key
      usable := msetD x.usable dev (if use.testBit d then use - 2 ^ d else use) 0 }) s
  |>.netUp fun x => { x with lsdb := msetD x.lsdb dev states 0 }

/-- A notice leaves on the links in `l` that are UP, as a control cell, which waits for credit. The model lays its content out as
origin, sequence number and states, the number in network byte order (Table 0.5), with zeros behind them. -/
def State.flood (s : State) (l : List Nat) (origin seq states : Nat) : State :=
  l.foldl (fun s n =>
    if (s.link n).st = 2 then s.sendCtl n (fitBytes 248 (leBytes 1 origin ++ netBytes 2 seq ++ leBytes 1 states))
    else s) s

/-- The ports of the four ring directions. -/
def State.ringPorts (s : State) : List Nat := ((List.range 4).map s.portOfDir).filter (· < 8)

/-- A device sends its own notice on every link that is UP. -/
def State.ownNotice (s : State) : State :=
  let states := s.ownStates
  let s := s.applyStates s.devIndex states
  let seq := (s.net.mySeq + 1) % 65536
  let s := s.netUp fun x => { x with mySeq := seq, noticeAt := s.now, seqs := mset x.seqs s.devIndex seq }
  s.flood s.ringPorts s.devIndex seq states

/-- LINK_STATE_NOTICE: one that is newer than the last applied for its origin is applied and flooded. -/
def State.notice (s : State) (n origin seq states : Nat) : State :=
  if (s.link n).st ≠ 2 then s
  else
    let newer : Bool := match mget s.net.seqs origin with
      | some last => (seq + 65536 - last) % 65536 ≠ 0 && (seq + 65536 - last) % 65536 < 32768
      | none => true
    if !newer then s
    else
      let s := s.applyStates origin (states % 16)
      let s := s.netUp fun x => { x with seqs := mset x.seqs origin (seq % 65536) }
      s.flood (s.ringPorts.filter (· ≠ n)) origin (seq % 65536) (states % 16)

/-- LINK_STATE_NOTICE. -/
def execLinkStateNotice (n origin seq states : Nat) (s : State) : Out := .next (s.notice n origin seq states)

/-- LINK_STATE_REFRESH. -/
def execLinkStateRefresh (s : State) : Out :=
  .next (s.toTime (s.net.noticeAt + s.fld R.RTE_CFG_REFRESH_MS * 1000 * usCycles)).ownNotice

/-- LINK_UP_HOLD_EXPIRE: a direction that has been up for `UP_HOLD_US` is used for new packets; direction 4 is the
symbiont link, to which pair traffic returns (R322). -/
def State.holdExpire (s : State) (device dir : Nat) : State :=
  let hold := s.fld R.RTE_CFG_UP_HOLD_US * usCycles
  if dir = 4 then
    let l := s.link 8
    if l.st = 2 ∧ s.par.alt then
      ((s.toTime (l.since + hold)).parUp fun p => { p with alt := false }).raise 26 10
    else s
  else
    match mget s.net.upAt (4 * device + dir % 4) with
    | none => s
    | some t =>
      let s := s.toTime (t + hold)
      let use := mgetD s.net.usable device 0
      s.netUp fun x => { x with
        upAt := mdel x.upAt (4 * device + dir % 4)
        usable := mset x.usable device (if use.testBit (dir % 4) then use else use + 2 ^ (dir % 4)) }

/-- LINK_UP_HOLD_EXPIRE. -/
def execLinkUpHoldExpire (device dir : Nat) (s : State) : Out := .next (s.holdExpire device dir)

/-! ### Link states (R287 to R291, R302) -/

/-- A link leaves UP or RETRAIN for DOWN: its replay buffer, the packets that wait for it and those partly received go
(R291). Packets that came from it and stay no longer free cells of it. -/
def State.dropBuffers (s : State) (n : Nat) : State :=
  let l := s.link n
  let mine := s.net.queue.filter fun p => p.out = n
  let cut := s.net.queue.filter fun p => p.out ≠ n && p.inLink = n && p.left ≠ 0
  let s := s.netUp fun x => { x with
    queue := (x.queue.filter fun p => p.out ≠ n && !(p.inLink = n && p.left ≠ 0)).map fun p =>
      if p.inLink = n then { p with inVc := 9 } else p
    inbox := x.inbox.map fun p => if p.1 = n then (n, 9, p.2.2) else p }
  let s := mine.foldl (fun s p => if p.inLink = n then s else s.freeCells p.inLink p.inVc p.cells.length) s
  let s := s.count (R.LNK_STALL_DISCARDS.at (0x1000 * n)) (mine.length + cut.length + l.rx.length)
  let l := s.link n
  s.setLink n { l with replay := [], rx := [], nakAt := none, replayed := none, ctl := [] }

/-- A link enters DOWN. -/
def State.enterDown (s : State) (n : Nat) : State :=
  let l := s.link n
  let was := l.st = 2 || l.st = 3
  let s := if was then s.dropBuffers n else s
  let l := s.link n
  let s := s.setLink n { l with st := 0, since := s.now, req := 0 }
  let s := s.count (R.LNK_ERR_DOWNS.at (0x1000 * n))
  let s := if n < 8 then s.setFld (R.PRT_STATUS_LINK_UP.at (0x1000 * n)) 0 else s
  if n < 8 then (if was then s.ownNotice else s)
  else if was ∧ s.par.formed ∧ s.fld R.PAR_CFG_ALT_PATH = 1 ∧ !s.par.alt then
    (s.parUp fun p => { p with alt := true }).raise 26 10
  else s

/-- A link fails: it enters DOWN, and LINK_DOWN is raised where it was UP or in RETRAIN (Table 13.5). -/
def State.linkDown (s : State) (n : Nat) : State :=
  if (s.link n).st = 2 ∨ (s.link n).st = 3 then (s.enterDown n).raise (49 + n) 8 else s.enterDown n

/-- A request of this end leaves in a LINK cell (R289). -/
def State.sendRequest (s : State) (n req : Nat) : State :=
  let l := s.link n
  (s.setLink n { l with req := req }).sendLink n l.nakAt.isSome

/-- A link enters TRAINING, with its sequence state and counts at their initial values, and sends its identity and credits in a
LINK cell (R279, R285). -/
def State.train (s : State) (n : Nat) : State :=
  let l := s.link n
  (s.setLink n { resetLink with st := 1, since := s.now, stepDown := l.stepDown, stepSpeed := l.stepSpeed, req := l.req }).sendLink
    n false

/-- A link enters RETRAIN, its buffers and sequence state kept; LINK_UP reads 1 only while a link is UP (R278). -/
def State.retrain (s : State) (n : Nat) : State :=
  let l := s.link n
  if l.st ≠ 2 then s
  else
    let s := s.setLink n { l with st := 3, since := s.now }
    let s := if n < 8 then s.setFld (R.PRT_STATUS_LINK_UP.at (0x1000 * n)) 0 else s
    (s.count (R.LNK_ERR_RETRAINS.at (0x1000 * n))).raise (49 + n) 9

/-- A retrain that this end starts: the neighbour is asked for it. -/
def State.askRetrain (s : State) (n : Nat) : State :=
  if (s.link n).st ≠ 2 then s else (s.sendRequest n 1).retrain n

/-- A RESET: the link goes DOWN, where it is not, and trains at once, with its step-downs forgotten (R287, R290). `own` is its own
request that stays outstanding until the training ends. -/
def State.linkReset (s : State) (n own : Nat) : State :=
  let s := if (s.link n).st = 0 then s else s.enterDown n
  let l := s.link n
  let s := s.setLink n { l with stepDown := 0, stepSpeed := 0, req := own }
  if s.linkOn n then s.train n else s

/-- A RESET that this end starts: the neighbour is asked for it where the link carries cells. -/
def State.askReset (s : State) (n : Nat) : State :=
  let up := (s.link n).st = 2 || (s.link n).st = 3
  (if up then s.sendRequest n 2 else s).linkReset n (if up then 2 else 0)

/-- TRAINING_START: at once when the port is first enabled, else 10 ms after entering DOWN. -/
def execTrainingStart (n : Nat) (s : State) : Out :=
  let l := s.link n
  if n ≤ 8 ∧ l.st = 0 ∧ s.linkOn n then
    .next ((if l.since = 0 then s else s.toTime (l.since + 10000 * usCycles)).train n)
  else .next s

/-- Neighbour of this device in a direction (R292). -/
def State.neighbour (s : State) (dev d : Nat) : Nat :=
  let nx := s.fld R.RTE_DIM_NX
  let ny := s.fld R.RTE_DIM_NY
  let x := dev % nx
  let y := dev / nx
  match d with
  | 0 => y * nx + (x + 1) % nx
  | 1 => y * nx + (x + nx - 1) % nx
  | 2 => (y + 1) % ny * nx + x
  | _ => (y + ny - 1) % ny * nx + x

/-- The identity that a LINK cell reports is that of the expected neighbour (R279, R302). -/
def State.identityOk (s : State) (n : Nat) (c : LinkCell) : Bool :=
  if n = 8 then
    c.dir = 4 && c.device = s.fld R.PAR_CFG_PARTNER && c.station.toNat = s.fld R.PAR_PARTNER_STN_STATION
  else match s.dirOf n with
    | some d => c.domain = s.fld R.RTE_CFG_DOMAIN && c.device = s.neighbour s.devIndex d && c.dir = oppDir d
    | none => false

/-- TRAINING_COMPLETE: by the neighbour's last LINK cell, if that is good, the link becomes UP or MISCABLED. -/
def State.trained (s : State) (n : Nat) (c : LinkCell) : State :=
  let l := s.link n
  if l.st ≠ 1 ∨ !c.good then s
  else
    let d := 0x1000 * n
    let (w, r) := s.offer n
    let w := max w (c.offerWidth % 4)
    let r := max r (c.offerSpeed % 2)
    let s := (s.setFld (R.LNK_STATUS_WIDTH_NOW.at d) w).setFld (R.LNK_STATUS_SPEED_NOW.at d) r
    let s := (s.setFld (R.LNK_STATUS_NEIGHBOUR.at d) c.device).setFld (R.LNK_STATUS_NDIR.at d) c.dir
    if !s.identityOk n c then
      (s.setLink n { l with st := 4, since := s.now }).raise (49 + n) 10
    else
      let creds := (List.range 9).map fun v => (v, c.credit.getD v 0)
      let s := s.setLink n { resetLink with
        st := 2, since := s.now, stepDown := l.stepDown, stepSpeed := l.stepSpeed, cred := creds, lastLink := s.now }
      let s := if s.fld (R.LNK_CFG_WIDTH.at d) < w then s.raise (49 + n) 11 else s
      if n < 8 then (s.setFld (R.PRT_STATUS_LINK_UP.at d) 1).ownNotice else s

/-- TRAINING_COMPLETE. -/
def execTrainingComplete (n : Nat) (cell : LinkCell) (s : State) : Out := .next (s.trained n cell)

/-- TRAINING_TIMEOUT: 120 ms. -/
def execTrainingTimeout (n : Nat) (s : State) : Out :=
  let l := s.link n
  if l.st ≠ 1 then .next s
  else
    let s := s.toTime (l.since + 120000 * usCycles)
    let step := s.fld (R.LNK_CFG_AUTO_DEGRADE.at (0x1000 * n)) = 1 && (s.offer n).1 < 2
    let s := s.enterDown n
    let l := s.link n
    .next (s.setLink n { l with stepDown := if step then l.stepDown + 1 else l.stepDown })

/-- Cells leave again in order, each with a RET of its own (R284). -/
def State.resendCells (s : State) (n : Nat) (l : List TxCell) : State :=
  l.foldl (fun s c =>
    let ((kind, ret), y) := (s.link n).nextRet
    (s.setLink n y).emit (.cell n (c.out kind ret) true)) s

/-- Every unacknowledged cell leaves again, from the oldest, whose replay count rises; at 2 × REPLAY_MAX the link goes
DOWN (R283). -/
def State.replayCells (s : State) (n : Nat) : State :=
  let l := s.link n
  match l.replay with
  | [] => s
  | c :: t =>
    let c := { c with tries := c.tries + 1 }
    let s := s.count (R.LNK_ERR_REPLAYS.at (0x1000 * n))
    let s := s.setLink n { l with replay := c :: t, replayed := some ((c.seq + 4095) % 4096, s.now), ackAt := s.now }
    if 2 * s.fld (R.LNK_CFG_REPLAY_MAX.at (0x1000 * n)) ≤ c.tries then s.linkDown n
    else s.resendCells n (c :: t)

/-- FAST_RETRAIN: the oldest cell's replay count has reached REPLAY_MAX. -/
def execFastRetrain (n : Nat) (s : State) : Out :=
  let l := s.link n
  let due : Bool := match l.replay with
    | c :: _ => c.tries = s.fld (R.LNK_CFG_REPLAY_MAX.at (0x1000 * n))
    | [] => false
  .next (if due then s.askRetrain n else s)

/-- FAST_RETRAIN_COMPLETE: within 12 µs the link is UP again and replays; beyond them it goes DOWN. -/
def execFastRetrainComplete (n : Nat) (s : State) : Out :=
  let l := s.link n
  if l.st ≠ 3 then .next s
  else if l.since + 12 * usCycles < s.now then .next (s.linkDown n)
  else
    let s := s.setLink n { l with st := 2, req := 0 }
    let s := if n < 8 then s.setFld (R.PRT_STATUS_LINK_UP.at (0x1000 * n)) 1 else s
    .next ((s.replayCells n).drainCtl n)

/-- RETRAIN_TIMEOUT: the fast retrain fails at a time that the spec leaves open, or exceeds 12 µs. -/
def execRetrainTimeout (n : Nat) (s : State) : Out :=
  let l := s.link n
  .next (if l.st = 3 then
    ((s.toTime (min (s.now + (Config.freeBits 77 s.freeCtr).toNat) (l.since + 12 * usCycles))).tick).linkDown n
  else s)

/-- Over the last 10 ms the corrected symbols or the uncorrectable codewords exceed their limit (R288). -/
def State.pcsFails (s : State) (n : Nat) : Bool :=
  let l := (s.link n).fec
  s.fld (R.LNK_CFG_SER_LIMIT.at (0x1000 * n)) < (l.map (·.2.1)).sum || s.fld (R.LNK_CFG_UE_LIMIT.at (0x1000 * n)) < (l.map (·.2.2)).sum

/-- What FEC reports with a cell is counted, by codewords in `PRT_FEC` and for 10 ms in the link (R278, R288). -/
def State.fecIn (s : State) (n : Nat) (f : CellFec) : State :=
  let s := if n < 8 then
      (s.countWrap (R.PRT_FEC_CORRECTED.at (0x1000 * n)) f.fixed).count (R.PRT_FEC_UNCORRECTABLE.at (0x1000 * n)) f.lost
    else s
  let l := s.link n
  let recent := l.fec.filter fun e => s.now < e.1 + 10000 * usCycles
  s.setLink n { l with fec := if f.symbols = 0 ∧ f.lost = 0 then recent else recent ++ [(s.now, f.symbols, f.lost)] }

/-- PCS_LINK_DOWN: a lane in use has lost its lock for 1 µs; the error limits of R288 are judged as cells arrive. -/
def execPcsLinkDown (n : Nat) (s : State) : Out := .next (if (s.link n).st = 2 then s.linkDown n else s)

/-- MISCABLED_RETRY. -/
def execMiscabledRetry (n : Nat) (s : State) : Out :=
  let l := s.link n
  .next (if l.st = 4 ∧ s.linkOn n then (s.toTime (l.since + 100000 * usCycles)).train n else s)

/-- LNK_CTRL_RETRAIN: a write of `LNK_CTRL` with RETRAIN; ignored unless UP. -/
def execLnkCtrlRetrain (src : RegSrc) (n : Nat) (s : State) : Out :=
  let s := s.storeReg src (0x31108 + 0x1000 * (n % 9)) 1
  .next (s.askRetrain (n % 9))

/-- LNK_CTRL_RESET: a write of `LNK_CTRL` with RESET. -/
def execLnkCtrlReset (src : RegSrc) (n : Nat) (s : State) : Out :=
  let s := s.storeReg src (0x31108 + 0x1000 * (n % 9)) 2
  .next (s.askReset (n % 9))

/-! ### Receiving cells (R282 to R285, R289) -/

/-- An ACK frees the replay entries up to and including its SEQ; one that names no unacknowledged cell is ignored. -/
def State.ackCells (s : State) (n ack : Nat) : State :=
  let l := s.link n
  if l.replay.any fun c => c.seq = ack then
    let rest := (l.replay.dropWhile fun c => c.seq ≠ ack).drop 1
    s.setLink n { l with replay := rest, ackAt := s.now }
  else s

/-- A freed report of `bits` bits is the newest count that agrees with it and is not below the known one. -/
def newestCount (known rep bits : Nat) : Nat := known + (rep % 2 ^ bits + 2 ^ bits - known % 2 ^ bits) % 2 ^ bits

/-- A freed report for a VC. -/
def State.freedReport (s : State) (n vc rep bits : Nat) : State :=
  let l := s.link n
  s.setLink n { l with known := mset l.known vc (newestCount (mgetD l.known vc 0) rep bits) }

/-- The 16-byte route header at the start of a head cell's payload (Table 13.7). MSG_ID is little-endian; BYTES, for which the
chapter states no order, is in network byte order (Table 0.5). -/
def routeHdr (b : List Byte) : RouteHdr :=
  let at_ := fun (i n : Nat) => leNat ((b.drop i).take n)
  ⟨at_ 0 1, at_ 1 1, at_ 2 1 % 4, (at_ 2 1).testBit 2, at_ 3 1 % 32, at_ 4 4, at_ 8 1 % 16, at_ 8 1 / 16, at_ 10 1 * 256 + at_ 11 1⟩

end Sys2Proof.Machine
namespace Sys2Proof
open Machine

/-- The bytes of a route header. -/
def RouteHdr.bytesOf (h : RouteHdr) : List Byte :=
  leBytes 1 h.dst ++ leBytes 1 h.src ++ leBytes 1 (h.cls % 4 + if h.last then 4 else 0) ++ leBytes 1 h.cells ++
    leBytes 4 h.msgId ++ leBytes 1 (h.index % 16 + h.count % 16 * 16) ++ [0] ++ (leBytes 2 h.bytes).reverse ++ leBytes 4 0

end Sys2Proof
namespace Sys2Proof.Machine

/-- The next hop of a packet at a device: its direction and VC (R293, R294). `vc` is the VC it came on, `none` at its
source; entering the second dimension takes it back to VC 2c. -/
def State.nextHop (s : State) (dev dst cls : Nat) (vc : Option (Nat × Nat)) : Option (Nat × Nat) :=
  let nx := s.fld R.RTE_DIM_NX
  let ny := s.fld R.RTE_DIM_NY
  let dx := dev % nx ≠ dst % nx
  let dy := dev / nx ≠ dst / nx
  let neg := 2 ≤ cls
  let xFirst := cls % 2 = 0
  let inX := if xFirst then dx else dx && !dy
  if !dx && !dy then none
  else
    let d := (if inX then 0 else 2) + if neg then 1 else 0
    let c := if inX then dev % nx else dev / nx
    let n := if inX then nx else ny
    let wraps := if neg then c = 0 else c + 1 = n
    -- on or past the date line of this dimension
    let past : Bool := match vc with | some (d', v) => d' / 2 = d / 2 && v % 2 = 1 | none => false
    some (d, 2 * cls + if wraps || past then 1 else 0)

/-- The packet that arrives on a VC of a link and goes on to another device, with cells still to come. -/
def State.passing (s : State) (n vc : Nat) : Option NetPkt :=
  s.net.queue.find? fun p => p.inLink = n && p.inVc = vc && p.left ≠ 0

/-- A packet that arrives without its tail is discarded where the next one's head comes on its VC (R291). -/
def State.dropCut (s : State) (n vc : Nat) : State :=
  let l := s.link n
  let s := match mget l.rx vc with
    | some p => (s.setLink n { l with rx := mdel l.rx vc }).freeCells n vc p.2.2
    | none => s
  match s.passing n vc with
  | some p => (s.netUp fun x => { x with queue := x.queue.erase p }).freeCells n vc p.cells.length
  | none => s

/-- The head cell of a packet: for this device it is kept, and else it waits for its next hop, which it can take before the rest has
come (R285). -/
def State.headIn (s : State) (n : Nat) (c : Cell) : State :=
  let s := s.dropCut n c.vc
  let h := routeHdr c.payload
  if n = 8 ∨ h.dst = s.devIndex then
    if c.tail then s.netUp fun x => { x with inbox := x.inbox ++ [(n, c.vc, { h with cells := 0 }, (c.payload.drop 16).take h.bytes)] }
    else let l := s.link n; s.setLink n { l with rx := mset l.rx c.vc (h, c.payload.drop 16, 1) }
  else
    let from_ := match s.dirOf n with | some d => some (oppDir d, c.vc) | none => none
    match s.nextHop s.devIndex h.dst h.cls from_ with
    | some (d, v) =>
      let left := if c.tail then 0 else max 1 h.cells
      s.netUp fun x => { x with queue := x.queue ++ [⟨s.portOfDir d, v, n, c.vc, h, [c.payload], left, false⟩] }
    | none => s.freeCells n c.vc 1

/-- A later cell of a packet; one whose packet has been discarded goes too. -/
def State.bodyIn (s : State) (n : Nat) (c : Cell) : State :=
  let l := s.link n
  match mget l.rx c.vc with
  | some (h, bs, k) =>
    let bs := bs ++ c.payload
    if !c.tail then s.setLink n { l with rx := mset l.rx c.vc (h, bs, k + 1) }
    else (s.setLink n { l with rx := mdel l.rx c.vc }).netUp fun x => { x with
      inbox := x.inbox ++ [(n, c.vc, { h with cells := k }, bs.take h.bytes)] }
  | none =>
    match s.passing n c.vc with
    | some p =>
      let q := { p with cells := p.cells ++ [c.payload], left := if c.tail then 0 else max 1 (p.left - 1) }
      s.netUp fun x => { x with queue := x.queue.replace p q }
    | none => s.freeCells n c.vc 1

/-- The payload of an accepted cell: a control cell is consumed; a data cell begins a packet or joins it. -/
def State.cellPayload (s : State) (n : Nat) (c : Cell) : State :=
  if c.vc = 8 then s.freeCells n 8 1 else if c.head then s.headIn n c else s.bodyIn n c

/-- A cell that the PCS has brought: one that is good and has the expected SEQ is accepted; any other is discarded, and the first
one after an accepted cell is answered with a NAK. -/
def State.cellTake (s : State) (n : Nat) (c : Cell) : State :=
  let l := s.link n
  let s := if c.good then s else s.count (R.LNK_ERR_CRC_ERR.at (0x1000 * n))
  if c.good ∧ c.seq = l.rxSeq then
    let s := (s.setLink n { l with rxSeq := (l.rxSeq + 1) % 4096, nakAt := none }).countWrap (R.LNK_RX_COUNT.at (0x1000 * n))
    let s := if c.retKind then s.freedReport n (c.ret % 16) (c.ret / 16 % 512) 9 else s.ackCells n (c.ret % 4096)
    (s.drainCtl n).cellPayload n c
  else if l.nakAt.isSome then s
  else (s.setLink n { l with nakAt := some s.now }).sendLink n true

/-- CELL_RECEIVE: what FEC reports may take the link down (R288). -/
def State.cellIn (s : State) (n : Nat) (c : Cell) : State :=
  if 8 < n ∨ (s.link n).st ≠ 2 then s
  else
    let s := s.fecIn n c.fec
    if s.pcsFails n then s.linkDown n else s.cellTake n c

/-- CELL_RECEIVE. -/
def execCellReceive (n : Nat) (cell : Cell) (s : State) : Out := .next (s.cellIn n cell)

/-- A NAK starts a replay, unless one for the same ACK has begun within ACK_TIMEOUT_US (R283). -/
def State.nakIn (s : State) (n ack : Nat) : State :=
  let recent : Bool := match (s.link n).replayed with
    | some (a, t) => a = ack && s.now < t + s.ackTimeoutOf n
    | none => false
  if recent then s else s.replayCells n

/-- Of two requests of one kind, the neighbour's leads where its station ID is the higher: this end withdraws its own and follows;
else its own leads (R289). -/
def State.leads (n : Nat) (c : LinkCell) : Bool := (Config.station n).toNat < c.station.toNat

/-- A request in a LINK cell (R287, R289). RESET prevails over RETRAIN, and acts in every state; one that meets this end's own RESET
or RETRAIN is the same event, which is counted once. -/
def State.requestIn (s : State) (n : Nat) (c : LinkCell) : State :=
  let l := s.link n
  let withdrawn := { l with req := 0 }
  if c.req = 2 then
    if l.st = 1 ∧ l.req = 2 then (if State.leads n c then (s.setLink n withdrawn).train n else s)
    else if s.linkOn n ∨ l.st = 2 ∨ l.st = 3 then s.linkReset n 0 else s
  else if c.req = 1 then
    if l.st = 2 then s.retrain n
    else if l.st = 3 ∧ l.req = 1 ∧ State.leads n c then s.setLink n withdrawn
    else s
  else s

/-- LINK_CELL_RECEIVE: on an UP link a good cell's ACK, freed counts and NAK are taken; its request in every state. -/
def State.linkCellIn (s : State) (n : Nat) (c : LinkCell) : State :=
  if 8 < n then s
  else
    let s := s.fecIn n c.fec
    if (s.link n).st = 2 ∧ s.pcsFails n then s.linkDown n
    else if !c.good then s.count (R.LNK_ERR_CRC_ERR.at (0x1000 * n))
    else
      let s := if (s.link n).st = 2 then
          let s := s.ackCells n (c.ack % 4096)
          let s := (numbered (c.freed.take 9)).foldl (fun s v => s.freedReport n v.1 v.2 16) s
          (if c.nak then s.nakIn n (c.ack % 4096) else s).drainCtl n
        else s
      s.requestIn n c

/-- LINK_CELL_RECEIVE. -/
def execLinkCellReceive (n : Nat) (cell : LinkCell) (s : State) : Out := .next (s.linkCellIn n cell)

/-- NAK_REPEAT. -/
def execNakRepeat (n : Nat) (s : State) : Out :=
  let l := s.link n
  match l.nakAt with
  | none => .next s
  | some t =>
    if l.st ≠ 2 then .next s
    else
      let s := s.toTime (t + s.ackTimeoutOf n)
      .next ((s.setLink n { l with nakAt := some s.now }).sendLink n true)

/-- REPLAY_TIMEOUT. -/
def execReplayTimeout (n : Nat) (s : State) : Out :=
  let l := s.link n
  if l.st ≠ 2 ∨ l.replay = [] then .next s
  else .next ((s.toTime (l.ackAt + s.ackTimeoutOf n)).replayCells n)

/-- LINK_CELL_PERIODIC: on an UP link, and on one that trains, whose LINK cells carry its identity and credits (R279, R285). -/
def execLinkCellPeriodic (n : Nat) (s : State) : Out :=
  let l := s.link n
  if l.st ≠ 2 ∧ l.st ≠ 1 then .next s
  else
    let s := s.toTime (l.lastLink + s.fld (R.LNK_CFG_LINK_PERIOD_US.at (0x1000 * n)) * usCycles)
    .next (s.sendLink n l.nakAt.isSome)

/-! ### Route classes (R293 to R296) -/

/-- The hops of a class from a device to another: (device, direction), by the order of the class. -/
def State.pathOf (s : State) (dst cls : Nat) (vc : Option (Nat × Nat)) : Nat → Nat → List (Nat × Nat)
  | 0, _ => []
  | fuel + 1, dev =>
    match s.nextHop dev dst cls vc with
    | none => []
    | some (d, v) => (dev, d) :: s.pathOf dst cls (some (d, v)) fuel (s.neighbour dev d)

/-- New packets may use a link direction: both ends report it up, for long enough (R300). -/
def State.hopUsable (s : State) (h : Nat × Nat) : Bool :=
  (mgetD s.net.usable h.1 0).testBit h.2 && (mgetD s.net.usable (s.neighbour h.1 h.2) 0).testBit (oppDir h.2)

/-- The classes that a tenant's packets may take (R295); traffic of no tenant takes all. -/
def State.classesOf (s : State) (t : Option Nat) : List Nat :=
  match t with
  | none => [0, 1, 2, 3]
  | some t =>
    let dset := s.fld (R.RTE_TCLASS_DSET.at (8 * t))
    let dset := if s.strict ∧ dset = 2 then 0 else dset
    let order := s.fld (R.RTE_TCLASS_ORDER.at (8 * t))
    [0, 1, 2, 3].filter fun c => (dset = 2 || dset = c / 2) && (order = 2 || order = c % 2)

/-- The best of some classes: no hop down, fewest hops, most first-hop credit, then the rotating priority. -/
def State.bestClass (s : State) (dst : Nat) (l : List Nat) : Option Nat :=
  let open_ := l.filter fun c => (s.pathOf dst c none 512 s.devIndex).all s.hopUsable
  let rank := fun (c : Nat) =>
    let p := s.pathOf dst c none 512 s.devIndex
    let cr := match s.nextHop s.devIndex dst c none with
      | some (d, v) => (s.link (s.portOfDir d)).credit v
      | none => 0
    (p.length * 1024 + (1023 - min 1023 cr)) * 4 + (c + 4 - s.net.rot % 4) % 4
  open_.foldl (fun m c => match m with
    | none => some c
    | some b => if rank c < rank b then some c else m) none

/-- Choose the class of a packet to a device: R295, then R296's detour. -/
def State.chooseClass (s : State) (t : Option Nat) (dst : Nat) : Option (Nat × Bool) :=
  if mgetD s.net.lsdb dst 0 = 0 then none
  else
    let own := s.classesOf t
    match s.bestClass dst own with
    | some c => some (c, false)
    | none =>
      if s.fld R.RTE_CFG_DETOUR = 1 ∧ !s.strict then
        (s.bestClass dst ([0, 1, 2, 3].filter fun c => !(own.any fun o => o / 2 = c / 2))).map fun c => (c, true)
      else none

/-- The cells of a packet: 248 payload bytes each, the route header first. -/
def packetCells (h : RouteHdr) (data : List Byte) : List (List Byte) :=
  let b := h.bytesOf ++ data
  (List.range (h.cells + 1)).map fun k => fitBytes 248 ((b.drop (248 * k)).take 248)

/-- Inject one packet: queued for its first link, or counted as unreachable. -/
def State.injectOne (s : State) (t : Option Nat) (dst msgId index count : Nat) (last : Bool) (data : List Byte) : State :=
  let choice := s.chooseClass t dst
  let s := s.netUp fun x => { x with rot := (x.rot + 1) % 4 }
  match choice with
  | none => (s.count R.RTE_COUNTS_UNREACH).raise 27 8
  | some (c, detour) =>
    let s := if detour then (s.count R.RTE_COUNTS_DETOURS).raise 27 9 else s
    match s.nextHop s.devIndex dst c none with
    | none => s
    | some (d, v) =>
      let h : RouteHdr := ⟨dst, s.devIndex, c, last, ceilDiv (16 + data.length) 248 - 1, msgId, index, if last then count else 0,
        data.length⟩
      s.netUp fun x => { x with queue := x.queue ++ [⟨s.portOfDir d, v, 9, 0, h, packetCells h data, 0, false⟩] }

/-- Cut a message into packets of up to 4,200 bytes. -/
def packetsOf (data : List Byte) : List (List Byte) :=
  (List.range (max 1 (ceilDiv data.length 4200))).map fun k => (data.drop (4200 * k)).take 4200

/-- PACKET_INJECT: a message of 1 to 16 packets leaves for another device of the domain. -/
def State.inject (s : State) (t : Option Nat) (dst : Nat) (data : List Byte) : State :=
  let ps := packetsOf data
  if data = [] ∨ 16 < ps.length ∨ dst = s.devIndex ∨ 256 ≤ dst then s
  else
    let id := s.net.msgId
    let s := s.netUp fun x => { x with msgId := (x.msgId + 1) % 2 ^ 32 }
    (numbered ps).foldl (fun s p => s.injectOne t dst id p.1 (ps.length - 1) (p.1 + 1 = ps.length) p.2) s

/-- PACKET_INJECT. -/
def execPacketInject (tenant : Option Nat) (dst : Nat) (data : List Byte) (s : State) : Out :=
  .next (s.inject tenant dst data)

/-- A packet's next cell leaves on its link; the input buffer that held it frees it (R285, R286). -/
def State.cellOut (s : State) (p : NetPkt) : State :=
  match p.cells with
  | [] => s
  | c :: t =>
    let last := decide (t = [] ∧ p.left = 0)
    let s := s.netUp fun x => { x with
      queue := if last then x.queue.erase p else x.queue.replace p { p with cells := t, started := true } }
    (s.freeCells p.inLink p.inVc 1).sendCell p.out p.vc (!p.started) last c

/-- The source that a packet competes from (R286): the direction of its input link, or 4 for local injection. -/
def State.sourceOf (s : State) (p : NetPkt) : Nat := (s.dirOf p.inLink).getD 4

/-- The packet whose head cell output VC `v` of link `n` can send: the VC has no packet in progress and credit for all of the
packet; each source offers its oldest, and a rotating priority chooses among the sources. -/
def State.headFor (s : State) (n v : Nat) : Option NetPkt :=
  let l := s.link n
  let mine := s.net.queue.filter fun p => p.out = n && p.vc = v
  if mine.any (·.started) then none
  else ((List.range 5).map fun k => (l.rot + k) % 5).findSome? fun src =>
    (mine.find? fun p => s.sourceOf p = src).filter fun p => p.cells.length + p.left ≤ l.credit v

/-- What a link's cell time goes to behind the control cells (R286): a cell of a packet in progress, or the head cell of a packet by
the rotating priority over the data VCs. Which of several packets in progress, the spec leaves to the command's VC. -/
def State.nextOut (s : State) (n vc : Nat) : Option NetPkt :=
  let going := s.net.queue.filter fun p => p.out = n && p.started && p.cells ≠ []
  match going.find? fun p => p.vc = vc with
  | some p => some p
  | none => match going with
    | p :: _ => some p
    | [] => ((List.range 8).map fun k => ((s.link n).rot + k) % 8).findSome? fun v => s.headFor n v

/-- PACKET_FORWARD: a cell time of an UP link. At a link that is not UP, the oldest packet for the VC is discarded (R301). -/
def State.forward (s : State) (n vc : Nat) : State :=
  let l := s.link n
  if l.st ≠ 2 then
    match s.net.queue.find? fun p => p.out = n && p.vc = vc with
    | none => s
    | some p =>
      ((s.netUp fun x => { x with queue := x.queue.erase p }).freeCells p.inLink p.inVc p.cells.length).count R.RTE_COUNTS_DISCARD
  else if 2048 ≤ l.replay.length then s
  else
    let s := s.setLink n { l with rot := (l.rot + 1) % 40 }
    if l.ctl ≠ [] ∧ l.credit 8 ≠ 0 then s.drainCtl n
    else match s.nextOut n vc with
      | some p => s.cellOut p
      | none => s

/-- PACKET_FORWARD. -/
def execPacketForward (n vc : Nat) (s : State) : Out := .next (s.forward n vc)

/-! ### Reassembly (R298) -/

/-- A message goes, and is counted as inconsistent. -/
def State.badMessage (s : State) (r : Reasm) : State :=
  (s.netUp fun x => { x with reasm := x.reasm.erase r }).count R.RTE_REASM_BAD

/-- A packet joins its message; the message is delivered when its last packet and every index are in. -/
def State.reassemble (s : State) (h : RouteHdr) (data : List Byte) : State :=
  match s.net.reasm.find? fun r => r.src = h.src && r.msgId = h.msgId with
  | none =>
    if 4096 ≤ s.net.reasm.length then (s.count R.RTE_REASM_FULL).raise 27 10
    else go s ⟨h.src, h.msgId, s.now, [], none⟩ true
  | some r => go s r false
where
  go (s : State) (r : Reasm) (fresh : Bool) : State :=
    let bad : Bool := (mget r.parts h.index).isSome || (h.last && (r.parts.any fun p => h.count < p.1)) ||
      (h.last && (match r.count with | some c => c ≠ h.count | none => false)) || (h.last && h.count < h.index)
    if bad then (if fresh then s.count R.RTE_REASM_BAD else s.badMessage r)
    else
      let r' : Reasm := { r with parts := mset r.parts h.index data, count := if h.last then some h.count else r.count }
      let whole : Bool := match r'.count with | some c => r'.parts.length = c + 1 | none => false
      if whole then
        s.netUp fun x => { x with
          reasm := x.reasm.erase r
          delivered := x.delivered ++ [(h.src, r'.parts.flatMap fun p => p.2)] }
      else s.netUp fun x => { x with reasm := (x.reasm.erase r) ++ [r'] }

/-- PACKET_ARRIVE: a packet for this device leaves the network, whether it is accepted or discarded. -/
def State.packetArrive (s : State) (n : Nat) (h : RouteHdr) (data : List Byte) : State :=
  match s.net.inbox.find? fun p => p.1 = n && p.2.2.1 = h && p.2.2.2 = data with
  | none => s
  | some p =>
    let s := s.netUp fun x => { x with inbox := x.inbox.erase p }
    (s.freeCells n p.2.1 (h.cells + 1)).reassemble h data

/-- REASM_TIMEOUT. -/
def execReasmTimeout (src msgId : Nat) (s : State) : Out :=
  match s.net.reasm.find? fun r => r.src = src && r.msgId = msgId with
  | none => .next s
  | some r =>
    let s := s.toTime (r.at_ + s.fld R.RTE_CFG_REASM_US * usCycles)
    .next ((s.netUp fun x => { x with reasm := x.reasm.erase r }).count R.RTE_REASM_TIMEOUTS)

/-! ### The sample of every microsecond -/

/-- A link has a packet ready whose VC lacks credit (`LNK_STALL.CREDIT_US`). -/
def State.starved (s : State) (n : Nat) : Bool :=
  (s.link n).st = 2 && s.net.queue.any fun p => p.out = n && !p.started && decide ((s.link n).credit p.vc < p.cells.length + p.left)

/-- QUEUE_SAMPLE: the queues are sampled, and each link that lacks credit counts its microsecond. -/
def execQueueSample (s : State) : Out :=
  let s := s.queueSample
  .next ((List.range 9).foldl (fun s n => if s.starved n then s.count (R.LNK_STALL_CREDIT_US.at (0x1000 * n)) else s) s)

end Sys2Proof.Machine
end

