-- ==== Sys2Proof/Machine/Reset.lean ====
section
/-! DEFINITION. Power-down, step 4 of Table 18.4 and the full reset (R388, R389, R392, R396, R397), with what the boot ROM does
at every start: the choice of the image (R380 to R382) and the MAC addresses of the flash record (R438). -/

namespace Sys2Proof.Machine

/-- CK_FT cycles in a millisecond. -/
def msCycles : Nat := 1000 * usCycles

/-! ### The boot ROM (R380 to R382) -/

/-- Codes of a slot's state (Table 17.11). -/
def slotValid : Nat := 1
def slotPending : Nat := 2
def slotTrial : Nat := 3
def slotActive : Nat := 4
def slotInvalid : Nat := 5

/-- The field that shows the state of image slot 0 (A) or 1 (B). -/
def slotFd (n : Nat) : Fd := if n = 0 then R.LMC_FW_A_STATE else R.LMC_FW_B_STATE

def State.slotSt (s : State) (n : Nat) : Nat := s.fld (slotFd n)

def State.setSlot (s : State) (n st : Nat) : State := s.setFld (slotFd n) st

/-- A trial that has not been confirmed ends at the next start: its slot is INVALID (R381). -/
def State.endTrial (s : State) : State :=
  match s.lmc.trialAt with
  | none => s
  | some _ =>
    let n := s.fld R.LMC_FW_ACTIVE
    let s := (s.setSlot n slotInvalid).lmcUp fun x => { x with trialAt := none }
    let s := s.setFld R.LMC_FW_BOOT_RESULT 2
    if s.slotSt s.lmc.former = slotValid then s.setSlot s.lmc.former slotActive else s

/-- The slot that the boot ROM starts: the PENDING one after ACTIVATE, else the ACTIVE one, else a VALID one. -/
def State.bootSlot (s : State) : Option Nat :=
  let is_ := fun (st : Nat) => [0, 1].find? fun n => s.slotSt n = st && (mget s.lmc.images n).isSome
  match (if s.lmc.activating then is_ slotPending else none) with
  | some n => some n
  | none => match is_ slotActive with
    | some n => some n
    | none => is_ slotValid

/-- The boot ROM copies the body of an image to LOAD and starts the four cores at ENTRY. -/
def State.runImage (s : State) (n : Nat) (m : Image) : State :=
  let s := s.lmcUp fun x => { x with mem := x.mem.write m.load m.body, entry := m.entry, inRecovery := false }
  (s.setFld R.LMC_FW_ACTIVE n).setFld R.LMC_FW_SVN m.svn

/-- The choice of the image, or recovery when no slot holds one that passes R380. -/
def State.bootImage (s : State) : State :=
  let s := (s.setFld R.LMC_FW_BOOT_RESULT 0).endTrial
  let was := s.fld R.LMC_FW_ACTIVE
  let asked := s.lmc.activating
  match s.bootSlot with
  | none => s.lmcUp fun x => { x with inRecovery := true, activating := false }
  | some n =>
    let s := match mget s.lmc.images n with
      | some m => s.runImage n m
      | none => s
    let s := s.lmcUp fun x => { x with activating := false }
    if asked ∧ s.slotSt n = slotPending then
      let s := if s.slotSt was = slotActive ∧ was ≠ n then s.setSlot was slotValid else s
      (s.setSlot n slotTrial).lmcUp fun x => { x with trialAt := some s.now, former := was }
    else
      let fell := s.slotSt n = slotValid
      let s := s.setSlot n slotActive
      let s := if fell then s.setFld R.LMC_FW_BOOT_RESULT 1 else s
      if s.fld R.LMC_FW_BOOT_RESULT ≠ 0 then s.raise 3 10 else s

/-- The boot ROM enables the ports of the flash port record and writes the MAC addresses of the flash record (R438). -/
def State.bootPorts (s : State) : State :=
  (List.range 8).foldl (fun s p =>
    let s := if Config.flashPort p then s.setFld (R.PRT_CFG_ENABLE.at (0x1000 * p)) 1 else s
    (List.range 4).foldl (fun s k =>
      s.setFld (R.PRT_MAC_MAC.at (0x1000 * p + 0x40 * k)) (Config.flashMac (4 * p + k)).toNat) s) s

/-- Step 4 of Table 18.4: the cores start in the boot ROM with their watchdogs, WRITTEN and FULL are cleared, ports are
enabled and stack training starts. In recovery only I3C and the UART are active (R382). -/
def State.stepFour (s : State) : State :=
  let s := (List.range 4).foldl (fun s c => s.setFld (R.LMC_STATUS_CORE.up (2 * c)) 1) s
  let s := s.lmcUp fun x => { x with kicked := (List.range 4).map fun c => (c, s.now) }
  let s := s.pwrUp fun p => { p with cleared := true, faultN := false }
  let s := s.bootImage
  if s.lmc.inRecovery then s.setFld R.PWR_STATUS_PHASE 1
  else s.bootPorts.setFld R.PWR_STATUS_PHASE 2

/-! ### What outlives a reset -/

/-- Register words that a full reset keeps: the pages of PWR and THM but for their locks (R396, R416), and the debug key
digest once it is fixed (R383). -/
def State.keptRegs (s : State) : NMap Word64 :=
  s.regs.filter fun e =>
    ((e.1 / 0x1000 = 2 || e.1 / 0x1000 = 9) && e.1 % 0x1000 ≠ 0x50) ||
      (s.lmc.idsFixed && 0xB1C0 ≤ e.1 && e.1 < 0xB1F0)

/-- Register words that outlive the loss of every rail: events and counts of PWR, the cause of the latest reset, and a fixed
debug key digest. -/
def State.coldRegs (s : State) : NMap Word64 :=
  s.regs.filter fun e =>
    e.1 = 0x2020 || e.1 = 0x2138 || (s.lmc.idsFixed && 0xB1C0 ≤ e.1 && e.1 < 0xB1F0)

/-- Flash and fuses (Table 17.6, R380, R383). -/
def State.flash (s : State) : Lmc :=
  { resetLmc with
    slots := s.lmc.slots, images := s.lmc.images, activating := s.lmc.activating, trialAt := s.lmc.trialAt
    former := s.lmc.former, keyMade := s.lmc.keyMade, keyDead := s.lmc.keyDead, idsFixed := s.lmc.idsFixed
    flashLog := s.lmc.flashLog }

/-- The fields of `LMC_STATUS` and `LMC_FW` that stand for flash and fuses. -/
def State.fuseFields (s old : State) : State :=
  [R.LMC_STATUS_LC, R.LMC_FW_ACTIVE, R.LMC_FW_A_STATE, R.LMC_FW_B_STATE, R.LMC_FW_FUSE_SVN].foldl
    (fun s f => s.setFld f (old.fld f)) s

/-- Every block but PWR and THM as at reset; waiting commands, time, the log of what has left, flash, fuses and hard errors of
the stacks stay; the atomic units' generators are keyed anew (R134). -/
def State.blocksReset (s : State) (regs : NMap Word64) (thm : Thm) (pwr : Pwr) : State :=
  ({ State.reset with
    pending := s.pending
    now := s.now
    frameStart := s.now
    freeCtr := s.freeCtr + 1
    acc := { resetAcc with srSeed := s.freeCtr }
    out := s.out
    regs := regs
    ecc := { resetEcc with errs := s.ecc.errs.filter fun e => e.2.hard }
    lmc := s.flash
    thm := thm
    pwr := pwr } : State).fuseFields s

/-- A full reset (R396): the rails stay up, and the device restarts at step 4. -/
def State.fullReset (s : State) (cause : Nat) : State :=
  let p := s.pwr
  let n := s.blocksReset s.keptRegs s.thm
    { p with step8 := none, cleared := false, timer := false, callAt := s.now, accAt := [], gateWake := none, deepExit := none,
             resetAt := none, entered := none }
  let n := (n.setFld R.PWR_BOOT_STACKS_OK 0).setFld R.PWR_STATUS_READY 0
  let n := ((n.setFld R.PWR_STATUS_GATED 0).setFld R.PWR_STATUS_NAP_STACKS 0).setFld R.PWR_STATUS_DEEP 0
  let n := n.setFld R.PWR_STATUS_BUDGET_US 0xFFFFFFFF
  let n := (n.setFld R.PWR_RESET_CAUSE_CAUSE cause).countWrap R.PWR_RESET_CAUSE_RESETS
  n.stepFour

/-- Every rail goes off, in reverse order, and the device enters OFF (R388, R389, R392). `cause` is recorded where one is
given. -/
def State.powerOff (s : State) (cause : Option Nat) : State :=
  let p := s.pwr
  let n := s.blocksReset s.coldRegs ⟨false, false, false, []⟩
    { resetPwr with attempts := p.attempts, latched := p.latched, inputBad := p.inputBad, sysclk := p.sysclk,
                    faultN := p.faultN, tripN := p.tripN, step1 := p.step1 }
  n.setFld R.PWR_RESET_CAUSE_CAUSE (cause.getD (s.fld R.PWR_RESET_CAUSE_CAUSE))

/-- Every rail reports power-good: the device runs. -/
def State.powered (s : State) : Bool := s.pwr.on && s.fld R.PWR_RAILS_PGOOD = 255

/-! ### Resets that hand over first (R397) -/

/-- Some set still awaits the answer to its final record (R338). -/
def State.handing (s : State) : Bool :=
  s.paired && ((s.pset 0).unacked.any (fun r => r.handover) || (s.pset 1).unacked.any fun r => r.handover)

/-- A reset that waits happens once the last handover has completed. -/
def State.resetIfHanded (s : State) : State :=
  match s.pwr.resetAt with
  | some (c, _) => if s.handing then s else s.fullReset c
  | none => s

/-- A reset that hands over every held set first, at most for 1 ms. -/
def State.resetAfterHandover (s : State) (cause : Nat) : State :=
  let s := [0, 1].foldl (fun s k => if (s.pset k).st = 2 ∧ s.paired then s.handover k true else s) s
  (s.pwrUp fun p => { p with resetAt := some (cause, s.now + msCycles) }).resetIfHanded

/-- EPOCH_ACK: an answer to a record; the one that completes the last handover lets a waiting reset happen. -/
def execEpochAck (set status alive : Nat) (term : BitVec 32) (s : State) : Out :=
  .next ((s.epochAck (set % 2) status alive term.toNat).resetIfHanded)

/-- RESET_HANDOVER_TIMEOUT: 1 ms has passed, and the device resets anyway. -/
def execResetHandoverTimeout (s : State) : Out :=
  .next (match s.pwr.resetAt with
  | some (c, t) => (s.toTime t).fullReset c
  | none => s)

/-- FULL_RESET, for one of the causes of Table 18.6. -/
def execFullReset (cause : Nat) (s : State) : Out := .next (if s.powered then s.fullReset (cause % 8) else s)

end Sys2Proof.Machine
end

