-- ==== Sys2Proof/Machine/Lumyan.lean ====
section
/-! DEFINITION. Lumyan (chapter 17): watchdogs, the event controller, the sensors, the log, management credentials, firmware
images, life-cycle states, BIST and repair. -/

namespace Sys2Proof.Machine

/-- A write is refused because its path may not make it: nothing is stored, and one record names field `f` (R387, R402). -/
def State.refusePath (s : State) (f : Fd) (src : RegSrc) (w : Word64) : State :=
  recordClamp s (pageOf f.off) (fieldNo f) kLocked (srcCode src) w (s.word f.off)

/-- A register word goes back to its reader: a core's load returns it, an in-band READ carries it itself. -/
def State.busRead (s : State) (src : RegSrc) (off : Nat) (v : Word64) : State :=
  match src with
  | .core _ => s.emit (.busRead src off v)
  | .inband => s

/-! ### The log (R377, R379) -/

/-- First byte of the log ring (Table 17.1). -/
def logBase : Nat := 0x80800000

/-- Records of the persistent summary: 31 MiB, in sectors of 64 KiB. -/
def flashLogMax : Nat := 507904

/-- A record enters the log ring, the persistent summary at `FLASH_SEV` or above, and the UART at `UART_SEV` or above. CODE
and PARAMS are the firmware release's own. -/
def State.logRecord (s : State) (source severity core : Nat) : State :=
  let params := (List.range 6).flatMap fun i => leBytes 8 (Config.freeBits 15 (8 * s.freeCtr + i)).toNat
  let b := leBytes 8 s.frame ++ leBytes 2 source ++ leBytes 1 severity ++ leBytes 1 core ++
    leBytes 4 (Config.freeBits 15 (8 * s.freeCtr + 6)).toNat ++ params
  let s := s.tick
  let h := s.fld R.LMC_LOG_HEAD
  let s := s.lmcUp fun x => { x with mem := x.mem.write (logBase + 64 * h) b }
  let s := s.setFld R.LMC_LOG_HEAD ((h + 1) % 131072)
  let s := if h = 131071 then s.countWrap R.LMC_LOG_WRAPS else s
  let s := if s.fld R.LMC_LOG_CFG_FLASH_SEV ≤ severity then
      s.lmcUp fun x => { x with
        flashLog := (if flashLogMax ≤ x.flashLog.length then x.flashLog.drop 1024 else x.flashLog) ++ [b] }
    else s
  if s.fld R.LMC_LOG_CFG_UART_SEV ≤ severity then b.foldl (fun s c => s.emit (.uart c)) s else s

/-! ### The event controller (R368 to R375) -/

/-- Sources of kind level. -/
def levelSource (n : Nat) : Bool := n < 512 || (516 ≤ n && n ≤ 520)

/-- The line of a level source. -/
def State.lineOf (s : State) (n : Nat) : Bool :=
  if n < 512 then (pageInfo n).isSome && s.evtLine n else s.lmc.lines.contains n

/-- A source is active. -/
def State.evcActive (s : State) (n : Nat) : Bool := s.lmc.act.contains n

/-- A source is pending (R368). -/
def State.evcPending (s : State) (n : Nat) : Bool :=
  if levelSource n then s.lineOf n && !s.evcActive n else s.lmc.pend.contains n

/-- An edge source becomes pending. -/
def State.edge (s : State) (n : Nat) : State :=
  if s.lmc.pend.contains n then s else s.lmcUp fun x => { x with pend := x.pend ++ [n] }

/-- A field of `EVC_SRC_n`. -/
def State.srcFld (s : State) (f : Fd) (n : Nat) : Nat := s.fld (f.at (0x1000 * (n / 256) + 8 * (n % 256)))

/-- A field of core `c`'s registers. -/
def State.coreFld (s : State) (f : Fd) (c : Nat) : Nat := s.fld (f.at (0x20 * c))

/-- The source is deliverable to core `c` (R369). -/
def State.deliverable (s : State) (c n : Nat) : Bool :=
  s.srcFld R.EVC_SRC_ENABLE n = 1 && s.srcFld R.EVC_SRC_CORE n = c &&
    decide (s.coreFld R.EVC_CORE_THRESH c < s.srcFld R.EVC_SRC_PRIO n) && s.evcPending n && !s.evcActive n &&
    s.fld R.EVC_GATE_CLOSED = 0 &&
    (match mget s.lmc.holdoff (s.srcFld R.EVC_SRC_GROUP n) with | some t => decide (t ≤ s.now) | none => true)

/-- Where the rotating priority over sources stands: it advances by one in each CK_LM cycle, of which 2.4 pass in a CK_FT
cycle. -/
def State.evcTurn (s : State) : Nat := s.now * 12 / 5 % 1024

/-- The deliverable source of core `c` and mode `m` with the highest PRIO, by the rotating priority among equals. -/
def State.evcChoose (s : State) (c m : Nat) : Option Nat :=
  let order := (List.range 1024).map fun i => (s.evcTurn + i) % 1024
  (order.filter fun n => s.srcFld R.EVC_SRC_MODE n = m && s.deliverable c n).foldl (fun best n =>
    match best with
    | none => some n
    | some b => if s.srcFld R.EVC_SRC_PRIO b < s.srcFld R.EVC_SRC_PRIO n then some n else some b) none

/-- A source is delivered or claimed: it is active, no longer pending, and its group's hold-off starts (R370, R371,
R374). -/
def State.evcTake (s : State) (n : Nat) : State :=
  let g := s.srcFld R.EVC_SRC_GROUP n
  let t := s.now + 5 * s.fld (R.EVC_HOLDOFF_UNITS.at (8 * g))
  s.lmcUp fun x => { x with act := x.act ++ [n], pend := x.pend.erase n, holdoff := mset x.holdoff g t }

/-- The state of a core: 0 reset, 1 running, 2 WFI, 3 halted. -/
def State.coreSt (s : State) (c : Nat) : Nat := s.fld (R.LMC_STATUS_CORE.up (2 * c))

/-- EVC_NATIVE_DELIVERY: core `c` traps to its vector for the chosen source. -/
def State.nativeDelivery (s : State) (c : Nat) : State :=
  if 4 ≤ c ∨ s.coreSt c ≠ 1 ∨ mgetD s.lmc.mie c 1 ≠ 1 ∨ s.coreFld R.EVC_CORE_MASK c = 1 then s
  else
    match s.evcChoose c 0 with
    | none => s
    | some n => (s.evcTake n).emit (.trap c n (s.coreFld R.EVC_CORE_VBASE c * 16 + 16 * n))

/-- EVC_NATIVE_DELIVERY. -/
def execEvcNativeDelivery (c : Nat) (s : State) : Out := .next (s.nativeDelivery c)

/-- A read of `EVC_CLAIM_c`: the word that it returns, and the state after it. -/
def State.claim (s : State) (c : Nat) : Word64 × State :=
  match s.evcChoose c 1 with
  | none => (0, s)
  | some n => (BitVec.ofNat 64 (n + 2 ^ 63), s.evcTake n)

/-- EVC_CLAIM. -/
def execEvcClaim (src : RegSrc) (c : Nat) (s : State) : Out :=
  let (w, s) := s.claim (c % 4)
  .next (s.busRead src (0x4208 + 0x20 * (c % 4)) w)

/-- A write of `EVC_EOI_c` ends the service of a source that targets core `c`. -/
def State.eoi (s : State) (src : RegSrc) (c : Nat) (w : Word64) : State :=
  let s := s.storeReg src (0x4210 + 0x20 * c) w
  let n := w.toNat % 1024
  if s.srcFld R.EVC_SRC_CORE n = c then s.lmcUp fun x => { x with act := x.act.erase n } else s

/-- EVC_EOI. -/
def execEvcEoi (src : RegSrc) (c : Nat) (w : Word64) (s : State) : Out := .next (s.eoi src (c % 4) w)

/-- A write of `EVC_SWSET`: a software source becomes pending; another value stores nothing. -/
def State.swset (s : State) (src : RegSrc) (w : Word64) : State :=
  let s := s.storeReg src 0x4108 w
  let n := w.toNat % 1024
  if 768 ≤ n then s.edge n else s

/-- EVC_SWSET. -/
def execEvcSwset (src : RegSrc) (w : Word64) (s : State) : Out := .next (s.swset src w)

/-- EVC_GATE_WRITE. -/
def execEvcGateWrite (src : RegSrc) (w : Word64) (s : State) : Out := .next (s.storeReg src 0x4100 w)

/-- EVC_HOLDOFF_EXPIRE. -/
def execEvcHoldoffExpire (g : Nat) (s : State) : Out :=
  .next (match mget s.lmc.holdoff g with
  | some t => (s.toTime t).lmcUp fun x => { x with holdoff := mdel x.holdoff g }
  | none => s)

/-- WFI_WAKE: a core in WFI resumes when an enabled source that targets it is pending, whatever masks it (R375). -/
def State.wfiWake (s : State) (c : Nat) : State :=
  if c < 4 ∧ s.coreSt c = 2 ∧ ((List.range 1024).any fun n =>
      s.srcFld R.EVC_SRC_CORE n = c && s.srcFld R.EVC_SRC_ENABLE n = 1 && s.evcPending n) then
    s.setFld (R.LMC_STATUS_CORE.up (2 * c)) 1
  else s

/-- WFI_WAKE. -/
def execWfiWake (c : Nat) (s : State) : Out := .next (s.wfiWake c)

/-- WAKE_TIMER: the edge of source 521. -/
def execWakeTimer (s : State) : Out := .next (s.edge 521)

/-! ### Watchdogs (R367) -/

/-- A kick restarts a core's period, from stage 0. -/
def State.kick (s : State) (c : Nat) : State :=
  (s.lmcUp fun x => { x with kicked := mset x.kicked c s.now }).setFld (R.LMC_WDT_STAGE.at (8 * c)) 0

/-- WDT_KICK. -/
def execWdtKick (src : RegSrc) (c : Nat) (s : State) : Out :=
  let c := c % 4
  let off := 0x3110 + 8 * c
  .next ((s.storeReg src off (s.word off ||| BitVec.ofNat 64 (2 ^ 63))).kick c)

/-- A period of core `c` ends without a kick: stage 1 and its source, or a full reset. -/
def State.wdtExpire (s : State) (c : Nat) : State :=
  match mget s.lmc.kicked c with
  | none => s
  | some t0 =>
    let d := 8 * c
    let t := t0 + s.fld (R.LMC_WDT_PERIOD_MS.at d) * msCycles
    let s := s.toTime t
    if s.fld (R.LMC_WDT_STAGE.at d) = 0 then
      let s := (s.lmcUp fun x => { x with kicked := mset x.kicked c t }).setFld (R.LMC_WDT_STAGE.at d) 1
      (s.raise 3 8).edge (512 + c)
    else s.fullReset 4

/-- WDT_EXPIRE. -/
def execWdtExpire (c : Nat) (s : State) : Out := .next (if c < 4 then s.wdtExpire c else s)

/-! ### Sensors (R376, R392) -/

/-- Put the throttle level, raising CAP_ACTIVE when it leaves 0. -/
def State.setLevel (s : State) (l : Nat) : State :=
  let s := if s.fld R.PWR_STATUS_LEVEL = 0 ∧ l ≠ 0 then s.raise 2 8 else s
  s.setFld R.PWR_STATUS_LEVEL l

/-- Nominal values of the voltage monitors in units of 1/22 mV: Table 20.3. Monitor 14 follows the input. -/
def State.nominal (s : State) (m : Nat) : Nat :=
  if m = 14 then s.fld R.THM_INPUT_VIN_MV * 30
  else 22 * ([750, 750, 750, 750, 750, 750, 850, 800, 750, 1100, 1100, 1800, 800, 1800, 0, 750].getD m 0)

/-- A monitor lies outside its nominal value ± V_TOL_PCT. -/
def State.voltBad (s : State) (m mv : Nat) : Bool :=
  let tol := s.fld R.THM_CFG_V_TOL_PCT
  let x := mv * 2200
  decide (x < s.nominal m * (100 - tol)) || decide (s.nominal m * (100 + tol) < x)

/-- A PLDM platform event message leaves: the event bit of THM that it reports. -/
def State.platformEvent (s : State) (bit : Nat) : State := s.emit (.pldm 0 [bit])

/-- One latch of a threshold event: raised at the threshold, armed again once every point lies below the threshold less the
hysteresis. -/
def State.thmLatch (s : State) (was over_ under : Bool) (bit : Nat) : State × Bool :=
  if over_ && !was then ((s.raise 9 bit).platformEvent bit, true)
  else (s, was && !under)

/-- THM_SAMPLE: the thermal points, in units of 0.125 °C, and the voltage monitors in mV. -/
def State.thmSample (s : State) (points : List Int) (mv : List Nat) : State :=
  let tp := fun i => points.getD i 0
  let s := (List.range 48).foldl (fun s i =>
    s.setFld ((R.THM_TP_TEMP.at (8 * (i / 4))).up (16 * (i % 4))) (BitVec.ofInt 16 (tp i)).toNat) s
  let s := (List.range 16).foldl (fun s i =>
    s.setFld ((R.THM_VM_MV.at (8 * (i / 4))).up (16 * (i % 4))) (mv.getD i 0)) s
  let all_ := (List.range 48).map tp
  let over_ := fun (c : Nat) => all_.any fun t => decide ((8 * c : Int) ≤ t)
  let under := fun (c : Nat) => all_.all fun t => decide (t < (8 * c : Int))
  let hyst := s.fld R.THM_CFG_HYST_C
  let warn := s.fld R.THM_CFG_WARN_C
  let crit := s.fld R.THM_CFG_CRIT_C
  let (s, w) := s.thmLatch s.thm.warned (over_ warn) (under (warn - hyst)) 8
  let (s, c) := s.thmLatch s.thm.critical (over_ crit) (under (crit - hyst)) 9
  let bad := (List.range 16).any fun m => s.voltBad m (mv.getD m 0)
  let (s, v) := s.thmLatch s.thm.volted bad (!bad) 10
  let s := s.thmUp fun x => { x with warned := w, critical := c, volted := v }
  let s := if c then s.setLevel 8 else s
  if over_ 125 then (s.pwrUp fun p => { p with on := false, latched := true, tripN := true }).powerOff (some 7) else s

/-- THM_SAMPLE. -/
def execThmSample (points : List Int) (mv : List Nat) (s : State) : Out :=
  .next (if s.powered then s.thmSample points mv else s)

/-- THM_INPUT_SAMPLE: input voltage in 10 mV, current in mA, power in 0.1 W. -/
def State.inputSample (s : State) (v i p : Nat) : State :=
  let s := ((s.setFld R.THM_INPUT_VIN_MV v).setFld R.THM_INPUT_IIN_MA i).setFld R.THM_INPUT_PIN_DW p
  let s := s.thmUp fun x => { x with pin := (p % 65536 :: x.pin).take 10 }
  if 4000 ≤ v ∧ v ≤ 6000 then s.setFld R.PWR_RAILS_VIN_WARN 0 else s

/-- THM_INPUT_SAMPLE. -/
def execThmInputSample (v i p : Nat) (s : State) : Out := .next (if s.pwr.on then s.inputSample v i p else s)

/-- PLDM over MCTP on I3C is served: the cores run. -/
def State.pldmUp (s : State) : Bool := s.powered && s.fld R.PWR_STATUS_PHASE ≠ 0

/-- The reading of a PLDM sensor. -/
def State.sensor (s : State) (id : Nat) : Option Int :=
  if 1 ≤ id ∧ id ≤ 48 then
    let i := id - 1
    some (BitVec.ofNat 16 (s.fld ((R.THM_TP_TEMP.at (8 * (i / 4))).up (16 * (i % 4))))).toInt
  else if 49 ≤ id ∧ id ≤ 64 then
    let i := id - 49
    some (s.fld ((R.THM_VM_MV.at (8 * (i / 4))).up (16 * (i % 4))))
  else if id = 65 then some (s.fld R.THM_INPUT_VIN_MV)
  else if id = 66 then some (s.fld R.THM_INPUT_IIN_MA)
  else if id = 67 then some (s.fld R.THM_INPUT_PIN_DW)
  else if 68 ≤ id ∧ id ≤ 75 then some ((min 127 (mgetD s.ftm.temps (id - 68) 0) : Nat) : Int)
  else none

/-- GET_SENSOR_READING. -/
def execGetSensorReading (id : Nat) (s : State) : Out :=
  .next (if s.pldmUp then s.emit (.pldm id (s.sensor id).toList) else s)

/-- The thresholds of a PLDM sensor: warning and critical of a thermal point in 0.125 °C, low and high of a voltage monitor
in mV; the spec gives the others none. -/
def State.thresholds (s : State) (id : Nat) : List Int :=
  if 1 ≤ id ∧ id ≤ 48 then [8 * s.fld R.THM_CFG_WARN_C, 8 * s.fld R.THM_CFG_CRIT_C]
  else if 49 ≤ id ∧ id ≤ 64 then
    let n := s.nominal (id - 49)
    let tol := s.fld R.THM_CFG_V_TOL_PCT
    [((n * (100 - tol) / 2200 : Nat) : Int), ((n * (100 + tol) / 2200 : Nat) : Int)]
  else []

/-- GET_SENSOR_THRESHOLDS. -/
def execGetSensorThresholds (id : Nat) (s : State) : Out :=
  .next (if s.pldmUp then s.emit (.pldm id (s.thresholds id)) else s)

/-- MEM_UE: a core reads management memory with a double-bit error; firmware logs it (R366). -/
def State.memUe (s : State) (core addr : Nat) : State :=
  if addr < mgmtBase ∨ mgmtEnd ≤ addr then s
  else (((s.count R.LMC_STATUS_MEM_UE).raise 3 11).edge 522).emit (.accessFault core addr) |>.logRecord 522 3 core

/-- MEM_UE. -/
def execMemUe (core addr : Nat) (s : State) : Out := .next (if s.powered then s.memUe (core % 4) addr else s)

/-! ### Management credentials (R378) -/

/-- The management port is served: firmware runs. -/
def State.mgmtPort (s : State) : Bool := s.powered && s.mgmtUp

/-- The lowest connection number free among the four. -/
def State.freeTls (s : State) : Option Nat := (List.range 4).find? fun n => (mget s.lmc.tls n).isNone

/-- TLS_CONNECT: a client certificate whose key digest an enabled operator slot holds opens a connection in that slot's
role. -/
def State.tlsConnect (s : State) (digest : BitVec 384) : State :=
  match s.freeTls, s.lmc.slots.find? fun e => e.2.enabled && e.2.digest = digest with
  | some n, some (_, o) => s.lmcUp fun x => { x with tls := mset x.tls n o.role }
  | _, _ => s

/-- TLS_CONNECT. -/
def execTlsConnect (digest : BitVec 384) (s : State) : Out := .next (if s.mgmtPort then s.tlsConnect digest else s)

/-- Roles: 0 READER, 1 OPERATOR, 2 ADMIN. -/
def State.roleAtLeast (s : State) (conn role : Nat) : Bool :=
  s.mgmtPort && match mget s.lmc.tls conn with | some r => decide (role ≤ r) | none => false

/-- An HTTP answer without a value. -/
def State.http (s : State) (status : Nat) : State := s.emit (.redfish status 0)

/-- An action of an open connection: 403 without the role. A connection that is not open brings nothing. -/
def State.asRole (s : State) (conn role : Nat) (f : State → State) : State :=
  if (mget s.lmc.tls conn).isNone ∨ !s.mgmtPort then s
  else if s.roleAtLeast conn role then f s
  else s.http 403

/-- REDFISH_RESET: OPERATOR; a full reset with handover (R397). -/
def execRedfishReset (conn : Nat) (s : State) : Out :=
  .next (s.asRole conn 1 fun s => (s.http 202).resetAfterHandover 2)

/-- OPERATOR_SLOT_CHANGE: ADMIN; it counts for new connections. -/
def execOperatorSlotChange (conn slot : Nat) (digest : BitVec 384) (role : Nat) (enabled : Bool) (s : State) : Out :=
  .next (s.asRole conn 2 fun s =>
    if slot < 8 ∧ role < 3 then (s.lmcUp fun x => { x with slots := mset x.slots slot ⟨digest, role, enabled⟩ }).http 200
    else s.http 400)

/-- The life-cycle state (Table 17.8). -/
def State.lc (s : State) : Nat := s.fld R.LMC_STATUS_LC

def State.setLc (s : State) (n : Nat) : State := s.setFld R.LMC_STATUS_LC n

def lcManufacture : Nat := 1
def lcProvisioned : Nat := 2
def lcField : Nat := 3
def lcHold : Nat := 4
def lcRma : Nat := 5
def lcScrapped : Nat := 6

/-- UART_INPUT: a command in MANUFACTURE and RMA, discarded otherwise (R379). -/
def execUartInput (b : Byte) (s : State) : Out :=
  .next (if s.powered ∧ (s.lc = lcManufacture ∨ s.lc = lcRma) then s.lmcUp fun x => { x with uart := x.uart ++ [b] } else s)

/-! ### Firmware images (R380 to R382) -/

/-- Code and data of management memory (Table 17.1). -/
def codeBase : Nat := 0x80000000
def codeEnd : Nat := 0x80800000

/-- The header's own bounds (Table 17.7): LENGTH, LOAD and ENTRY. -/
def ImageArg.fits (x : ImageArg) : Bool :=
  decide (1 ≤ x.body.length) && decide (x.body.length ≤ 6291456) && decide (codeBase ≤ x.load) &&
    decide (x.load + x.body.length ≤ codeEnd) && decide (x.load ≤ x.entry) && decide (x.entry < x.load + x.body.length)

/-- The six checks of R380 in their order; CRC unit 3 compares the body's CRC when the first four have passed. -/
def State.checkImage (s : State) (x : ImageArg) : State × Bool :=
  if !(x.magicOk && ImageArg.fits x && x.keyOk && x.sigOk) || x.svn % 256 < s.fld R.LMC_FW_FUSE_SVN then (s, false)
  else
    let c := (crc64 x.body).toNat
    let s := s.crcCompare 3 x.crc64.toNat c
    (s, x.crc64.toNat = c && x.hashOk)

/-- The image that a slot then holds. -/
def imageOf (x : ImageArg) : Image := ⟨x.svn % 256, x.load, x.entry, x.body⟩

/-- IMAGE_STAGE: an update goes into the inactive slot and becomes PENDING; during a trial, or with a slot already PENDING,
it replaces nothing. -/
def State.imageStage (s : State) (x : ImageArg) : State :=
  if s.lmc.trialAt.isSome ∨ s.slotSt 0 = slotPending ∨ s.slotSt 1 = slotPending then s.http 409
  else
    let n := 1 - s.fld R.LMC_FW_ACTIVE
    match s.checkImage x with
    | (s, true) =>
      let s := s.lmcUp fun l => { l with images := mset l.images n (imageOf x) }
      ((s.setSlot n slotPending).raise 3 9).http 200
    | (s, false) =>
      ((s.lmcUp fun l => { l with images := mdel l.images n }).setSlot n slotInvalid).http 400

/-- IMAGE_STAGE. -/
def execImageStage (x : ImageArg) (s : State) : Out := .next (if s.mgmtPort then s.imageStage x else s)

/-- A write of `LMC_FW_CMD` with GO and OP `op`: refused in-band (R387), else stored, and `f` is the command's effect. -/
def State.fwCmd (s : State) (src : RegSrc) (op : Nat) (w : Word64) (f : State → State) : State :=
  let w := BitVec.ofNat 64 (w.toNat / 8 % 2 ^ 60 * 8 + op + 2 ^ 63)
  match src with
  | .inband => s.refusePath R.LMC_FW_CMD_OP src w
  | .core _ =>
    let s := s.storeReg src 0x3138 w
    if s.fld R.LMC_FW_CMD_OP = op then f s else s

/-- ACTIVATE: with a PENDING slot, every held set is handed over, and the device resets. -/
def State.activate (s : State) : State :=
  if s.slotSt 0 = slotPending ∨ s.slotSt 1 = slotPending then
    (s.lmcUp fun x => { x with activating := true }).resetAfterHandover 3
  else s

/-- ACTIVATE. -/
def execActivate (src : RegSrc) (w : Word64) (s : State) : Out := .next (s.fwCmd src 1 w State.activate)

/-- CONFIRM within TRIAL_S: the trial slot is ACTIVE, the former one VALID. -/
def State.confirm (s : State) : State :=
  match s.lmc.trialAt with
  | none => s
  | some t =>
    if t + s.fld R.LMC_FW_CFG_TRIAL_S * 1000 * msCycles < s.now then s
    else
      let s := (s.setSlot (s.fld R.LMC_FW_ACTIVE) slotActive).lmcUp fun x => { x with trialAt := none }
      if s.slotSt s.lmc.former = slotActive ∧ s.lmc.former ≠ s.fld R.LMC_FW_ACTIVE then s.setSlot s.lmc.former slotValid else s

/-- CONFIRM. -/
def execConfirm (src : RegSrc) (w : Word64) (s : State) : Out := .next (s.fwCmd src 2 w State.confirm)

/-- COMMIT by ADMIN: the fused count rises to the ACTIVE image's SVN, and slots of a lower SVN are INVALID. -/
def State.commit (s : State) (admin : Bool) : State :=
  let n := s.fld R.LMC_FW_ACTIVE
  if !admin ∨ s.slotSt n ≠ slotActive then s
  else
    let v := max (s.fld R.LMC_FW_FUSE_SVN) (s.fld R.LMC_FW_SVN)
    let s := s.setFld R.LMC_FW_FUSE_SVN v
    [0, 1].foldl (fun s k => match mget s.lmc.images k with
      | some m => if m.svn < v then (s.setSlot k slotInvalid).lmcUp fun x => { x with images := mdel x.images k } else s
      | none => s) s

/-- COMMIT. -/
def execCommit (src : RegSrc) (w : Word64) (admin : Bool) (s : State) : Out :=
  .next (s.fwCmd src 3 w fun s => s.commit admin)

/-- FW_NOP. -/
def execFwNop (src : RegSrc) (w : Word64) (s : State) : Out := .next (s.fwCmd src 0 w id)

/-- TRIAL_TIMEOUT: the boot ROM resets the device into the former slot. -/
def execTrialTimeout (s : State) : Out :=
  .next (match s.lmc.trialAt with
  | some t => (s.toTime (t + s.fld R.LMC_FW_CFG_TRIAL_S * 1000 * msCycles)).fullReset 3
  | none => s)

/-- RECOVERY_IMAGE: in recovery one image is checked, written to slot A and started by a reset. -/
def State.recoveryImage (s : State) (x : ImageArg) : State :=
  match s.checkImage x with
  | (s, true) =>
    let s := (s.lmcUp fun l => { l with images := mset l.images 0 (imageOf x) }).setSlot 0 slotActive
    (s.fullReset 3).setFld R.LMC_FW_BOOT_RESULT 3
  | (s, false) => s

/-- RECOVERY_IMAGE. -/
def execRecoveryImage (x : ImageArg) (s : State) : Out :=
  .next (if s.powered ∧ s.lmc.inRecovery then s.recoveryImage x else s)

/-! ### Life-cycle states (R383) -/

/-- Some set is held: SOLE, HOLDER or TAKING. -/
def State.setHeld (s : State) : Bool := s.paired && [0, 1].any fun k => [1, 2, 6].contains (s.pset k).st

/-- A transition by a token that Coranath signed. -/
def State.byToken (s : State) (ok can : Bool) (f : State → State) : State :=
  if !s.mgmtPort then s else if !ok then s.http 403 else if can then (f s).http 200 else s.http 409

/-- A transition by ADMIN. -/
def State.byAdmin (s : State) (conn : Nat) (can : Bool) (f : State → State) : State :=
  s.asRole conn 2 fun s => if can then (f s).http 200 else s.http 409

/-- MANUFACTURE_PERSONALISATION: BLANK to MANUFACTURE. -/
def execManufacturePersonalisation (s : State) : Out :=
  .next (if s.lc = 0 then (s.setLc lcManufacture).lmcUp fun x => { x with keyMade := true } else s)

/-- PROVISION. -/
def execProvision (tokenOk : Bool) (s : State) : Out :=
  .next (s.byToken tokenOk (s.lc = lcManufacture) fun s => s.setLc lcProvisioned)

/-- DEPLOY: the debug key digest is fixed. -/
def execDeploy (conn : Nat) (s : State) : Out :=
  .next (s.byAdmin conn (s.lc = lcProvisioned) fun s => (s.setLc lcField).lmcUp fun x => { x with idsFixed := true })

/-- HOLD: with no set held. -/
def execHold (conn : Nat) (s : State) : Out :=
  .next (s.byAdmin conn (s.lc = lcField && !s.setHeld) fun s => s.setLc lcHold)

/-- SERVICE_HOLD_RELEASE. -/
def execServiceHoldRelease (conn : Nat) (s : State) : Out :=
  .next (s.byAdmin conn (s.lc = lcHold) fun s => s.setLc lcField)

/-- RMA: every tenant is retired with its key slots, and the operator slots are cleared. -/
def State.toRma (s : State) : State :=
  let s := (s.closeConns fun c => c.session.isSome || c.tenant < 64).secUp fun c => { c with consents := [], rotating := [] }
  let s := (List.range 64).foldl (fun s t =>
    if (s.tenant t).st = 0 then s else (s.setTenant t emptyTenant).clearId t) s
  (s.setLc lcRma).lmcUp fun x => { x with slots := [] }

/-- RMA. -/
def execRma (tokenOk : Bool) (s : State) : Out :=
  .next (s.byToken tokenOk (s.lc = lcField || s.lc = lcHold) State.toRma)

/-- SCRAP: the device key is destroyed. -/
def State.toScrapped (s : State) : State := (s.setLc lcScrapped).lmcUp fun x => { x with keyDead := true }

/-- SCRAP, by ADMIN, or in RMA by a token. -/
def execScrap (conn : Option Nat) (tokenOk : Bool) (s : State) : Out :=
  .next (match conn with
  | some c => s.byAdmin c (s.lc ≠ lcScrapped) State.toScrapped
  | none => s.byToken tokenOk (s.lc = lcRma) State.toScrapped)

/-! ### BIST and repair (R384 to R386) -/

/-- What BIST asks of the device beside its state. -/
def State.bistIdle (s : State) : Bool :=
  (s.xlt.extents.all fun e => e.2.state = .quarantined) && s.seq.calls = [] && !s.setHeld

/-- A test of the on-chip tiers destroys what they hold (R384, Table 1.2): the model leaves the lines, the directory, slab and
frond stores, plans, sync objects and TLBs empty. -/
def State.bistSram (s : State) : State :=
  let s := s.accUp fun a => { a with lines := [] }
  let s := s.dirUp fun d => { d with entries := [], victims := [] }
  let s := s.seqUp fun q => { q with plans := [], slab := [], slabValid := [], fronds := [] }
  let s := s.xltUp fun x => { x with tlb := [] }
  { s with syn := { s.syn with objs := [] } }

/-- BIST starts: the tested areas lose their contents. -/
def State.bistStart (s : State) : State :=
  let s := s.setWord 0xA108 1
  let s := s.lmcUp fun x => { x with fails := [] }
  let s := if s.fld R.BST_CTRL_SRAM = 1 then s.bistSram else s
  let s := if s.fld R.BST_CTRL_FRONDS = 1 then s.seqUp fun q => { q with fronds := [] } else s
  s.debugSync

/-- A write of `BST_CTRL` with GO. -/
def State.bist (s : State) (src : RegSrc) (w : Word64) (admin : Bool) : State :=
  let w := w ||| BitVec.ofNat 64 (2 ^ 63)
  match src with
  | .inband => s.refusePath R.BST_CTRL_GO src w
  | .core _ =>
    let s := s.storeReg src 0xA100 w
    if s.fld R.BST_STATUS_STATE = 1 then s
    else if (s.lc = lcManufacture ∨ s.lc = lcRma ∨ (s.lc = lcHold ∧ admin)) ∧ s.bistIdle then s.bistStart
    else s.setFld R.BST_STATUS_RESULT 3

/-- BIST. -/
def execBist (src : RegSrc) (w : Word64) (admin : Bool) (s : State) : Out := .next (s.bist src w admin)

/-- The failing on-chip SRAM instances that nothing repairs: those of kinds 1, 3 and 4, each named once (R385). -/
def failedSrams (fails : List Word64) : List Nat :=
  ((fails.filter fun w => [1, 3, 4].contains (w.toNat % 8)).map fun w => w.toNat % 4096).eraseDups

/-- BIST_DONE: the failing bits, and how many more were only counted; firmware logs each SRAM instance that failed. Every WRITTEN and FULL bit is cleared. -/
def State.bistDone (s : State) (fails : List Word64) (more : Nat) : State :=
  let n := min (fails.length + more) 0xFFFFFFFF
  let s := s.setWord 0xA108 (BitVec.ofNat 64 ((if n = 0 then 1 else 2) * 4 + 100 * 16 + n * 2048))
  let s := s.lmcUp fun x => { x with fails := (fails.take 4096).map fun w => w ||| BitVec.ofNat 64 (2 ^ 63) }
  let s := s.eccUp fun x => { x with mem := [], gmeta := [], units := [], vcache := [], words := [], rebuilt := [], lostGroups := [] }
  let s := (failedSrams fails).foldl (fun s _ => s.logRecord 0xFFFF 4 0) s
  (s.raise 10 8).debugSync

/-- BIST_DONE. -/
def execBistDone (fails : List Word64) (more : Nat) (s : State) : Out :=
  .next (if s.fld R.BST_STATUS_STATE = 1 then s.bistDone fails more else s)

/-- A read of `BST_FAIL` removes one record. -/
def State.bstFail (s : State) : Word64 × State :=
  match s.lmc.fails with
  | [] => (0, s)
  | w :: t => (w, s.lmcUp fun x => { x with fails := t })

/-- BST_FAIL_READ. -/
def execBstFailRead (src : RegSrc) (s : State) : Out :=
  let (w, s) := s.bstFail
  .next (s.busRead src 0xA110 w)

/-- The repair takes the whole stack out of service (R386, R222). A pseudo-channel it takes out has state RETIRED with no
cause, and goes back to training with the stack. -/
def State.pprStart (s : State) (p : Nat) : State :=
  let n := stackOfPc p
  let ps := (pcsOf n).filter fun k => !s.pcRetired k
  let s := ps.foldl (fun s k => let s := s.discardQueues k
                                s.setPc k { s.pc k with state := 2, cause := 0 }) s
  let s := (s.setStack n 5).lmcUp fun x => { x with ppr := some p }
  s.downCheck

/-- A write of `BST_PPR` with GO. -/
def State.ppr (s : State) (src : RegSrc) (w : Word64) (admin : Bool) : State :=
  let w := w ||| BitVec.ofNat 64 (2 ^ 63)
  match src with
  | .inband => s.refusePath R.BST_PPR_GO src w
  | .core _ =>
    let s := s.storeReg src 0xA118 w
    if s.lc = lcHold ∧ admin ∧ s.lmc.ppr.isNone then s.pprStart (s.fld R.BST_PPR_PC) else s

/-- PPR. -/
def execPpr (src : RegSrc) (w : Word64) (admin : Bool) (s : State) : Out := .next (s.ppr src w admin)

/-- PPR_DONE: 1 OK, 2 NO_SPARE, 3 FAILED; the stack returns to training. -/
def State.pprDone (s : State) (p result : Nat) : State :=
  let n := stackOfPc p
  let s := (pcsOf n).foldl (fun s k =>
    let x := s.pc k
    if x.state = 2 ∧ x.cause = 0 then s.setPc k { x with state := 0 } else s) s
  let s := (if s.allRetired n then s else s.setStack n 0).lmcUp fun x => { x with ppr := none }
  (s.setFld R.BST_PPR_RESULT (if result = 1 ∨ result = 2 then result else 3)).raise 10 9

/-- PPR_DONE. -/
def execPprDone (result : Nat) (s : State) : Out :=
  .next (match s.lmc.ppr with | some p => s.pprDone p result | none => s)

end Sys2Proof.Machine
end

