-- ==== Sys2Proof/Machine/Power.lean ====
section
/-! DEFINITION. Power and start-up (chapter 18, R422): the input, the rails, the power cap, the power states and their exits,
entry into service, and the commands of the PWR page. -/

namespace Sys2Proof.Machine

/-! ### Input and rails (R388, R389, R392, R422, R426) -/

/-- The power-up sequence starts from step 1 of Table 18.4. -/
def State.beginPower (s : State) : State :=
  s.pwrUp fun p => { p with on := true, step1 := s.now }

/-- POWER_UP: the input has reached the operating range. -/
def execPowerUp (s : State) : Out :=
  .next (if s.pwr.on ∨ s.pwr.latched ∨ s.pwr.inputBad ∨ s.pwr.attempts ≠ 0 ∨ !s.pwr.sysclk then s else s.beginPower)

/-- RAIL_POWER_GOOD: the rail of order `r`, all before it being up; rails 1 to 7 need SYSCLK. With the last one the device
reaches step 4. -/
def State.railGood (s : State) (r : Nat) : State :=
  if 8 ≤ r ∨ !s.pwr.on ∨ s.fld R.PWR_RAILS_PGOOD ≠ 2 ^ r - 1 ∨ (r ≠ 0 ∧ !s.pwr.sysclk) then s
  else
    let s := s.setFld R.PWR_RAILS_PGOOD (2 ^ (r + 1) - 1)
    if r = 7 then (s.pwrUp fun p => { p with attempts := 0 }).stepFour else s

/-- RAIL_POWER_GOOD. -/
def execRailPowerGood (rail : Nat) (s : State) : Out := .next (s.railGood rail)

/-- RAIL_TIMEOUT: the rail has not reported power-good; the rails already up go off, and after the third failure the device
stays in OFF. -/
def State.railTimeout (s : State) (r : Nat) : State :=
  if 8 ≤ r ∨ !s.pwr.on ∨ s.fld R.PWR_RAILS_PGOOD ≠ 2 ^ r - 1 then s
  else
    let failed := s.fld R.PWR_RAILS_FAILED
    let n := s.pwr.attempts + 1
    let s := (s.pwrUp fun p => { p with attempts := n, latched := decide (3 ≤ n), faultN := true }).powerOff none
    s.setFld R.PWR_RAILS_FAILED (if failed.testBit r then failed else failed + 2 ^ r)

/-- RAIL_TIMEOUT. -/
def execRailTimeout (rail : Nat) (s : State) : Out := .next (s.railTimeout rail)

/-- RAIL_RETRY: 100 ms after a rail failure the sequence is retried. -/
def execRailRetry (s : State) : Out :=
  .next (if s.pwr.on ∨ s.pwr.attempts = 0 ∨ s.pwr.latched ∨ s.pwr.inputBad then s
    else s.pwrUp fun p => { p with on := true })

/-- INPUT_WARN. -/
def execInputWarn (s : State) : Out :=
  .next (if s.pwr.on then ((s.setFld R.PWR_RAILS_VIN_WARN 1).count R.PWR_COUNTS_INPUT_FAULTS).raise 2 10 else s)

/-- An input fault: every rail goes off and the device enters OFF; FAULT_N is driven. The cause is recorded when the device
was powering up or up. -/
def State.inputLost (s : State) : State :=
  let s := (s.count R.PWR_COUNTS_INPUT_FAULTS).raise 2 10
  let on := s.pwr.on
  (s.pwrUp fun p => { p with faultN := true }).powerOff (if on then some 6 else none)

/-- INPUT_FAULT. The removal of the input releases THERMTRIP_N. -/
def execInputFault (s : State) : Out :=
  .next (if s.pwr.inputBad then s else (s.inputLost).pwrUp fun p => { p with inputBad := true, tripN := false })

/-- INPUT_RESTORE: 100 ms in range again; whatever latched OFF is released, and power-up restarts from step 1. -/
def execInputRestore (s : State) : Out :=
  .next (if s.pwr.inputBad then
    let s := s.pwrUp fun p => { p with inputBad := false, latched := false, attempts := 0 }
    if s.pwr.sysclk then s.beginPower else s
  else s)

/-- SYSCLK_LOSS: as an input fault, with CAUSE 6; at power-up it keeps rails 1 to 7 off. -/
def execSysclkLoss (s : State) : Out :=
  .next (if !s.pwr.sysclk then s
    else (if s.pwr.on then s.inputLost else s).pwrUp fun p => { p with sysclk := false })

/-- SYSCLK_RESTORE: after 100 ms the device powers up again. -/
def execSysclkRestore (s : State) : Out :=
  .next (if s.pwr.sysclk then s
    else
      let s := s.pwrUp fun p => { p with sysclk := true }
      if s.pwr.latched ∨ s.pwr.inputBad then s else s.beginPower)

/-- Every link of a port loses lock: its sub-ports in Ethernet mode, or its ring link. -/
def State.portDown (s : State) (p : Nat) : State :=
  let s := (List.range 4).foldl (fun s k => s.linkChange p k false) s
  if s.linkOn p ∧ (s.link p).st ≠ 0 then s.linkDown p else s

/-- REFCLK_LOSS: REFA clocks ports 0 to 3 and the symbiont link, REFB ports 4 to 7 and the management port (R421). -/
def State.refclkLoss (s : State) (refb : Bool) : State :=
  if refb then
    ([4, 5, 6, 7].foldl (fun s p => s.portDown p) s).lmcUp fun x => { x with tls := [] }
  else
    let s := [0, 1, 2, 3].foldl (fun s p => s.portDown p) s
    if s.linkOn 8 ∧ (s.link 8).st ≠ 0 then s.linkDown 8 else s

/-- REFCLK_LOSS. -/
def execRefclkLoss (refb : Bool) (s : State) : Out := .next (s.refclkLoss refb)

/-! ### The power cap (R390) -/

/-- POWER_CAP_EVAL: the average of the last ten input power samples moves the throttle level. -/
def State.capEval (s : State) : State :=
  let sum := s.thm.pin.sum
  let n := s.thm.pin.length
  let cap := s.fld R.PWR_CFG_CAP_W
  let over_ := decide (cap * 10 * n < sum)
  let under := decide (sum < (cap - s.fld R.PWR_CFG_CAP_HYST_W) * 10 * n)
  let l := s.fld R.PWR_STATUS_LEVEL
  let at7 := if l = 7 ∧ over_ then s.pwr.at7 + 1 else 0
  let next := if s.thm.critical then 8
    else if l = 8 then (if under then 7 else 8)
    else if over_ then (if l = 7 then (if 10 ≤ at7 then 8 else 7) else l + 1)
    else if under then l - 1
    else l
  let s := (s.pwrUp fun p => { p with at7 := at7 }).setLevel next
  if next = 0 then s else s.count R.PWR_COUNTS_CAP_MS

/-- POWER_CAP_EVAL. -/
def execPowerCapEval (s : State) : Out := .next (if s.powered then s.capEval else s)

/-! ### Leaving the power states (R395) -/

/-- CK_FT cycles of DEEP's exit latency (Table 18.3). -/
def deepExitTime : Nat := 1500 * usCycles

/-- The exit from DEEP begins: every stack starts its exit, and the device serves again 1.5 ms later. -/
def State.startDeepExit (s : State) : State :=
  if !s.deep ∨ s.pwr.deepExit.isSome then s
  else
    let s := (List.range 8).foldl (fun s n => if s.stackSt n = 3 then s.napExit n else s) s
    s.pwrUp fun p => { p with deepExit := some (s.now + deepExitTime) }

/-- DEEP_EXIT_START. -/
def execDeepExitStart (s : State) : Out := .next s.startDeepExit

/-- DEEP_EXIT_COMPLETE: fronds are powered, and every stack has completed its exit. -/
def State.deepExitDone (s : State) : State :=
  match s.pwr.deepExit with
  | none => s
  | some t =>
    if (List.range 8).any fun n => s.stackSt n = 3 ∨ s.stackSt n = 4 then s
    else
      let s := (s.toTime t).pwrUp fun p => { p with deepExit := none, callAt := max s.now t }
      ((s.setFld R.PWR_STATUS_DEEP 0).setFld R.PWR_STATUS_GATED 0).raise 2 9

/-- WAKE leaves FROND_GATED, STACK_NAP and DEEP. -/
def State.wake (s : State) : State :=
  if s.deep then s.startDeepExit
  else (List.range 8).foldl (fun s n => s.demandStack n) s.frondWake

/-! ### Entry into service (R398, R399) -/

/-- The hardware conditions of R398, and a part that may enter service at all (R383). -/
def State.canServe (s : State) : Bool :=
  s.powered && !s.lmc.inRecovery && s.lc ≠ lcScrapped && s.fld R.FTM_REBASE_PL_LAT ≠ 0 && s.pwr.cleared &&
    (List.range 8).all fun n => s.stackSt n = 5 || (s.stackSt n ≠ 0 && s.released n)

/-- READY is raised, and debug access is no longer closed by start-up. -/
def State.enterService (s : State) : State :=
  if s.inService then s
  else (((s.setFld R.PWR_STATUS_PHASE 4).setFld R.PWR_STATUS_READY 1).raise 2 11).debugSync

/-! ### Writes of PWR_CTRL (R402) -/

/-- A write of `PWR_CTRL` by a core acts; from the in-band path it stores nothing and is a clamp. -/
def State.pwrCtrl (s : State) (src : RegSrc) (w : Word64) : State :=
  match src with
  | .inband => s.refusePath R.PWR_CTRL_HANDOVER src w
  | .core _ =>
    let s := s.storeReg src 0x2110 w
    let bad := fun (s : State) (f : Fd) (k : Nat) => recordClamp s 2 (fieldNo f) k (srcCode src) w (s.word 0x2110)
    let s := if w.getLsbD 0 then (if s.canServe then s.enterService else bad s R.PWR_CTRL_SERVICE kState) else s
    let s := if w.getLsbD 2 then s.wake else s
    if w.getLsbD 63 then
      if s.fld R.PWR_CTRL_KEY ≠ 0xA5C3 then bad s R.PWR_CTRL_RESET kValue
      else if s.fld R.PWR_CTRL_HANDOVER = 1 then s.resetAfterHandover 1
      else s.fullReset 1
    else s

/-- SERVICE: a write of `PWR_CTRL` with SERVICE. -/
def execService (src : RegSrc) (s : State) : Out :=
  .next (s.pwrCtrl src (BitVec.ofNat 64 (1 + 2 * s.fld R.PWR_CTRL_HANDOVER + 8 * s.fld R.PWR_CTRL_KEY)))

/-- WAKE: a write of `PWR_CTRL` with WAKE. -/
def execWake (src : RegSrc) (s : State) : Out :=
  .next (s.pwrCtrl src (BitVec.ofNat 64 (4 + 2 * s.fld R.PWR_CTRL_HANDOVER + 8 * s.fld R.PWR_CTRL_KEY)))

/-- RESET: a write of `PWR_CTRL` with RESET. -/
def execReset (src : RegSrc) (w : Word64) (s : State) : Out :=
  .next (s.pwrCtrl src (w ||| BitVec.ofNat 64 (2 ^ 63)))

/-- A write of `PWR_BOOT`: stacks are released, and with the last one the frame timer starts (R398). -/
def State.bootWrite (s : State) (src : RegSrc) (w : Word64) : State :=
  let s := s.storeReg src 0x2118 w
  if s.fld R.PWR_STATUS_PHASE < 2 then s else s.startFrames

/-- STACKS_OK. -/
def execStacksOk (src : RegSrc) (w : Word64) (s : State) : Out := .next (s.bootWrite src w)

/-- PAIR_WAIT_TIMEOUT: no PAIR_HELLO within PAIR_WAIT_MS of step 8; PAIR_LOST, and service without a set (R399). -/
def State.pairWait (s : State) : State :=
  match s.pwr.step8 with
  | none => s
  | some t =>
    if !s.paired ∨ s.par.hello.isSome ∨ s.inService then s
    else
      let s := (s.toTime (t + s.fld R.PWR_CFG2_PAIR_WAIT_MS * msCycles)).raise 26 10
      if s.canServe then s.enterService else s

/-- PAIR_WAIT_TIMEOUT. -/
def execPairWaitTimeout (s : State) : Out := .next s.pairWait

end Sys2Proof.Machine
end

