-- ==== Sys2Proof/Machine/RegRead.lean ====
section
/-! DEFINITION. What a register read returns (R405, R406, R409): the words in force, with the fields that show other parts of
the state, and what a read clears or removes. -/

namespace Sys2Proof.Machine

/-! ### Fields that show other parts of the state -/

/-- The low bit of a number shows a truth value. -/
def showBool (b : Bool) : Nat := if b then 1 else 0

/-- Held writes of a page await APPLY (`PG_STATUS.PENDING`). -/
def State.pagePending (s : State) (p : Nat) : Bool := s.held.any fun e => pageOf e.1 = p

/-- Event lines of 64 pages. -/
def State.evtSum (s : State) (j : Nat) : Nat :=
  ((List.range 64).map fun i => if (pageInfo (64 * j + i)).isSome && s.evtLine (64 * j + i) then 2 ^ i else 0).sum

/-- 64 sources that satisfy `p`, as a word. -/
def sourceBits (p : Nat → Bool) (j : Nat) : Nat := ((List.range 64).map fun i => if p (64 * j + i) then 2 ^ i else 0).sum

/-- Logical frond `l`'s physical frond, 127 without one. -/
def State.physOf (s : State) (l : Nat) : Nat := ((List.range 65).find? fun p => (s.phys p).logical = l).getD 127

/-- The smallest wake budget in force, in µs, over the states that affect some tenant (R393). -/
def leastBudget (l : List (Option Nat)) : Option Nat :=
  l.foldl (fun a b => match a, b with
    | none, x => x
    | some x, none => some x
    | some x, some y => some (min x y)) none

/-- The window of the current frame: frames left, its extensions included. Once its call has completed, the window lasts
until the next boundary (R9). -/
def State.framesLeft (s : State) : Option Nat :=
  match s.ftm.windows.find? fun w => w.first ≤ s.frame && s.frame < w.first + w.frames with
  | some w => some (w.first + w.frames - s.frame)
  | none => s.ftm.lent.map fun _ => 1

/-- Fields of pages 0 to 10 that show other parts. -/
def State.showsLow (s : State) (off : Nat) : List (Fd × Nat) :=
  if off = 0x110 then [(R.GLB_STATUS_PENDING_PAGES, ((List.range 58).filter s.pagePending).length)]
  else if 0x200 ≤ off ∧ off < 0x240 then [(R.GLB_EVT_SUM_LINES, s.evtSum ((off - 0x200) / 8))]
  else if off = 0x2120 then
    [(R.PWR_STATUS_NAP_STACKS, ((List.range 8).map fun n => if s.stackSt n = 3 then 2 ^ n else 0).sum)]
  else if 0x4400 ≤ off ∧ off < 0x4480 then [(R.EVC_PEND_BITS, sourceBits s.evcPending ((off - 0x4400) / 8))]
  else if 0x4480 ≤ off ∧ off < 0x4500 then [(R.EVC_ACT_BITS, sourceBits s.evcActive ((off - 0x4480) / 8))]
  else if off = 0x9190 then
    (List.range 8).map fun n => (R.THM_STACK_STACK.up (8 * n), min 127 (mgetD s.ftm.temps n 0))
  else []

/-- An applied change of FTM0 or FTM1 awaits its boundary (R46). -/
def State.applyWaits (s : State) : Bool := s.ftm.applyPending || s.ftm.due.isSome

/-- Fields of the SEC, FTM, SEQ, SLB and FRD pages that show other parts. -/
def State.showsPlane (s : State) (off : Nat) : List (Fd × Nat) :=
  if off = 0xB108 then
    [(R.SEC_STATUS_DEBUG, s.sec.debug), (R.SEC_STATUS_CLOSE_CAUSE, s.closeCauses),
      (R.SEC_STATUS_SESSIONS, s.sec.sessions.length),
      (R.SEC_STATUS_REKEYING, showBool (s.sec.tenants.any fun t => t.2.sweep.isSome))]
  else if 0xB400 ≤ off ∧ off < 0xB800 ∧ off % 16 = 8 then
    let t := (off - 0xB400) / 16
    let x := s.tenant t
    [(R.SEC_TSTAT_STATE, x.st), (R.SEC_TSTAT_CUR_GEN, x.curGen), (R.SEC_TSTAT_PREV_VALID, showBool x.prev.isSome),
      (R.SEC_TSTAT_SWEEP, showBool x.sweep.isSome), (R.SEC_TSTAT_CONSENTS, s.consentsOf t),
      (R.SEC_TSTAT_ROTATIONS, x.rotations), (R.SEC_TSTAT_RETIRE_RESULT, x.retireResult)]
  else if off = 0xD120 then
    [(R.FTM_STATUS_APPLY_PENDING, showBool s.applyWaits), (R.FTM_STATUS_IN_WINDOW, showBool s.framesLeft.isSome),
      (R.FTM_STATUS_FRAMES_LEFT, min 65535 (s.framesLeft.getD 0))]
  else if off = 0x10108 then
    let run := s.seq.run.bind fun r => s.seq.calls.find? fun c => c.key = r.key
    [(R.SEQ_STATUS_RUNNING, showBool s.seq.run.isSome), (R.SEQ_STATUS_TENANT, (run.map (·.tenant)).getD 0),
      (R.SEQ_STATUS_QUEUED, s.queuedCalls.length),
      (R.SEQ_STATUS_LOCKED, (s.queuedCalls.filter fun c => c.locked).length), (R.SEQ_STATUS_PAGES_FREE, 512 - s.allPages)]
  else if 0x10400 ≤ off ∧ off < 0x10800 ∧ off % 16 = 8 then
    let t := (off - 0x10400) / 16
    [(R.SEQ_TSTAT_QUEUED, (s.queuedCalls.filter fun c => c.tenant = t).length),
      (R.SEQ_TSTAT_ALIVE, mgetD s.seq.alive t 0), (R.SEQ_TSTAT_PAGES_USED, s.planPages t)]
  else if off = 0x11100 then
    match s.seq.run with
    | some r => [(R.SLB_STATUS_LEAD, r.lead), (R.SLB_STATUS_LEAD_START, r.leadStart),
        (R.SLB_STATUS_TAGS_PENDING, (r.tags.filter fun t => t.2 ≠ 0).length)]
    | none => []
  else if off = 0x12100 then
    [(R.FRD_STATUS_AVAILABLE, s.available), (R.FRD_STATUS_SPARE_FREE, showBool ((List.range 65).any fun p => (s.phys p).st = 1)),
      (R.FRD_STATUS_RETIRE_PENDING, showBool ((List.range 65).any fun p => (s.phys p).st = 2))]
  else if 0x12200 ≤ off ∧ off ≤ 0x12400 then
    let x := s.phys ((off - 0x12200) / 8)
    [(R.FRD_PHYS_STATE, x.st), (R.FRD_PHYS_LOGICAL, x.logical), (R.FRD_PHYS_CE, x.ce), (R.FRD_PHYS_UE, x.ue)]
  else if 0x12500 ≤ off ∧ off < 0x12540 then
    (List.range 8).map fun i => (R.FRD_MAP_PHYS.up (8 * i), s.physOf (off - 0x12500 + i))
  else []

/-- The oldest record of DIR_REVOKED (Table 7.11). -/
def State.dirRevokedWord (s : State) : Word64 :=
  match s.dir.revoked with
  | [] => 0
  | (a, t, c) :: _ => BitVec.ofNat 64 (a + t * 2 ^ 12 + c * 2 ^ 18 + 2 ^ 63)

/-- A fault queue as its status register shows it, without its overflow's flag. -/
def FaultQ.shows (q : FaultQ) : Nat := q.entries.length + bit01 q.lost (2 ^ 11) + q.overflow * 2 ^ 12

/-- Fields of the XLT, ACC, DIR, PFX and SYN pages that show other parts. -/
def State.showsAccess (s : State) (off : Nat) : List (Fd × Nat) :=
  let word := fun (n : Nat) => [((⟨off, 0, 64, .ro, 0, 0, 0, none⟩ : Fd), n)]
  if off = 0x13130 then [(R.XLT_INVAL_STATUS_IN_PROGRESS, s.xlt.invals.length)]
  else if off = 0x13138 then word s.revokeDoneWord.toNat
  else if off = 0x13140 then word s.xlt.mfq.shows
  else if 0x13150 ≤ off ∧ off < 0x13170 then
    word (match s.xlt.mfq.entries with | e :: _ => e.words.getD ((off - 0x13150) / 8) 0 | [] => 0)
  else if 0x13800 ≤ off ∧ off < 0x13A00 then word (s.fq ((off - 0x13800) / 8)).shows
  else if off = 0x14118 then [(R.ACC_REPLAY_IN_USE, s.acc.replay.length)]
  else if off = 0x14120 then
    [(R.ACC_CUSH_VALID, s.acc.lines.length), (R.ACC_CUSH_PINNED, (s.acc.lines.filter fun l => l.pinned).length)]
  else if 0x14400 ≤ off ∧ off < 0x14800 ∧ off % 16 = 8 then
    [(R.ACC_TSTAT_PINNED_MIB, ceilDiv (s.pinnedUnits ((off - 0x14400) / 16)) 16)]
  else if off = 0x15108 then
    [(R.DIR_STATUS_VALID, s.dir.entries.length), (R.DIR_STATUS_OPEN, s.dir.txns.length),
      (R.DIR_STATUS_MEMBERS, (s.dir.members.filter fun m => m.1 < 4096 && m.2.state = 0).length),
      (R.DIR_STATUS_SWEEP, showBool (s.dir.members.any fun m => m.2.state = 1))]
  else if off = 0x15120 then word s.dirRevokedWord.toNat
  else if 0x15400 ≤ off ∧ off < 0x15800 ∧ off % 16 = 8 then
    [(R.DIR_TSTAT_ENTRIES, (s.dir.entries.filter fun d => d.tenant = (off - 0x15400) / 16).length)]
  else if off = 0x16108 then [(R.PFX_STATUS_ENTRIES, s.pfx.entries.length), (R.PFX_STATUS_PINS, s.heldPins.length)]
  else if 0x16200 ≤ off ∧ off < 0x16A00 then
    let a := (off - 0x16200) / 8
    (match s.extent (s.arenaIndex a) with
    | some e => if s.fld (R.PFX_ARENA_VALID.at (8 * a)) = 1 then [(R.PFX_ARENA_TENANT, e.tenant)] else []
    | none => [])
  else if 0x16A00 ≤ off ∧ off < 0x16E00 ∧ off % 16 = 8 then
    let t := (off - 0x16A00) / 16
    [(R.PFX_TSTAT_ENTRIES, (s.pfx.entries.filter fun e => e.tenant = t).length), (R.PFX_TSTAT_PINS, s.pinsOf t)]
  else if off = 0x17100 then
    [(R.SYN_STATUS_WAITERS, s.ownWaiters.length), (R.SYN_STATUS_FAULTED, (s.syn.objs.filter fun o => o.2.faulted).length)]
  else if 0x17400 ≤ off ∧ off < 0x17800 ∧ off % 16 = 8 then
    [(R.SYN_TSTAT_WAITERS, (s.ownWaiters.filter fun w => w.req.tenant = (off - 0x17400) / 16).length)]
  else []

/-- The longest of some minutes over the pseudo-channels. -/
def longestOf (m : NMap Nat) : Nat := min 65535 (m.foldl (fun a e => max a e.2) 0)

/-- Fields of the ECC and SMC pages that show other parts. -/
def State.showsStack (s : State) (off : Nat) : List (Fd × Nat) :=
  let word := fun (n : Nat) => [((⟨off, 0, 64, .ro, 0, 0, 0, none⟩ : Fd), n)]
  if off = 0x18110 then
    [(R.ECC_STATUS_WRITTEN_UNITS, s.ecc.units.length),
      (R.ECC_STATUS_FULL_UNITS, (s.ecc.units.filter fun u => u.2).length),
      (R.ECC_STATUS_REBUILDING, showBool s.ecc.rebuild.isSome)]
  else if off = 0x18118 then [(R.ECC_VCACHE_ENTRIES, s.ecc.vcache.length)]
  else if off = 0x18130 then
    [(R.ECC_LAP_SCRUB_MIN, longestOf s.ecc.lap), (R.ECC_LAP_FALLBACK_MIN, longestOf s.ecc.lapFb),
      (R.ECC_LAP_FALLBACK_PCS, ((List.range 512).filter s.onFallback).length)]
  else if off = 0x18138 then
    [(R.ECC_REBUILD_ROWS_LEFT, s.ecc.rowsLeft), (R.ECC_REBUILD_GROUPS_LOST, min 0xFFFFFFFF s.ecc.groupsLost)]
  else if off = 0x18148 then
    let p := s.fld R.ECC_PC_SEL_PC
    let fb := s.onFallback p
    [(R.ECC_PC_DATA_CE, mgetD s.ecc.ce p 0), (R.ECC_PC_DATA_UE, mgetD s.ecc.ue p 0),
      (R.ECC_PC_DATA_HARD, mgetD s.ecc.hard p 0), (R.ECC_PC_DATA_REMAP_USED, s.remapUsed p),
      (R.ECC_PC_DATA_LAP_MIN, mgetD s.ecc.lap p (mgetD s.ecc.lapFb p 0)),
      (R.ECC_PC_DATA_FALLBACK, showBool fb)]
  else if off = 0x18150 then word s.remapLogWord.toNat
  else if 0x20000 ≤ off ∧ off < 0x28000 then
    let n := off / 0x1000 - 32
    let o := off % 0x1000
    if o = 0x108 then
      [(R.SMC_STATUS_STATE, s.stackSt n), (R.SMC_STATUS_TEMP_C, min 127 (mgetD s.ftm.temps n 0)),
        (R.SMC_STATUS_RETIRED_PCS, ((pcsOf n).filter s.pcRetired).length),
        (R.SMC_STATUS_TRAIN_MS, s.smc.trainMs.getD n 0)]
    else if 0x200 ≤ o ∧ o < 0x400 then
      let x := s.pc (64 * n + (o - 0x200) / 8)
      [(R.SMC_PC_STATE, x.state), (R.SMC_PC_RD_LAT, x.rdLat), (R.SMC_PC_CAL_FAULTS, x.calFaults), (R.SMC_PC_CAUSE, x.cause),
        (R.SMC_PC_WQ_MAX, x.wqMax)]
    else []
  else []

/-- Frames since a set's renewal or acceptance. -/
def State.leaseAge (s : State) (k : Nat) : Nat := if (s.pset k).st = 0 then 0 else min 31 (s.frame - (s.pset k).renewal)

/-- Fields of the PAR, RTE, QOS, PRT and LNK pages that show other parts. -/
def State.showsNet (s : State) (off : Nat) : List (Fd × Nat) :=
  if off = 0x1A100 then [(R.PAR_CFG_SIDE, s.side)]
  else if off = 0x1A118 then
    [(R.PAR_STATUS_STATE0, s.par.set0.st), (R.PAR_STATUS_STATE1, s.par.set1.st), (R.PAR_STATUS_PATH, showBool s.par.alt),
      (R.PAR_STATUS_LINKED, showBool (s.par.formed && (s.symbiontUp || s.par.alt)))]
  else if off = 0x1A120 then [(R.PAR_TERM_TERM0, s.par.set0.term), (R.PAR_TERM_TERM1, s.par.set1.term)]
  else if off = 0x1A128 then [(R.PAR_LEASE_AGE0, s.leaseAge 0), (R.PAR_LEASE_AGE1, s.leaseAge 1)]
  else if off = 0x1A140 then [(R.PAR_RESYNC_BYTES_LEFT, 64 * (s.par.resync.map fun e => e.2.length).sum)]
  else if off = 0x1B108 then
    let nx := s.fld R.RTE_DIM_NX
    [(R.RTE_DIM_X, s.devIndex % nx), (R.RTE_DIM_Y, s.devIndex / nx)]
  else if off = 0x1B120 then [(R.RTE_REASM_IN_USE, s.net.reasm.length)]
  else if 0x1B200 ≤ off ∧ off < 0x1B280 then
    (List.range 16).map fun i => (R.RTE_LSDB_LS.up (4 * i), mgetD s.net.lsdb (16 * ((off - 0x1B200) / 8) + i) 0)
  else if off = 0x1C108 then
    let all_ := (List.range 8).flatMap fun p => (List.range 4).map fun k => s.egressIn p k fun _ => true
    [(R.QOS_STATUS_IN_PROG, min 4160 s.progAll), (R.QOS_STATUS_IN_KIB, min 524287 (ceilDiv all_.sum 1024))]
  else if 0x1C180 ≤ off ∧ off < 0x1C200 then
    [(R.QOS_HIST_COUNT, mgetD s.qos.hist (s.fld R.QOS_HSEL_QUEUE * 32 + s.fld R.QOS_HSEL_KIND * 16 + (off - 0x1C180) / 8) 0)]
  else if off = 0x30110 then [(R.PRT_CONNS_IPT_OPEN, s.prt.conns.length), (R.PRT_CONNS_QP_OPEN, s.prt.qps.length)]
  else if off = 0x30120 then
    let h := s.fld R.PRT_HSEL_HOLDER
    [(R.PRT_HCFG_OPEN, (s.prt.conns.filter fun c => c.2.holder = h).length + (s.prt.qps.filter fun q => q.2.holder = h).length)]
  else if 0x31000 ≤ off ∧ off < 0x3A000 then
    let n := off / 0x1000 - 49
    if off % 0x1000 = 0x110 then [(R.LNK_STATUS_STATE, (s.link n).st)]
    else if off % 0x1000 = 0x118 then [(R.LNK_STATION_STATION, (Config.station n).toNat)]
    else []
  else []

/-- Every field at an offset that shows another part of the state, with what it shows. -/
def State.shows (s : State) (off : Nat) : List (Fd × Nat) :=
  let p := pageOf off
  if off % 0x1000 = 0x018 ∧ (pageInfo p).isSome then
    [(R.PG_STATUS_PENDING, showBool (s.pagePending p)),
      (R.PG_STATUS_WAITING, showBool (s.applyWaits && (p = 13 || p = 14)))]
  else if p ≤ 10 then s.showsLow off
  else if p ≤ 18 then s.showsPlane off
  else if p ≤ 23 then s.showsAccess off
  else if p ≤ 25 ∨ (32 ≤ p ∧ p < 40) then s.showsStack off
  else s.showsNet off

/-- WO bits of a register, which read 0 (R409). -/
def woMask (r : Rg) : Nat := coverMask (r.fields.filter fun f => f.acc = .wo)

/-- The word that a read of an offset returns. -/
def State.readWord (s : State) (off : Nat) : Word64 :=
  match findReg off with
  | none => 0
  | some r =>
    let w := (s.shows off).foldl (fun w e => setBitsOf w e.1.lsb e.1.w e.2) (s.getWord off).toNat
    BitVec.ofNat 64 (w - (w &&& woMask r))

/-! ### What a read clears -/

/-- RC fields of a register become 0 (R409). -/
def State.clearRc (s : State) (r : Rg) (off : Nat) : State :=
  let m := coverMask (r.fields.filter fun f => f.acc = .rc)
  if m = 0 then s else s.setWord off (s.word off &&& ~~~ BitVec.ofNat 64 m)

/-- A read's effect: records and counts that the read removes, and RC fields. -/
def State.afterRead (s : State) (off : Nat) : State :=
  if off = 0x13138 then s.xltUp fun x => { x with revokeDone := x.revokeDone.drop 1 }
  else if off = 0x15120 then s.dirUp fun x => { x with revoked := x.revoked.drop 1 }
  else if off = 0x18150 then s.eccUp fun x => { x with remapLog := x.remapLog.drop 1 }
  else if 0x1C180 ≤ off ∧ off < 0x1C200 then
    s.qosUp fun q => { q with
      hist := mdel q.hist (s.fld R.QOS_HSEL_QUEUE * 32 + s.fld R.QOS_HSEL_KIND * 16 + (off - 0x1C180) / 8) }
  else if 0x20000 ≤ off ∧ off < 0x28000 ∧ 0x200 ≤ off % 0x1000 ∧ off % 0x1000 < 0x400 then
    let p := 64 * (off / 0x1000 - 32) + (off % 0x1000 - 0x200) / 8
    if (s.pc p).wqMax = 0 then s else s.setPc p { s.pc p with wqMax := 0 }
  else match findReg off with
    | some r => s.clearRc r off
    | none => s

/-- One register read: the word, and the state after it. `EVC_CLAIM_c` and `BST_FAIL` choose what they return. -/
def State.regRead (s : State) (off : Nat) : Word64 × State :=
  if 0x4208 ≤ off ∧ off < 0x4280 ∧ off % 0x20 = 8 then s.claim ((off - 0x4208) / 0x20)
  else if off = 0xA110 then s.bstFail
  else (s.readWord off, s.afterRead off)

/-- A read by a core or the in-band path. -/
def State.readBy (s : State) (src : RegSrc) (off : Nat) : State :=
  let (w, s) := s.regRead off
  s.busRead src off w

/-- An offset that an access may name: a multiple of 8 within the window (R403). -/
def offsetOk (off : Nat) : Bool := off < 0x1000000 && off % 8 = 0

/-- REGISTER_READ. A core's access at any other offset takes an access fault and touches nothing. -/
def execRegisterRead (src : RegSrc) (off : Nat) (s : State) : Out :=
  .next (if offsetOk off then s.readBy src off
    else match src with
      | .core n => s.emit (.accessFault (n % 4) (0x40000000 + off))
      | .inband => s)

/-- DIR_REVOKED_READ. -/
def execDirRevokedRead (src : RegSrc) (s : State) : Out := .next (s.readBy src 0x15120)

/-- XLT_REVOKE_DONE_READ. -/
def execXltRevokeDoneRead (src : RegSrc) (s : State) : Out := .next (s.readBy src 0x13138)

/-- ECC_REMAP_LOG_READ. -/
def execEccRemapLogRead (src : RegSrc) (s : State) : Out := .next (s.readBy src 0x18150)

end Sys2Proof.Machine
end

