-- ==== Sys2Proof/Machine/RegRules.lean ====
section
/-! DEFINITION. APPLY and DISCARD of a page (R412 to R414): the cross-field and state rules of every chapter, the
installation of the held fields, and what the new values set off. -/

namespace Sys2Proof.Machine

/-! ### Adjusting the held copy -/

/-- A rule at APPLY changes a held field; the record names the held word before and after (R411, R412). -/
def State.adjust (s : State) (f : Fd) (v kind : Nat) : State :=
  if s.heldFld f = v then s
  else
    let before := s.heldWord f.off
    let s := s.setHeldFld f v
    recordClamp s (pageOf f.off) (fieldNo f) kind srcApply before (s.heldWord f.off)

/-- A rule at APPLY puts a field back to its value in force. -/
def State.keep (s : State) (f : Fd) (kind : Nat) : State := s.adjust f (s.fld f) kind

/-- The held value of a field differs from the one in force. -/
def State.changes (s : State) (f : Fd) : Bool := s.heldFld f ≠ s.fld f

/-- Two ranges, each a start and a length, share a number. -/
def rangesMeet (a n b m : Nat) : Bool := a < b + m && b < a + n && n ≠ 0 && m ≠ 0

/-- Apply `f` for 0 to `n - 1` in order. -/
def State.times (s : State) (n : Nat) (f : State → Nat → State) : State := (List.range n).foldl f s

/-! ### FTM0: templates and their selection (R44) -/

/-- The held slot types of a template. -/
def State.heldSlots (s : State) (k : Nat) : List Nat :=
  (List.range 128).map fun i => s.heldFld ((R.FTM_TPL_S_SLOT.at (0x80 * k + 8 * (i / 16))).up (4 * (i % 16)))

/-- The slot types of a template in force. -/
def State.forceSlots (s : State) (k : Nat) : List Nat :=
  (List.range 128).map fun i => s.fld ((R.FTM_TPL_S_SLOT.at (0x80 * k + 8 * (i / 16))).up (4 * (i % 16)))

/-- Slot types (Table 3.2). -/
def slotAccess : Nat := 0
def slotPlanned : Nat := 1
def slotScrub : Nat := 2
def slotCal : Nat := 3
def slotRefresh : Nat := 4
def slotGuard : Nat := 5

/-- None of the six slots after slot `i` is PLANNED. -/
def sixClear (l : List Nat) (i : Nat) : Bool :=
  (List.range 6).all fun k => l.getD ((i + 1 + k) % 128) 0 ≠ slotPlanned

/-- A template keeps rule `n` of Table 3.3. -/
def templateRule (l : List Nat) (hot n : Nat) : Bool :=
  match n with
  | 1 => l.getD 127 0 = slotGuard
  | 2 => l.count slotRefresh = 1
  | 3 => l.contains slotCal
  | 4 => l.count slotPlanned ≤ 96
  | 5 => (List.range 128).all fun i =>
      l.getD i 0 ≠ slotPlanned || l.getD ((i + 127) % 128) 0 = slotPlanned || l.getD ((i + 127) % 128) 0 = slotGuard
  | 6 => (List.range 128).all fun i => l.getD i 0 ≠ slotRefresh || sixClear l i
  | _ => (l.getD hot 0 = slotAccess || l.getD hot 0 = slotScrub) && sixClear l hot

/-- The first rule of Table 3.3 that a template breaks, 0 when it keeps all seven. -/
def failRule (l : List Nat) (hot : Nat) : Nat := (([1, 2, 3, 4, 5, 6, 7].find? fun n => !templateRule l hot n)).getD 0

/-- The field that selects the template of a pseudo-channel. -/
def pcselFd (p : Nat) : Fd := (R.FTM_PCSEL_TPL.at (8 * (p / 16))).up (4 * (p % 16))

/-- Some pseudo-channel selects the template in the held copy. -/
def State.heldSelected (s : State) (k : Nat) : Bool := (List.range 512).any fun p => s.heldFld (pcselFd p) = k

/-- A template keeps the slot types, HOT_SLOT and VALID in force, and their held values go. -/
def State.keepTemplate (s : State) (k : Nat) : State :=
  let cfg := R.FTM_TPL_CFG_VALID.at (0x80 * k)
  let hot := R.FTM_TPL_CFG_HOT_SLOT.at (0x80 * k)
  let s : State := { s with held := s.held.filter fun e => !(0xD200 + 0x80 * k ≤ e.1 && e.1 < 0xD240 + 0x80 * k) }
  (s.setHeldFld hot (s.fld hot)).setHeldFld cfg (s.fld cfg)

/-- R44 on one template. -/
def State.checkTemplate (s : State) (k : Nat) : State :=
  let cfg := R.FTM_TPL_CFG_VALID.at (0x80 * k)
  if s.heldFld cfg ≠ 1 then s
  else
    let hot := R.FTM_TPL_CFG_HOT_SLOT.at (0x80 * k)
    let n := failRule (s.heldSlots k) (s.heldFld hot)
    let s := s.setFld (R.FTM_TPL_CFG_FAIL_RULE.at (0x80 * k)) n
    if n = 0 then s
    else if s.heldSelected k then
      let before := s.heldWord cfg.off
      let s := s.keepTemplate k
      recordClamp s 13 (fieldNo cfg) kCross srcApply before (s.heldWord cfg.off)
    else s.adjust cfg 0 kCross

/-- A pseudo-channel cannot select a template with VALID 0: the current selection is stored, and the clamp recorded
(Table 3.10). -/
def State.checkSelection (s : State) (p : Nat) : State :=
  let f := pcselFd p
  if s.heldFld (R.FTM_TPL_CFG_VALID.at (0x80 * s.heldFld f)) = 1 then s
  else
    let before := s.heldWord f.off
    let s := s.setHeldFld f (s.fld f)
    recordClamp s (pageOf f.off) (fieldNo f) kCross srcApply before (s.heldWord f.off)

/-- The selection rules of an APPLY. DESIGN CHOICE (entry 66): a template that is selected so although its held VALID is 0
keeps its contents and its VALID in force, as R44's second case has it, since a template with VALID 0 is never selected. -/
def State.checkSelections (s : State) : State :=
  (s.times 512 fun s q => s.checkSelection q).times 16 fun s k =>
    if s.heldFld (R.FTM_TPL_CFG_VALID.at (0x80 * k)) ≠ 1 && s.heldSelected k then s.keepTemplate k else s

/-- The longest cyclic run of slots that are not PLANNED, at most 127. -/
def maxGap (l : List Nat) : Nat :=
  min 127 ((l ++ l).foldl (fun (a : Nat × Nat) x =>
    if x = slotPlanned then (0, a.2) else (a.1 + 1, max a.2 (min 128 (a.1 + 1)))) (0, 0)).2

/-- PLANNED and MAX_GAP of a template, computed on APPLY (R44). DESIGN CHOICE (entry 66): a template with VALID 0 that holds
more than 96 PLANNED slots shows 96. -/
def State.templateStats (s : State) (k : Nat) : State :=
  let l := s.forceSlots k
  (s.setFld (R.FTM_TPL_CFG_PLANNED.at (0x80 * k)) (min 96 (l.count slotPlanned))).setFld
    (R.FTM_TPL_CFG_MAX_GAP.at (0x80 * k)) (maxGap l)

/-! ### The rules of the other pages -/

/-- XLT: a tag of a lower-numbered tenant stores 0 (Table 2.14). -/
def State.rulesXlt (s : State) : State :=
  s.times 64 fun s t =>
    let f := fun (t : Nat) => R.XLT_TCFG_TAG.at (0x10 * t)
    if s.heldFld (f t) ≠ 0 ∧ (List.range t).any (fun u => s.heldFld (f u) = s.heldFld (f t)) then s.adjust (f t) 0 kCross else s

/-- SEQ (R120). -/
def State.rulesSeq (s : State) : State :=
  s.times 64 fun s t =>
    let base := fun (s : State) (t : Nat) => s.heldFld (R.SEQ_TCALL_PLAN_BASE.at (0x10 * t))
    let count := fun (s : State) (t : Nat) => s.heldFld (R.SEQ_TCALL_PLAN_COUNT.at (0x10 * t))
    let f := R.SEQ_TCALL_PLAN_COUNT.at (0x10 * t)
    let s := if 1024 < base s t + count s t then s.adjust f (1024 - base s t) kCross else s
    if (List.range t).any (fun u => rangesMeet (base s u) (count s u) (base s t) (count s t)) then s.adjust f 0 kCross else s

/-- Ways in a mask. -/
def waysIn (m : Nat) : Nat := ((List.range 16).filter m.testBit).length

/-- A way mask loses the ways that lower-numbered tenants hold. -/
def State.trimWays (s : State) (f : Nat → Fd) (t : Nat) : State :=
  let lower := (List.range t).foldl (fun m u => m ||| s.heldFld (f u)) 0
  s.adjust (f t) (s.heldFld (f t) - (s.heldFld (f t) &&& lower)) kCross

/-- ACC (R147), under the mode that the applied `FTM_CTRL.MODE` will bring. -/
def State.rulesAcc (s : State) : State :=
  let quota := fun (t : Nat) => R.ACC_TCUSH_PIN_QUOTA_MIB.at (0x10 * t)
  let mask := fun (t : Nat) => R.ACC_TCUSH_WAY_MASK.at (0x10 * t)
  if s.fld R.FTM_CTRL_MODE = 1 then
    s.times 64 fun s t =>
      let s := s.trimWays mask t
      s.adjust (quota t) (min (s.heldFld (quota t)) (64 * (waysIn (s.heldFld (mask t)) - 1))) kCross
  else
    s.times 64 fun s t =>
      let before := ((List.range t).map fun u => s.heldFld (quota u)).sum
      s.adjust (quota t) (min (s.heldFld (quota t)) (64 * s.heldFld R.ACC_CFG_PIN_WAYS - before)) kCross

/-- DIR (R168). -/
def State.rulesDir (s : State) : State := s.times 64 fun s t => s.trimWays (fun u => R.DIR_TWAYS_WAY_MASK.at (0x10 * u)) t

/-- Blocks that the held registration of arena `a` makes (R169). -/
def State.heldBlocks (s : State) (a : Nat) : Nat :=
  match s.extent (s.heldFld (R.PFX_ARENA_INDEX.at (8 * a))) with
  | some e => e.len / max 1 (s.heldFld (R.PFX_ARENA_BLOCK_UNITS.at (8 * a)))
  | none => 0

/-- R188 on one arena. -/
def State.checkArena (s : State) (a : Nat) : State :=
  let valid := fun (a : Nat) => R.PFX_ARENA_VALID.at (8 * a)
  let index := fun (a : Nat) => R.PFX_ARENA_INDEX.at (8 * a)
  let on := fun (s : State) (a : Nat) => s.heldFld (valid a) = 1
  let s := if s.fld (valid a) = 1 then (s.keep (index a) kState).keep (R.PFX_ARENA_BLOCK_UNITS.at (8 * a)) kState else s
  if s.heldFld (valid a) ≠ 1 then s
  else
    let i := s.heldFld (index a)
    let fits : Bool := match s.extent i with
      | some e => e.state = .opened && !e.coherent && (e.prot = 0 || e.prot = 2)
      | none => false
    let twice := (List.range a).any fun b => on s b && s.heldFld (index b) = i
    let total := ((List.range (a + 1)).map fun b => if on s b then s.heldBlocks b else 0).sum
    if !fits ∨ twice ∨ 4194304 < total then s.adjust (valid a) 0 kState else s

/-- A tenant's range of `total` numbers: kept within them, and clear of lower-numbered tenants' ranges (R188, R202). -/
def State.checkTenantRange (s : State) (base count : Nat → Fd) (total : Nat) (busy : Nat → Bool) (t : Nat) : State :=
  let b := fun (s : State) (t : Nat) => s.heldFld (base t)
  let n := fun (s : State) (t : Nat) => s.heldFld (count t)
  let s := if total < b s t + n s t then s.adjust (count t) (total - b s t) kCross else s
  let s := if (List.range t).any (fun u => rangesMeet (b s u) (n s u) (b s t) (n s t)) then s.adjust (count t) 0 kCross else s
  if busy t then (s.keep (base t) kState).keep (count t) kState else s

/-- PFX (R188). -/
def State.rulesPfx (s : State) : State :=
  let s := s.times 256 fun s a => s.checkArena a
  s.times 64 (State.checkTenantRange · (fun t => R.PFX_TSETS_SET_BASE.at (0x10 * t)) (fun t => R.PFX_TSETS_SET_COUNT.at (0x10 * t))
    524288 fun t => s.pfx.entries.any fun e => e.tenant = t)

/-- SYN (R202). -/
def State.rulesSyn (s : State) : State :=
  s.times 64 (State.checkTenantRange · (fun t => R.SYN_TCFG_OBJ_BASE.at (0x10 * t)) (fun t => R.SYN_TCFG_OBJ_COUNT.at (0x10 * t))
    65536 fun t => s.ownWaiters.any fun w => w.req.tenant = t)

/-- SMC of stack `n` (R224). -/
def State.rulesSmc (s : State) (n : Nat) : State :=
  let low := R.SMC_CFG_WQ_LOW.at (0x1000 * n)
  s.adjust low (min (s.heldFld low) (s.heldFld (R.SMC_CFG_WQ_HIGH.at (0x1000 * n)) - 8)) kCross

/-- A port whose RING 1 is in force leaves ring mode, as the fifth in ascending order (R277, entry 76). -/
def State.fifthRing (s : State) (q : Nat) : State :=
  let f := R.PRT_CFG_RING.at (0x1000 * q)
  let before := s.word f.off
  let s := (s.portDown q).setFld f 0
  let s := if (mget s.held f.off).isSome then s.setHeldFld f 0 else s
  recordClamp s (pageOf f.off) (fieldNo f) kCross srcApply before (s.word f.off)

/-- PRT of port `p` (R277). Ports in ring mode are counted in ascending order (R413): the fifth of them stores RING 0, be it the port
itself or one whose RING 1 is in force already. -/
def State.rulesPrt (s : State) (p : Nat) : State :=
  let at_ := fun (f : Fd) => f.at (0x1000 * p)
  let ring := at_ R.PRT_CFG_RING
  let s := if s.heldFld ring = 1 ∧ s.heldFld (at_ R.PRT_CFG_SPLIT) ≠ 0 then s.adjust ring 0 kCross else s
  let rings := (List.range 8).filter fun q =>
    let f := R.PRT_CFG_RING.at (0x1000 * q)
    if q = p then s.heldFld f = 1 else s.fld f = 1 && (q < p || s.heldFld f = 1)
  let s := if 4 ≤ (rings.filter (· < p)).length then (if s.heldFld ring = 1 then s.adjust ring 0 kCross else s)
    else match rings[4]? with
    | none => s
    | some q => if q = p then s.adjust ring 0 kCross else s.fifthRing q
  if s.heldFld (at_ R.PRT_CFG_ENABLE) = 1 ∧ s.prt.conns.any (fun c => c.2.src.port = p) then
    [R.PRT_CFG_SPLIT, R.PRT_CFG_RING, R.PRT_CFG_PHY].foldl (fun s f => s.keep (at_ f) kState) s
  else s

/-- The credit fields of LNK page `n` with their least values, in the order of their listing (Table 13.11). -/
def creditFds (n : Nat) : List (Fd × Nat) :=
  (((R.LNK_VCCRED_A_CRED.rep 6 9) ++ [R.LNK_VCCRED_B_CRED_6, R.LNK_VCCRED_B_CRED_7]).map fun f => (f.at (0x1000 * n), 17)) ++
    [(R.LNK_VCCRED_B_CRED_CTRL.at (0x1000 * n), 4)]

/-- LNK page `n` (R303). -/
def State.rulesLnk (s : State) (n : Nat) : State :=
  let l := creditFds n
  let sum := fun (s : State) => (l.map fun e => s.heldFld e.1).sum
  let s := l.reverse.foldl (fun s e =>
    let v := s.heldFld e.1
    if 2048 < sum s then s.adjust e.1 (max e.2 (v - (sum s - 2048))) kCross else s) s
  if n = 8 then ((l.drop 4).take 4).foldl (fun s e => s.adjust e.1 e.2 kCross) s else s

/-- Some ring link is UP. -/
def State.ringUp (s : State) : Bool := (List.range 8).any fun n => (s.link n).st = 2 && (s.dirOf n).isSome

/-- RTE (R304). -/
def State.rulesRte (s : State) : State :=
  let small := s.heldFld R.RTE_DIM_NX * s.heldFld R.RTE_DIM_NY ≤ s.devIndex
  let s := if small ∨ s.ringUp then
      let k := if small then kCross else kState
      (s.keep R.RTE_DIM_NX k).keep R.RTE_DIM_NY k
    else s
  let s := s.times 4 fun s d =>
    let f := fun (d : Nat) => R.RTE_PORTMAP_PORT.up (4 * d)
    let p := s.heldFld (f d)
    let ring := p < 8 && s.fld (R.PRT_CFG_RING.at (0x1000 * p)) = 1
    let named := (List.range d).any fun c => s.heldFld (f c) = p
    let one := s.heldFld (if d < 2 then R.RTE_DIM_NX else R.RTE_DIM_NY) = 1
    if !ring ∨ named ∨ one then s.adjust (f d) 15 kCross else s
  s.times 64 fun s t =>
    let a := R.RTE_TCLASS_DSET.at (8 * t)
    let b := R.RTE_TCLASS_ORDER.at (8 * t)
    (s.adjust a (min 2 (s.heldFld a)) kCross).adjust b (min 2 (s.heldFld b)) kCross

/-- The fields of the ring-parity group, its region and its parity area. -/
def groupFds : List Fd :=
  R.PAR_RPG_MEMBER.rep 5 8 ++ [R.PAR_RPG_POS, R.PAR_RPG_RP_EN, R.PAR_RPR_D_BASE, R.PAR_RPR_D_UNITS, R.PAR_RPP_P_BASE]

/-- Ranges in use at this device by anything but a RING_PARITY extent, whose place is the data region itself. -/
def State.rangesBeside (s : State) : List (Nat × Nat) :=
  (s.xltUp fun x => { x with extents := x.extents.filter fun e => e.2.prot ≠ 3 }).usedRanges

/-- PAR (R342). -/
def State.rulesPar (s : State) : State :=
  let s := if s.heldFld R.PAR_CFG_PARTNER = s.devIndex then s.keep R.PAR_CFG_PARTNER kCross else s
  let s := if s.xlt.extents ≠ [] ∨ s.xlt.quarantine ≠ [] then (s.keep R.PAR_CFG_PAIR_EN kState).keep R.PAR_CFG_PARTNER kState
    else s
  let s := s.adjust R.PAR_RPR_D_UNITS (s.heldFld R.PAR_RPR_D_UNITS / 4 * 4) kCross
  let d := s.heldFld R.PAR_RPR_D_BASE
  let n := s.heldFld R.PAR_RPR_D_UNITS
  let p := s.heldFld R.PAR_RPP_P_BASE
  let bad := s.rangesBeside.any (fun r => rangesMeet d n r.1 r.2 || rangesMeet p (n / 4) r.1 r.2) || rangesMeet d n p (n / 4) ||
    s.heldFld (R.PAR_RPG_MEMBER.up (8 * s.heldFld R.PAR_RPG_POS)) ≠ s.devIndex
  let s := if s.heldFld R.PAR_RPG_RP_EN = 1 ∧ bad then s.adjust R.PAR_RPG_RP_EN 0 kState else s
  if s.xlt.extents.any fun e => e.2.prot = 3 then groupFds.foldl (fun s f => s.keep f kState) s else s

/-- A privileged connection is bound to a session. -/
def State.privBound (s : State) : Bool := s.prt.conns.any fun c => c.2.session.isSome && s.holderPriv c.2.holder

/-- Keep the six words of a digest. -/
def State.keepDigest (s : State) (f : Fd) : State := s.times 6 fun s w => s.keep (f.at (8 * w)) kState

/-- SEC0 (R365). -/
def State.rulesSec0 (s : State) : State :=
  let auto := fun (t : Nat) => R.SEC_TCFG_AUTOKEY.at (0x10 * t)
  let most := fun (t : Nat) => R.SEC_TCFG_MAX_CONSENTS.at (0x10 * t)
  let s := s.times 64 fun s t => if s.heldFld (auto t) = 1 ∧ s.idOf t ≠ 0 then s.adjust (auto t) 0 kCross else s
  let s := s.times 64 fun s t =>
    let before := ((List.range t).map fun u => s.heldFld (most u)).sum
    s.adjust (most t) (min (s.heldFld (most t)) (4096 - before)) kCross
  let s := if s.privBound then s.keepDigest R.SEC_OPID_DIGEST else s
  let s := if s.lc = lcManufacture ∨ s.lc = lcProvisioned then s else s.keepDigest R.SEC_DBGID_DIGEST
  if s.par.formed ∨ s.par.peers ≠ [] then s.keepDigest R.SEC_DOMID_DIGEST else s

/-- SEC1 (R365). -/
def State.rulesSec1 (s : State) : State :=
  s.times 64 fun s t => if (s.tenant t).st = 2 then s.keepDigest (R.SEC_TID_DIGEST.at (0x30 * t)) else s

/-- THM (R387). -/
def State.rulesThm (s : State) : State :=
  s.adjust R.THM_CFG_WARN_C (min (s.heldFld R.THM_CFG_WARN_C) (s.heldFld R.THM_CFG_CRIT_C - 1)) kCross

/-- PWR (R402). -/
def State.rulesPwr (s : State) : State :=
  let s := if s.fld (R.PRT_CFG_RING.at (0x1000 * s.heldFld R.PWR_CFG_DEEP_PORT)) = 1 then s.keep R.PWR_CFG_DEEP_PORT kCross
    else s
  if s.heldFld R.PWR_CFG_DEEP_EN = 1 ∧ s.fld R.PAR_RPG_RP_EN = 1 then s.adjust R.PWR_CFG_DEEP_EN 0 kCross else s

/-- The rules that an APPLY of page `p` checks over the held copy, in the order of their chapter (R412 step 2). -/
def State.applyRules (s : State) (p : Nat) : State :=
  if p = 2 then s.rulesPwr
  else if p = 9 then s.rulesThm
  else if p = 11 then s.rulesSec0
  else if p = 12 then s.rulesSec1
  else if p = 13 then (s.times 16 fun s k => s.checkTemplate k).checkSelections
  else if p = 16 then s.rulesSeq
  else if p = 19 then s.rulesXlt
  else if p = 20 then s.rulesAcc
  else if p = 21 then s.rulesDir
  else if p = 22 then s.rulesPfx
  else if p = 23 then s.rulesSyn
  else if p = 26 then s.rulesPar
  else if p = 27 then s.rulesRte
  else if 32 ≤ p ∧ p < 40 then s.rulesSmc (p - 32)
  else if 40 ≤ p ∧ p < 48 then s.rulesPrt (p - 40)
  else if 49 ≤ p ∧ p < 58 then s.rulesLnk (p - 49)
  else s

/-! ### Installation (R412 step 3) -/

/-- A word with the RW fields of a register taken from another word. -/
def mergeRw (r : Rg) (cur new : Word64) : Word64 :=
  let m := BitVec.ofNat 64 (coverMask (r.fields.filter fun f => f.acc = .rw))
  (cur &&& ~~~m) ||| (new &&& m)

/-- Every held field of the page comes into force, and nothing is held any more. -/
def State.install (s : State) (p : Nat) : State :=
  let s := (s.held.filter fun e => pageOf e.1 = p).foldl (fun s e =>
    match findReg e.1 with
    | some r => s.setWord e.1 (mergeRw r (s.word e.1) e.2)
    | none => s) s
  { s with held := s.held.filter fun e => pageOf e.1 ≠ p }

/-- The fields of `PRT_CFG` whose change takes a port's links down: what they connect is another MAC or PHY. -/
def portShape (p : Nat) : List Fd :=
  [R.PRT_CFG_SPLIT, R.PRT_CFG_RING, R.PRT_CFG_PHY, R.PRT_CFG_ENABLE].map fun f => f.at (0x1000 * p)

/-- Before the new shape of a port comes into force, its links go down. -/
def State.closePort (s : State) (p : Nat) : State :=
  if (portShape p).any s.changes then s.portDown p else s

/-! ### What new values set off -/

/-- SEQ: a load in progress at an index that has left its tenant's range is abandoned (R120). -/
def State.appliedSeq (s : State) : State :=
  s.seqUp fun x => { x with plans := x.plans.filter fun e => !(e.2.st = 1 && !s.ownsPlan e.2.tenant e.1) }

/-- ACC: pinned units beyond a lowered quota are unpinned from the highest address down and become HOT (R147). -/
def State.appliedAcc (s : State) : State :=
  s.times 64 fun s t =>
    let us := (s.acc.pins.filter fun e => e.2 = t).map (·.1)
    let over_ := us.length - 16 * s.fld (R.ACC_TCUSH_PIN_QUOTA_MIB.at (0x10 * t))
    s.setHint (us.reverse.take over_) hintHot

/-- PFX: arenas that have been registered show their blocks; those whose VALID has fallen are removed (R188). -/
def State.appliedPfx (s old : State) : State :=
  s.times 256 fun s a =>
    let f := R.PFX_ARENA_VALID.at (8 * a)
    if old.fld f = 1 ∧ s.fld f = 0 then s.removeArena a
    else if old.fld f = 0 ∧ s.fld f = 1 then s.setFld (R.PFX_ARENA_BLOCKS.at (8 * a)) (s.heldBlocks a)
    else s

/-- PAR: a change of PAIR_EN or PARTNER ends what stood with the former partner (R320); ring-parity peers stay. -/
def State.appliedPar (s old : State) : State :=
  if old.fld R.PAR_CFG_PAIR_EN = s.fld R.PAR_CFG_PAIR_EN ∧ old.fld R.PAR_CFG_PARTNER = s.fld R.PAR_CFG_PARTNER then s
  else
    let s := if (s.link 8).st ≠ 0 then s.enterDown 8 else s
    s.parUp fun x => { resetPar with
      reqs := x.reqs.filter fun q => q.peer ≠ partnerPeer, peers := x.peers, rpWords := x.rpWords, fetches := x.fetches }

/-- QOS0: the shapers of a tenant whose EGR_WEIGHT has changed (R313). -/
def State.appliedWeights (s old : State) : State :=
  s.times 64 fun s t => if old.egrWeight t = s.egrWeight t then s else s.times 8 fun s p => s.shapeReset p t

/-- QOS1 and QOS2: policers and shapers whose fields have changed (R309, R313). -/
def State.appliedRates (s old : State) : State :=
  s.times 8 fun s p => s.times 64 fun s t =>
    let differ := fun (fs : List Fd) => fs.any fun f => old.fld (f.at (psOff p t)) ≠ s.fld (f.at (psOff p t))
    let s := if differ [R.QOS_PS_t1_P_RATE, R.QOS_PS_t1_P_BURST_KIB] then s.policeFill p t else s
    if differ [R.QOS_PS_t1_S_RATE, R.QOS_PS_t1_S_BURST_KIB, R.QOS_PS_t1_S_RESET] then s.shapeReset p t else s

/-- PRT: a change of SPLIT, PHY or ENABLE resets the port's shapers (R313). -/
def State.appliedPort (s old : State) (p : Nat) : State :=
  if [R.PRT_CFG_SPLIT, R.PRT_CFG_PHY, R.PRT_CFG_ENABLE].any fun f => old.fld (f.at (0x1000 * p)) ≠ s.fld (f.at (0x1000 * p)) then
    s.times 64 fun s t => s.shapeReset p t
  else s

/-- New write watermarks of stack `n` act on its queues as they stand (R209). -/
def State.appliedSmc (s : State) (n : Nat) : State :=
  let low := s.fld (R.SMC_CFG_WQ_LOW.at (n * 0x1000))
  let high := s.fld (R.SMC_CFG_WQ_HIGH.at (n * 0x1000))
  let settle := mapIf (fun (e : Nat × Pc) => stackOfPc e.1 = n) fun e =>
    (e.1, { e.2 with wqFull := (e.2.wqFull || high ≤ e.2.wq.length) && low < e.2.wq.length })
  s.smcUp fun x => { x with pcs := settle x.pcs }

/-- What the values that an APPLY of page `p` has put in force set off; `old` is the state before it. -/
def State.applied (s old : State) (p : Nat) : State :=
  if p = 11 ∨ p = 12 then s.secApplied
  else if p = 13 ∨ p = 14 then
    let s := if p = 13 then s.times 16 fun s k => s.templateStats k else s
    if old.pagePending p then s.ftmUp fun x => { x with applyPending := true } else s
  else if p = 16 then s.appliedSeq
  else if p = 20 then s.appliedAcc
  else if p = 22 then s.appliedPfx old
  else if p = 26 then s.appliedPar old
  else if p = 28 then s.appliedWeights old
  else if p = 29 ∨ p = 30 then s.appliedRates old
  else if 32 ≤ p ∧ p < 40 then s.appliedSmc (p - 32)
  else if 40 ≤ p ∧ p < 48 then s.appliedPort old (p - 40)
  else s

/-- An APPLY of a page (R412). -/
def State.applyPage (s : State) (p : Nat) : State :=
  let old := s
  let s := s.applyRules p
  let s := if 40 ≤ p ∧ p < 48 then s.closePort (p - 40) else s
  let s := s.install p
  let s := s.countWrap (R.PG_STATUS_APPLIES.at (p * 0x1000))
  (s.raise p 1).applied old p

/-- A DISCARD of a page: its held writes go (R414). -/
def State.discardPage (s : State) (p : Nat) : State := { s with held := s.held.filter fun e => pageOf e.1 ≠ p }

/-- Pages that hold registers (Table 19.1). -/
def allPageNumbers : List Nat := (List.range 58).filter fun p => (pageInfo p).isSome

end Sys2Proof.Machine
end

