-- ==== Sys2Proof/Machine/RegOps.lean ====
section
/-! DEFINITION. Register writes (R405 to R417): what a write of each register does, APPLY and DISCARD of one page and of
all, events, locks, and the writes that wait for a stopped clock. -/

namespace Sys2Proof.Machine

/-! ### The page header (R407, R408, R412 to R416) -/

/-- A block's clock is stopped (R415): SMC in STACK_NAP until its exit completes, SEQ, SLB and FRD in FROND_GATED and
DEEP. -/
def State.clockStopped (s : State) (p : Nat) : Bool :=
  if 32 ≤ p ∧ p < 40 then s.stackSt (p - 32) = 3 || s.stackSt (p - 32) = 4
  else (p = 16 || p = 17 || p = 18) && (s.deep || s.fld R.PWR_STATUS_GATED = 1)

/-- The lock refuses an action of `PG_CTRL` (R416). -/
def State.lockRefuses (s : State) (f : Fd) (p : Nat) (src : RegSrc) (w : Word64) : State :=
  (recordClamp s p (fieldNo f) kLocked (srcCode src) w 0).raise p 2

/-- A write of `PG_CTRL`: APPLY, then DISCARD, each refused by the lock. -/
def State.pgCtrl (s : State) (src : RegSrc) (p : Nat) (w : Word64) : State :=
  let s := s.storeReg src (p * 0x1000 + 0x10) w
  let act := fun (s : State) (f : Fd) (g : State → State) => if s.pageLocked p then s.lockRefuses f p src w else g s
  let s := if w.getLsbD 0 then act s R.PG_CTRL_APPLY fun s => s.applyPage p else s
  if w.getLsbD 1 then act s R.PG_CTRL_DISCARD fun s => s.discardPage p else s

/-- A write of `PG_EVT_FORCE` raises the events it names; reserved bits are ignored (R408). -/
def State.evtForce (s : State) (p : Nat) (w : Word64) : State :=
  let off := p * 0x1000 + 0x20
  s.setWord off (s.word off ||| (w &&& BitVec.ofNat 64 (evtMask p)))

/-- A write of `PG_LOCK`: from the in-band path it stores nothing and is recorded as LOCKED (R416). -/
def State.lockWrite (s : State) (src : RegSrc) (p : Nat) (w : Word64) : State :=
  match src with
  | .inband =>
    if s.pageLocked p then s.storeReg src (p * 0x1000 + 0x50) w
    else s.refusePath (R.PG_LOCK_LOCK.at (p * 0x1000)) src w
  | .core _ => s.storeReg src (p * 0x1000 + 0x50) w

/-! ### GLB0 (R413, R417) -/

/-- APPLY_ALL: every unlocked page with held writes, in ascending order; one whose clock is stopped is applied when it
runs. -/
def State.applyAll (s : State) (src : RegSrc) : State :=
  allPageNumbers.foldl (fun s p =>
    if !s.pagePending p ∨ s.pageLocked p then s
    else if s.clockStopped p then { s with regWait := s.regWait ++ [(src, p * 0x1000 + 0x10, 1)] }
    else s.applyPage p) s

/-- DISCARD_ALL: the held writes of every unlocked page go. -/
def State.discardAll (s : State) : State :=
  allPageNumbers.foldl (fun s p => if s.pageLocked p then s else s.discardPage p) s

/-- A write of `GLB_CTRL`. -/
def State.glbCtrl (s : State) (src : RegSrc) (w : Word64) : State :=
  let s := s.storeReg src 0x108 w
  let s := if w.getLsbD 0 then s.applyAll src else s
  if w.getLsbD 1 then s.discardAll else s

/-- CLEAR of the clamp log: every record, HEAD, WRAPPED and TOTAL become 0. -/
def State.clearLog (s : State) : State :=
  { s with regs := s.regs.filter fun e => e.1 ≠ 0x118 && !(0x1800 ≤ e.1 && e.1 < 0x2000) }

/-- A write of `GLB_CLOG_CTRL`: what the same write clamps is recorded after the clear (R417). -/
def State.clogCtrl (s : State) (src : RegSrc) (w : Word64) : State :=
  (if w.getLsbD 0 then s.clearLog else s).storeReg src 0x120 w

/-! ### Commands of the XLT page -/

/-- A write of `XLT_CMD`. A REVOKE that begins also removes the entries and pins of an arena (R36 step 1) and pulls every
line of the extent back (step 6). -/
def State.xltWrite (s : State) (src : RegSrc) (w : Word64) : State :=
  let before := s.xlt.revokes.map (·.1)
  let s := s.writeXltCmd src w
  let begun := (s.xlt.revokes.map (·.1)).filter fun i => !before.contains i
  begun.foldl (fun s i =>
    let s := match s.arenaOf i with | some a => s.emptyArena a | none => s
    s.pullExtent i) s

/-- The last phase of a revocation: at step 8 its arena is removed. -/
def State.revokeEnd (s : State) (i : Nat) : State :=
  let t := s.revokeDone i
  if s.xlt.revokes.any (fun r => r.1 = i) ∧ !t.xlt.revokes.any (fun r => r.1 = i) then
    match t.arenaOf i with
    | some a => t.removeArena a
    | none => t
  else t

/-- A W1C write of `XLT_MFQ_STATUS.FAULT_LOST` clears it together with OVERFLOW (R39). -/
def State.mfqStatusWrite (s : State) (src : RegSrc) (w : Word64) : State :=
  let s := s.storeReg src 0x13140 w
  if w.getLsbD 11 then s.xltUp fun x => { x with mfq := { x.mfq with lost := false, overflow := 0 } } else s

/-- A write of `XLT_MFQ_POP`. -/
def State.mfqPop (s : State) (src : RegSrc) (w : Word64) : State :=
  let s := s.storeReg src 0x13148 w
  if w.getLsbD 0 then s.xltUp fun x => { x with mfq := { x.mfq with entries := x.mfq.entries.drop 1 } } else s

/-! ### Commands of other pages -/

/-- A write of `DIR_KICK`: with GO the membership of AGENT is revoked (R164). -/
def State.dirKick (s : State) (src : RegSrc) (w : Word64) : State :=
  let s := s.storeReg src 0x15128 w
  if w.getLsbD 63 then s.revokeMember (s.fld R.DIR_KICK_AGENT) 2 else s

/-- A write of `LMC_FW_CMD` (R381, R387). -/
def State.fwWrite (s : State) (src : RegSrc) (w : Word64) (admin : Bool) : State :=
  match src with
  | .inband => s.refusePath R.LMC_FW_CMD_OP src w
  | .core _ =>
    let s := s.storeReg src 0x3138 w
    if !w.getLsbD 63 then s
    else
      let op := s.fld R.LMC_FW_CMD_OP
      if op = 1 then s.activate else if op = 2 then s.confirm else if op = 3 then s.commit admin else s

/-- A write of `LNK_CTRL` of link `n` (R287). -/
def State.lnkCtrl (s : State) (src : RegSrc) (off n : Nat) (w : Word64) : State :=
  let s := s.storeReg src off w
  if w.getLsbD 1 then s.askReset n else if w.getLsbD 0 then s.askRetrain n else s

/-- A write of `PAR_CTRL` (R338). -/
def State.parCtrl (s : State) (src : RegSrc) (w : Word64) : State :=
  let s := s.storeReg src 0x1A110 w
  if w.getLsbD 63 then s.handover (s.fld R.PAR_CTRL_SET) (s.fld R.PAR_CTRL_FORCE = 1) else s

/-- A write of `SEC_DBG_CTRL`. -/
def State.dbgCtrl (s : State) (src : RegSrc) (w : Word64) : State :=
  let s := s.storeReg src 0xB118 w
  if w.getLsbD 0 ∧ s.sec.debug = 2 then s.setDebug 1 else s

/-- A write of `PFX_RECLAIM` (R171). -/
def State.reclaimWrite (s : State) (src : RegSrc) (w : Word64) : State :=
  let s := s.storeReg src 0x16118 w
  if w.getLsbD 63 then s.reclaim (s.fld R.PFX_RECLAIM_HOLDER) else s

/-! ### A write of any register -/

/-- The pages from GLB0 to SEC1. -/
def State.writeLow (s : State) (src : RegSrc) (off : Nat) (w : Word64) (admin : Bool) : State :=
  let go := w.getLsbD 63
  if off = 0x108 then s.glbCtrl src w
  else if off = 0x120 then s.clogCtrl src w
  else if off = 0x2110 then s.pwrCtrl src w
  else if off = 0x2118 then s.bootWrite src w
  else if 0x3110 ≤ off ∧ off < 0x3130 ∧ go then (s.storeReg src off w).kick ((off - 0x3110) / 8)
  else if off = 0x3138 then s.fwWrite src w admin
  else if off = 0x4108 then s.swset src w
  else if 0x4210 ≤ off ∧ off < 0x4280 ∧ off % 0x20 = 0x10 then s.eoi src ((off - 0x4210) / 0x20) w
  else if off = 0xA100 ∧ go then s.bist src w admin
  else if off = 0xA118 ∧ go then s.ppr src w admin
  else if off = 0xB118 then s.dbgCtrl src w
  else if 0xB400 ≤ off ∧ off < 0xB800 ∧ off % 0x10 = 0 then s.writeTcfg src ((off - 0xB400) / 0x10) w
  else s.storeReg src off w

/-- The pages from FTM0 on. -/
def State.writeHigh (s : State) (src : RegSrc) (off : Nat) (w : Word64) : State :=
  let go := w.getLsbD 63
  let p := pageOf off
  let o := off % 0x1000
  if off = 0x12110 ∧ go then s.frdRetire src w
  else if off = 0x13110 then s.xltWrite src w
  else if off = 0x13140 then s.mfqStatusWrite src w
  else if off = 0x13148 then s.mfqPop src w
  else if off = 0x15128 then s.dirKick src w
  else if off = 0x16118 then s.reclaimWrite src w
  else if off = 0x18158 ∧ go then s.remapGo src w
  else if p = 25 ∧ 0x200 ≤ o ∧ o < 0x600 ∧ o % 0x40 = 0 ∧ go then
    (s.storeReg src off w).crcStart src ((o - 0x200) / 0x40) w
  else if off = 0x1A110 then s.parCtrl src w
  else if 32 ≤ p ∧ p < 40 ∧ o = 0x110 ∧ go then s.smcRetire src (p - 32) w
  else if off = 0x30120 then s.hcfgWrite src w
  else if 49 ≤ p ∧ p < 58 ∧ o = 0x108 then s.lnkCtrl src off (p - 49) w
  else s.storeReg src off w

/-- A write reaches its register. -/
def State.writeNow (s : State) (src : RegSrc) (off : Nat) (w : Word64) (admin : Bool) : State :=
  let p := pageOf off
  let o := off % 0x1000
  if (pageInfo p).isSome ∧ o = 0x010 then s.pgCtrl src p w
  else if (pageInfo p).isSome ∧ o = 0x030 then s.evtForce p w
  else if (pageInfo p).isSome ∧ o = 0x050 then s.lockWrite src p w
  else if off < 0xD000 then s.writeLow src off w admin
  else s.writeHigh src off w

/-- Direct writes, WO actions and APPLY of a page whose clock is stopped wait for it (R415). -/
def State.mustWait (s : State) (off : Nat) : Bool :=
  s.clockStopped (pageOf off) && (match findReg off with | some r => r.direct | none => false)

/-- A write of a register word by a core or the in-band path; `admin` tells that an ADMIN asked for it. -/
def State.regWrite (s : State) (src : RegSrc) (off : Nat) (w : Word64) (admin : Bool) : State :=
  if s.mustWait off then { s with regWait := s.regWait ++ [(src, off, w)] } else s.writeNow src off w admin

/-- The writes whose clock runs again take effect, in order. -/
def State.replayWaits (s : State) : State :=
  let go := s.regWait.filter fun e => !s.mustWait e.2.1
  let s := { s with regWait := s.regWait.filter fun e => s.mustWait e.2.1 }
  go.foldl (fun s e => s.regWrite e.1 e.2.1 e.2.2 false) s

/-- A write on the register bus: at an offset that is no register word's, a core takes an access fault (R403). -/
def State.busWrite (s : State) (src : RegSrc) (off : Nat) (w : Word64) : State :=
  if offsetOk off then s.regWrite src off w false
  else match src with
    | .core n => s.emit (.accessFault (n % 4) (0x40000000 + off))
    | .inband => s

/-- RawRegister: OPERATOR reads, ADMIN writes (R378); it reaches the window as an access by Lumyan firmware. An offset that
is no register word's is answered 400. -/
def State.rawRegister (s : State) (conn off : Nat) (value : Option Word64) : State :=
  match value with
  | none => s.asRole conn 1 fun s =>
      if offsetOk off then
        let (w, s) := s.regRead off
        s.emit (.redfish 200 w)
      else s.http 400
  | some w => s.asRole conn 2 fun s =>
      if offsetOk off then
        let s := s.regWrite (.core 0) off w true
        s.http 200
      else s.http 400

end Sys2Proof.Machine
end

