-- ==== Sys2Proof/Machine/Boundary.lean ====
section
/-! DEFINITION. The frame boundary (R41): the FTM's new frame, the epoch records of the sets held here, and PWR's choice of
power state (R219, R393 to R395). The commands that start a stopped clock again stand here too (R415). -/

namespace Sys2Proof.Machine

/-! ### Budgets (R393, Table 18.3) -/

/-- Tenants that FROND_GATED affects: those with a plan resident or a call queued. -/
def State.gateTenants (s : State) : List Nat :=
  ((s.seq.plans.filter fun p => p.2.st = 2).map fun p => p.2.tenant) ++ s.seq.calls.map fun c => c.tenant

/-- Tenants that STACK_NAP affects: those that hold an extent whose range is in use here (R321). -/
def State.napTenants (s : State) : List Nat :=
  (s.xlt.extents.filter fun e => s.dataHere e.1 e.2).map fun e => e.2.tenant

/-- Tenants that DEEP affects: every ADMITTED one. -/
def State.deepTenants (s : State) : List Nat := (List.range 64).filter fun t => (s.tenant t).st = 2

/-- The budget of a state: the smallest tolerable latency that the tenants it affects have stated, in µs; none without a
limit (R271). -/
def State.budget (s : State) (ts : List Nat) : Option Nat :=
  leastBudget (ts.map fun t =>
    match mget s.prt.tol t with
    | some v => if v = 0xFFFFFFFF then none else some v
    | none => none)

/-- An exit latency in µs lies within a budget. -/
def within (us : Nat) (b : Option Nat) : Bool :=
  match b with
  | some v => us ≤ v
  | none => true

/-- The three states are permitted. -/
def State.gateAllowed (s : State) : Bool := Sys2Proof.Machine.within 3 (s.budget s.gateTenants)
def State.napAllowed (s : State) : Bool := Sys2Proof.Machine.within 25 (s.budget s.napTenants)
def State.deepAllowed (s : State) : Bool := Sys2Proof.Machine.within 1500 (s.budget s.deepTenants)

/-- The smallest budget in force, as `BUDGET_US` shows it. -/
def State.showBudget (s : State) : State :=
  s.setFld R.PWR_STATUS_BUDGET_US
    ((leastBudget [s.budget s.gateTenants, s.budget s.napTenants, s.budget s.deepTenants]).getD 0xFFFFFFFF)

/-- States that are no longer permitted start their exit, as a demand would. -/
def State.leaveForbidden (s : State) : State :=
  if s.deep then (if s.deepAllowed then s else s.startDeepExit)
  else
    let s := if s.napAllowed then s else (List.range 8).foldl (fun s n => s.demandStack n) s
    if s.gateAllowed then s else s.frondWake

/-! ### Entry (R219, R393) -/

/-- Time since a stack's latest ACCESS command. -/
def State.stackIdle (s : State) (n : Nat) : Nat := s.now - mgetD s.pwr.accAt n (s.pwr.step8.getD 0)

/-- The call queue is empty, and no window is committed. -/
def State.noCalls (s : State) : Bool := s.seq.calls = [] && s.ftm.windows = []

/-- The queues of a stack are empty. -/
def State.stackDrained (s : State) (n : Nat) : Bool :=
  (pcsOf n).all fun p => (s.pc p).wq = [] && (s.pc p).rq = [] && !s.smc.waits.any fun w => w.at p

/-- Some committed window's plan names a pseudo-channel of the stack (R219). -/
def State.stackNamed (s : State) (n : Nat) : Bool :=
  s.seq.calls.any fun c => c.committed && (stacksOfMask (headerOf (s.planImage c.plan)).pcMask).contains n

/-- DEEP's idle condition. A stack whose entry to self-refresh has begun is on its way (R219). -/
def State.deepIdle (s : State) : Bool :=
  s.fld R.PWR_CFG_DEEP_EN = 1 && (!s.paired || (s.par.set0.st = 0 && s.par.set1.st = 0)) && s.fld R.PAR_RPG_RP_EN = 0 &&
    s.noCalls && s.smc.demand = [] && (List.range 8).all fun n =>
      s.stackSt n = 5 || ((s.stackSt n = 1 || s.stackSt n = 2 || s.stackSt n = 3) && s.stackDrained n &&
        s.fld R.PWR_CFG_DEEP_IDLE_MS * msCycles ≤ s.stackIdle n)

/-- The start of the frame in which a state was entered is noted (R394). -/
def State.noteEntry (s : State) : State := s.pwrUp fun p => { p with entered := some s.frameStart }

/-- Entry of a stack to self-refresh begins at the boundary (Table 10.4, step 1). -/
def State.napBegin (s : State) (n : Nat) : State :=
  ((s.setStack n 2).smcUp fun x => { x with napAt := mset x.napAt n s.frameStart }).noteEntry

/-- Every stack is in self-refresh or retired. -/
def State.allNapping (s : State) : Bool := (List.range 8).all fun n => s.stackSt n = 3 || s.stackSt n = 5

/-- DEEP is entered: every stack is in self-refresh, every port but the DEEP port is off, and so are the ring and symbiont
links. -/
def State.enterDeep (s : State) : State :=
  let d := s.fld R.PWR_CFG_DEEP_PORT
  let s := (List.range 8).foldl (fun s p => if p = d then s else s.portDown p) s
  let s := if (s.link 8).st ≠ 0 then s.enterDown 8 else s
  ((s.setFld R.PWR_STATUS_DEEP 1).raise 2 9).noteEntry

/-- STACK_NAP of stack `n`: its entry begins (Table 10.4, step 1). -/
def State.napEntry (s : State) (n : Nat) : State :=
  if s.stackSt n = 1 ∧ s.fld R.PWR_CFG_NAP_IDLE_US * usCycles ≤ s.stackIdle n ∧ s.fld R.PAR_RPG_RP_EN = 0 ∧
      !s.stackNamed n ∧ !s.smc.demand.contains n then
    s.napBegin n
  else s

/-- DEEP's idle condition holds: the stacks still in service begin their entry to self-refresh (R219), and once every stack
is in it DEEP is entered. -/
def State.deepEntry (s : State) : State :=
  if s.allNapping then s.enterDeep
  else (List.range 8).foldl (fun s n => if s.stackSt n = 1 then s.napBegin n else s) s

/-- FROND_GATED: the frond stores lose their contents. -/
def State.gateEntry (s : State) : State :=
  if s.fld R.PWR_STATUS_GATED = 0 ∧ s.noCalls ∧ s.fld R.PWR_CFG_GATE_IDLE_US * usCycles ≤ s.now - s.pwr.callAt then
    (((s.seqUp fun q => { q with fronds := [] }).setFld R.PWR_STATUS_GATED 1).raise 2 9).noteEntry
  else s

/-- FROND_GATED ends once its wake is over. -/
def State.gateEnd (s : State) : State :=
  match s.pwr.gateWake with
  | none => s
  | some t =>
    if s.now < t then s
    else
      let s := s.pwrUp fun p => { p with gateWake := none, callAt := s.now }
      ((s.setFld R.PWR_STATUS_GATED 0).raise 2 9).replayWaits

/-- PWR's evaluation at a boundary (R393). -/
def State.powerEval (s : State) : State :=
  let s := if s.seq.calls = [] then s else s.pwrUp fun p => { p with callAt := s.now }
  let s := (s.gateEnd.showBudget).leaveForbidden
  if s.deep then s
  else if s.deepAllowed ∧ s.deepIdle then s.deepEntry
  else
    let s := if s.napAllowed then (List.range 8).foldl (fun s n => s.napEntry n) s else s
    if s.gateAllowed then s.gateEntry else s

/-- A frame boundary, once the frame timer runs. -/
def State.boundary (s : State) : State :=
  if s.pwr.timer then (((s.newFrame.epochSend 0).epochSend 1)).powerEval else s

/-- FRAME_BOUNDARY. -/
def execFrameBoundary (s : State) : Out := .next s.boundary

/-! ### LATENCY_TOL (R271, R394) -/

/-- A statement that forbids a state just entered starts its exit at once; any other counts from the next boundary. -/
def State.latencyTol (s : State) (r : Req) (us : Nat) : State :=
  let s := s.doLatencyTol r us
  if s.pwr.entered = some s.frameStart then s.leaveForbidden else s

/-! ### Clocks that run again (R220, R395, R415) -/

/-- NAP_EXIT_COMPLETE: the boundary after the exit's 21 µs. -/
def execNapExitComplete (stack : Nat) (lats : List (Nat × Nat)) (s : State) : Out :=
  .next (if s.stackSt stack = 4 ∧ s.napExitDue stack ∧ (!s.deep || s.pwr.deepExit.isSome) then (s.napLeft stack lats).replayWaits else s)

/-- DEEP_EXIT_COMPLETE. -/
def execDeepExitComplete (s : State) : Out := .next s.deepExitDone.replayWaits

end Sys2Proof.Machine
end

