-- ==== Sys2Proof/Machine/Perform.lean ====
section
/-! DEFINITION. Performing a request: the register window in-band (R404), INVALIDATE (R33 to R35), the chunks of an RDMA
WRITE (R124), the choice of the operation by opcode, and the requests that a step frees to go on. -/

namespace Sys2Proof.Machine

/-! ### The register window in-band (R264, R404) -/

/-- First offset beyond the register window. -/
def windowEnd : Nat := 0x01000000

/-- A READ or WRITE of handle 0 on a privileged connection. -/
def State.isWindow (s : State) (r : Req) : Bool :=
  s.privileged r && (match r.via with | .rdma _ _ => false | _ => true) && (match r.op with | .read a => a.handle = 0 | .write a _ => a.handle = 0 | _ => false)

/-- `n` words read in ascending order. -/
def State.windowRead (s : State) (off : Nat) : Nat → List Byte × State
  | 0 => ([], s)
  | n + 1 =>
    let (w, s) := s.regRead off
    let (bs, s) := s.windowRead (off + 8) n
    (leBytes 8 w.toNat ++ bs, s)

/-- Words written in ascending order. -/
def State.windowWrite (s : State) (off : Nat) (bs : List Byte) : Nat → State
  | 0 => s
  | n + 1 => (s.regWrite .inband off (BitVec.ofNat 64 (leNat (bs.take 8))) false).windowWrite (off + 8) (bs.drop 8) n

/-- What a window access of `len` bytes at `off` fails with. -/
def windowFault (off len : Nat) : Option Ans :=
  if len % 8 ≠ 0 ∨ off % 8 ≠ 0 then some (failAns Status.noRights 0 0 off)
  else if windowEnd < off + len then some (carriedAns Status.unmapped 0 windowEnd 0)
  else if off / 4096 ≠ (off + len - 1) / 4096 then some (failAns Status.noRights 0 0 off)
  else none

/-- An in-band access of the register window. -/
def State.window (s : State) (r : Req) : State :=
  match r.op with
  | .read a =>
    let off := a.offset.toNat
    match windowFault off a.rwLen with
    | some e => s.respond r e
    | none =>
      let (bs, s) := s.windowRead off (a.rwLen / 8)
      s.respond r (mkAns r.op Status.ok 0 bs)
  | .write a d =>
    let off := a.offset.toNat
    match windowFault off d.length with
    | some e => s.respond r e
    | none => (s.windowWrite off d (d.length / 8)).respond r (mkAns r.op Status.ok)
  | _ => s

/-! ### INVALIDATE (R33 to R35) -/

/-- INVALIDATE: up to 8 in progress. The scope's entries are dropped at once, with KILL what has not begun completes with
REVOKED, and the rest drains. -/
def State.doInvalidate (s : State) (r : Req) (scope : Nat) (kill : Bool) (value : Nat) : State :=
  if !s.privileged r then s.refuse r Status.noRights
  else if 8 ≤ s.xlt.invals.length then s.refuse r Status.retryAfter 1
  else
    let s := s.accept r
    let r := { r with accepted := true }
    let (key, s) := s.newKey
    let s := s.xltUp fun x => { x with
      tlb := x.tlb.filter fun b => !b.inScope scope value
      invals := x.invals ++ [⟨key, scope, value, kill, key, r⟩] }
    if kill then
      let s := s.sweepHeld key (fun q => q.inScope scope value) Status.revoked
      s.endQueued (fun c => !c.locked && c.req.inScope scope value) (queuedEnd Status.revoked 0 0)
    else s

/-- INVALIDATE_COMPLETE: nothing of its scope that was queued before it remains. -/
def State.invalidateDone (s : State) (key : Nat) : State :=
  match s.xlt.invals.find? (fun x => x.key = key) with
  | none => s
  | some x =>
    if s.pendingWork fun q => q.inScope x.scope x.value && q.ord < x.issuedBefore then s
    else
      let s := s.xltUp fun y => { y with invals := y.invals.filter fun z => z.key ≠ key }
      (s.countWrap R.XLT_INVAL_STATUS_COMPLETED).respond x.req (mkAns x.req.op Status.ok)

/-- INVALIDATE_COMPLETE. -/
def execInvalidateComplete (key : Nat) (s : State) : Out := .next (s.invalidateDone key)

/-! ### RDMA WRITE (R124) -/

/-- Bytes of the first chunk of a message at extent offset `off`: to the next multiple of 4,096. -/
def firstChunk (off n : Nat) : Nat := min n (4096 - off % 4096)

/-- The extent of a chunk is still open under its handle (R36). -/
def State.stillOpen (s : State) (r : Req) (handle : Nat) : Bool :=
  match s.extent (handle % 2 ^ 18) with
  | some e => e.state = .opened && e.gen = handle / 2 ^ 18 && e.tenant = r.tenant
  | none => false

/-- The chunks of an RDMA WRITE one after another, each judged on its own; the answers that they wait for are counted under
`key`. A chunk that must wait waits with the bytes behind it, and goes on as one that has begun; a chunk behind another
(`later`) is issued only while its extent is open and nothing has stopped the message (R34, R36). -/
def State.rdmaChunks (s : State) (r : Req) (i : Nat) (e : Extent) (handle off : Nat) (data : List Byte) (key : Nat)
    (later : Bool) : Nat → State
  | 0 => s.finish key r (mkAns r.op Status.ok) e.mirroredMode (setOfIndex i)
  | n + 1 =>
    if data = [] then s.finish key r (mkAns r.op Status.ok) e.mirroredMode (setOfIndex i)
    else if later && !s.stillOpen r handle then s.respond r (mkAns r.op Status.revoked)
    else if later && (mget s.acc.stops key).isSome then
      (s.accUp fun a => { a with stops := mdel a.stops key }).respond r (mkAns r.op (mgetD s.acc.stops key Status.revoked))
    else
      let c := firstChunk off data.length
      let a := e.addr off
      let gs := granulesOf a c
      let rest := { r with checked := true, begun := true, acks := some key,
                           op := .write ⟨BitVec.ofNat 32 handle, 0, BitVec.ofNat 64 off⟩ data }
      if s.dirHolds rest e (linesOf a c) then s.accCoherent rest i (linesOf a c)
      else
        match s.firstShut e gs with
        | some g => s.respond r (shutAns handle e g)
        | none =>
          let w : Writer := ⟨key, false, none, e.ownReads a c⟩
          let needs := s.writeNeeds i e gs w
          if s.writeShort gs needs r.turn then s.waitWrite gs needs rest
          else
            match s.writeReads i e gs (partialGranules a c) r.fetched with
            | (s, .poisoned g) => s.respond r (poisonAns handle e g 0)
            | (s, .remote gs) => s.fetchFor rest i e gs
            | (s, .ok) =>
              let s := (s.writeGranules i e a (data.take c) .clear w gs).mirrorRange i e a c 0 r (mkAns r.op Status.ok) key
              s.rdmaChunks { r with txns := [], fetched := [], turn := false } i e handle (off + c) (data.drop c) key true n

/-- An RDMA WRITE whose whole message has passed its checks. -/
def State.doRdmaWrite (s : State) (r : Req) (handle off : Nat) (data : List Byte) : State :=
  let i := handle % 2 ^ 18
  let e := (s.extent i).getD emptyExtent
  let s := s.opTaken r
  let (key, s) := match r.acks with | some k => (k, s) | none => s.newKey
  s.rdmaChunks r i e handle off data key false (data.length / 4096 + 2)

/-! ### Every operation -/

/-- An undefined opcode (R261). -/
def State.doUndefined (s : State) (r : Req) : State := s.refuse r Status.noRights

/-- An RDMA request acts by its own rules. -/
def State.performRdma (s : State) (r : Req) : State :=
  match r.op with
  | .read a => s.doRead r a.handle.toNat a.offset.toNat a.rwLen
  | .write a d => s.doRdmaWrite r a.handle.toNat a.offset.toNat d
  | .cas a _ _ | .fetchAdd a _ => s.doAtomic r a
  | _ => s

/-- An IPT request performs its operation. -/
def State.performIpt (s : State) (r : Req) : State :=
  match r.op with
  | .read a => s.doRead r a.handle.toNat a.offset.toNat a.rwLen
  | .write a d => s.doWrite r a.handle.toNat a.offset.toNat d
  | .swap a _ | .cas a _ _ | .fetchAdd a _ | .fetchAnd a _ | .fetchOr a _ | .fetchXor a _ | .fetchSmin a _
  | .fetchSmax a _ | .fetchUmin a _ | .fetchUmax a _ => s.doAtomic r a
  | .accum a x => s.doAccum r a x
  | .accumRc a b x => s.doAccumRc r a b x
  | .move _ _ _ _ _ _ => s.doMove r
  | .hint a b => s.doHint r a b
  | .fence => s.doFence r
  | .rdS a | .rdX a | .upg a | .rdNa a => s.coherent r a
  | .wb a d => s.writeBackLine r a d
  | .cohJoin c => s.join r c.toNat
  | .cohLeave => s.leave r
  | .kvAlloc h => s.doKvAlloc r h.toNat
  | .kvFree h b => s.doKvFree r h.toNat b.toNat
  | .publish h b k => s.doPublish r h.toNat b.toNat k
  | .republish h b k v => s.doRepublish r h.toNat b.toNat k v.toNat
  | .unpublish k v => s.doUnpublish r k v.toNat
  | .lookup k => s.doLookup r k
  | .unpin b => s.doUnpin r b.toNat
  | .ringReduce _ _ _ _ _ _ _ _ | .ringRoute _ _ => s.doRing r
  | .call c => s.doCall r c
  | .planLoad i off c => s.doPlanLoad r i.toNat off.toNat c
  | .planCommit i al len crc => s.doPlanCommit r i.toNat al.toNat len.toNat crc.toNat
  | .planUnload i => s.doPlanUnload r i.toNat
  | .sync sop x => s.doSync r sop.toNat x
  | .invalidate sc k v => s.doInvalidate r sc.toNat k v.toNat
  | .faultPop c => s.doFaultPop r c
  | .latencyTol us => s.latencyTol r us.toNat
  | .qpCreate q => s.doQpCreate r q
  | .qpDestroy n => s.doQpDestroy r n.toNat
  | .spdm m => s.doSpdm r m
  | .sessionBind n => s.doSessionBind r n.toNat
  | .undefined _ => s.doUndefined r

/-- A request begins, or goes on, and performs its operation; one that stands for a piece of a bulk move or of a ring
operator goes on with that. A request whose table entry is lost ends (R237). -/
def State.perform (s : State) (r : Req) : State :=
  match r.chunk with
  | some key => if (s.findRing key).isSome then s.ringRun key r.fetched r.turn else s.moveStep key r
  | none =>
    if s.isWindow r then s.window r
    else
      match s.tableLook r with
      | (s, true) => s.refuse r Status.internalError
      | (s, false) =>
        match r.via with
        | .rdma _ _ => s.performRdma r
        | _ => s.performIpt r

/-- The requests that have been freed to go on do so, in their order; when none is left, the parts of ring operators that have
ended are passed on and transactions that serve nothing more close, which may free others. -/
def State.readyLoop (s : State) : Nat → State
  | 0 => s
  | n + 1 =>
    match s.dir.ready with
    | r :: t => ((s.dirUp fun d => { d with ready := t }).perform r).readyLoop n
    | [] =>
      let t := s.ringPartsEnd.closeSpent
      if t.dir.ready = [] then t else t.readyLoop n

/-- Run what the step has freed; a priority whose receive buffer has emptied is let go (R257). -/
def State.runReady (s : State) : State :=
  (s.readyLoop (8 * (s.dir.ready.length + s.dir.waiters.length + s.dir.txns.length + 1))).pfcAll

/-! ### Steps that free requests: the directory, bulk moves, other devices, registers -/

/-- A REPLY packet with `n` bytes of fields: what `f` does with the connection's holder. -/
def State.reply (s : State) (p : Pkt) (n : Nat) (f : State → Nat → State) : State :=
  match s.takeReply p n with
  | (s, none) => s
  | (s, some x) => (f s x.holder).runReady

/-- ACK. -/
def execAck (p : Pkt) (txn : BitVec 32) (s : State) : Out := .next (s.reply p 4 fun s h => s.grantAck h txn.toNat)

/-- RSP_MISS. -/
def execRspMiss (p : Pkt) (txn : BitVec 32) (s : State) : Out :=
  .next (s.reply p 4 fun s h => s.snoopReply h txn.toNat none true false)

/-- RSP_MISS_WB. -/
def execRspMissWb (p : Pkt) (txn : BitVec 32) (s : State) : Out :=
  .next (s.reply p 4 fun s h => s.snoopReply h txn.toNat none true true)

/-- RSP_CLEAN. -/
def execRspClean (p : Pkt) (txn : BitVec 32) (s : State) : Out :=
  .next (s.reply p 4 fun s h => s.snoopReply h txn.toNat none false false)

/-- RSP_DIRTY: 128 bytes. -/
def execRspDirty (p : Pkt) (txn : BitVec 32) (data : List Byte) (s : State) : Out :=
  .next (s.reply p 132 fun s h => s.snoopReply h txn.toNat (some (fitBytes 128 data)) false false)

/-- GRANT_RESEND. -/
def execGrantResend (txn : Nat) (s : State) : Out := .next (s.grantAgain txn).runReady

/-- SNOOP_RETRY. -/
def execSnoopRetry (txn agent : Nat) (s : State) : Out := .next (s.snoopAgain txn agent).runReady

/-- WAIT_LIMIT_EXPIRE. -/
def execWaitLimitExpire (line : Nat) (s : State) : Out := .next (s.waitExpire line).runReady

/-- SWEEP_VISIT. -/
def execSweepVisit (agent : Nat) (s : State) : Out := .next (s.sweepOne agent).runReady

/-- SWEEP_DONE. -/
def execSweepDone (agent : Nat) (s : State) : Out := .next (s.sweepEnd agent).runReady

/-- PAIR_READ_ANSWER. -/
def execPairReadAnswer (key status : Nat) (data : List Byte) (s : State) : Out :=
  .next (s.pairReadAnswer key status data).runReady

/-- RP_READ_ANSWER. -/
def execRpReadAnswer (key : Nat) (words : List (List Byte)) (s : State) : Out := .next (s.rpReadAnswer key words).runReady

/-- PEER_RETRANSMIT. -/
def execPeerRetransmit (key : Nat) (s : State) : Out := .next (s.peerRetransmit key).runReady

/-- MOVE_COMPLETE. -/
def execMoveComplete (key : Nat) (s : State) : Out := .next (s.moveComplete key)

/-- HINT_PREFETCH_DONE. -/
def execHintPrefetchDone (key : Nat) (s : State) : Out := .next (s.prefetchDone key)

/-- FENCE_COMPLETE. -/
def execFenceComplete (conn : Nat) (s : State) : Out := .next (s.fenceComplete conn)

/-- REPLAY_ENTRY_EXPIRE. -/
def execReplayEntryExpire (tenant holder : Nat) (reqId : BitVec 48) (s : State) : Out :=
  .next (s.replayExpire tenant holder reqId)

/-- SYNC_WAIT_TIMEOUT. -/
def execSyncWaitTimeout (obj holder : Nat) (reqId : BitVec 48) (s : State) : Out := .next (s.waitTimeout obj holder reqId)

/-- WRITE_QUEUE_ADMIT. -/
def execWriteQueueAdmit (pc : Nat) (s : State) : Out := .next (s.queueAdmit pc).runReady

/-- PC_RETIRE. The cause that the row names is the one under which the retirement was asked for. -/
def execPcRetire (pc _cause : Nat) (s : State) : Out := .next (s.pcRetire pc).runReady

/-- PC_RETIRE_COMMAND_EFFECT. -/
def execPcRetireCommandEffect (s : State) : Out := .next s.commandRetire.runReady

/-- RING_OP_COMPLETE; a status that Table 0.4 does not list ends nothing (R4). `parts` are the members' partials in list order;
with a failure, the AUX of the member that failed may stand in a word behind them (entry 58). -/
def execRingOpComplete (key status pos : Nat) (parts : List (List Word64)) (s : State) : Out :=
  .next (if 0x0F < status then s else (s.ringComplete key status pos parts).runReady)

/-- PACKET_ARRIVE: a message that is whole goes to the operator or stage that it is for. -/
def execPacketArrive (n : Nat) (h : RouteHdr) (data : List Byte) (s : State) : Out :=
  let t := s.packetArrive n h data
  .next ((t.net.delivered.drop s.net.delivered.length).foldl (fun s m => s.ringMessage m.2) t).runReady

/-- MIRROR_ACK. -/
def execMirrorAck (key status : Nat) (term : BitVec 32) (s : State) : Out :=
  .next (s.mirrorAck key status term.toNat).runReady

/-- RP_UPDATE_ACK. -/
def execRpUpdateAck (key : Nat) (s : State) : Out := .next (s.rpUpdateAck key).runReady

end Sys2Proof.Machine
end

