-- ==== Sys2Proof/Machine/Submit.lean ====
section
/-! DEFINITION. How a request is taken: acceptance (R256 to R270), policing (R306, R307), the replay cache (R143 to R145),
the form of its body (R261), overload (R315, R316), its order (R130, R131), and the access scheduler (R310, R311, R314). -/

namespace Sys2Proof

open Machine

/-! ### The form of a body (R261, Table 12.3) -/

/-- An atomic's width and operand bytes are those of its row: 16 bytes for SWAP and CAS only. -/
def atomicBad (a : Addr) (wide : Bool) (x : List Byte) : Bool :=
  a.width = 0 || (a.width = 16 && !wide) || x.length < a.width

/-- An accumulate's combination, and its operand of at most 4,096 bytes, are those of Tables 6.1 and 6.2. -/
def accumBad (a : Addr) (x : List Byte) (ok : Bool) : Bool :=
  !ok || 4096 < a.elems * fmtBytes a.operandFmt || x.length < a.elems * fmtBytes a.operandFmt

/-- The operation codes of SYNC that Table 9.2 defines. -/
def sopDefined (sop : Nat) : Bool := (1 ≤ sop && sop ≤ 12) || sop = 16

/-- A request with an undefined opcode, a code that its row does not define, or a body shorter than its fields require. -/
def ReqOp.malformed (op : ReqOp) : Bool :=
  match op with
  | .write a d => d.length < a.rwLen
  | .swap a x => atomicBad a true x
  | .cas a c x => atomicBad a true c || atomicBad a true x
  | .fetchAdd a x | .fetchAnd a x | .fetchOr a x | .fetchXor a x | .fetchSmin a x | .fetchSmax a x | .fetchUmin a x
  | .fetchUmax a x => atomicBad a false x
  | .accum a x => accumBad a x (accumOk a.targetFmt a.operandFmt a.operator a.stoch)
  | .accumRc a _ x => accumBad a x (accumRcOk a.targetFmt a.operandFmt a.operator)
  | .wb _ d => d.length < 128
  | .ringReduce l e _ _ _ _ _ _ => bitsOf l.length.toNat 0 8 = 0 || 4194304 ≤ e.toNat
  | .call c => 16 < c.nslots.toNat || 16 < c.nscalars.toNat || c.slots.length ≠ c.nslots.toNat ||
      c.scalars.length ≠ c.nscalars.toNat || (c.joint && c.slots.any fun x => 64 ≤ x.tenant.toNat)
  | .planLoad _ _ c => c = [] || 4096 < c.length
  | .sync sop x => x.a.length < 8 || !sopDefined sop.toNat
  | .invalidate sc _ _ => 3 < sc.toNat
  | .undefined _ => true
  | _ => false

/-- The requests that a connection in setup may carry (R355). -/
def ReqOp.inSetup : ReqOp → Bool
  | .spdm _ | .sessionBind _ => true
  | _ => false

/-- INVALIDATE, which only a privileged connection may send (R33). -/
def ReqOp.isInvalidate : ReqOp → Bool
  | .invalidate _ _ _ => true
  | _ => false

/-- What a request carries beyond its fields is not used. -/
def ReqOp.trim (op : ReqOp) : ReqOp :=
  match op with
  | .write a d => .write a (d.take a.rwLen)
  | .wb a d => .wb a (d.take 128)
  | op => op

/-- The granules of its own connection's requests that an operation is ordered against: those of its ranges; WB is never
held (R159). -/
def ReqOp.orderSpans (op : ReqOp) : List Span :=
  match op with
  | .rdS a | .rdX a | .upg a | .rdNa a => [⟨a.handle.toNat, a.offset.toNat / 128 * 128, 128, 1, 0, 1⟩]
  | .hint _ _ | .kvAlloc _ | .kvFree _ _ | .publish _ _ _ | .republish _ _ _ _ => []
  | op => op.spans

end Sys2Proof

namespace Sys2Proof.Machine

/-! ### Refusals before anything is queued -/

/-- The answer to a request before service: at most one in each microsecond and source address (R400). -/
def State.notReadyAnswer (s : State) (p : Pkt) (op : ReqOp) : State :=
  match s.rateOk 1 p.src with
  | (false, s) => s
  | (true, s) =>
    s.control p.src 0 (.ipt 1 op.code Status.notReady p.conn.toNat p.seq p.reqId 0 0 (BitVec.ofNat 64 s.notReadyUs) []
      (if p.e2e then some (crc32c []) else none) false p.src)

/-- The end-to-end CRC of a request that carries one, over its whole body in plain text, checked by the unit of the arrival port (R252, R270). -/
def State.e2eCheck (s : State) (p : Pkt) (op : ReqOp) : Bool × State :=
  if p.e2e then
    let c := crc32c (op.wire p.tail)
    (p.crc = c, s.crcCompare (5 + p.src.port) p.crc.toNat c.toNat)
  else (true, s)

/-- Requests of a connection in progress, and their body bytes (R265). -/
def State.creditUsed (s : State) (c : Nat) : Nat × Nat :=
  let held := s.held_.filter fun r => r.conn = c && (match r.via with | .rdma _ _ => false | _ => true)
  let mine := fun (e : EgItem) => match e.pkt with
    | .ipt _ _ _ n _ _ _ _ _ _ _ _ _ => n = c
    | .send _ n .. => (match s.qp n with | some q => q.conn = c | none => false)
    | _ => false
  let sent := (s.qos.egr.filter mine).filterMap fun e => e.reqBytes
  (held.length + sent.length, (held.map (·.bodyLen)).sum + sent.sum)

/-- A request exceeds the most recent advertisement of its connection (R265). -/
def State.overCredit (s : State) (c len : Nat) : Bool :=
  match s.conn c with
  | none => false
  | some x =>
    let (n, b) := s.creditUsed c
    x.credReq < n + 1 || x.credKib * 1024 < b + len

/-- BIST is running (R384). -/
def State.bistOn (s : State) : Bool := s.fld R.BST_STATUS_STATE = 1

/-- A discard by the policer (R307). -/
def State.policed (s : State) (t : Nat) : State := (s.count (R.QOS_TSTAT_POLICED.at (0x10 * t))).raise 28 8

/-- An over-contract IPT request: the first in each microsecond on its connection is answered (R307). -/
def State.overContract (s : State) (r : Req) : State :=
  let s := s.policed r.tenant
  match s.conn r.conn with
  | none => s
  | some x =>
    let us := s.now / usCycles
    if x.overUs = some us then s
    else (s.setConn r.conn { x with overUs := some us }).sendAnswer r (mkAns r.op Status.overContract)

/-- µs until DEEP's exit ends (R395). -/
def State.deepLeft (s : State) : Nat := match s.pwr.deepExit with | some t => s.usUntil t | none => 1500

/-! ### The replay cache (R143 to R145) -/

/-- Live entries, and those of a tenant. -/
def State.replayFull (s : State) (t : Nat) : Bool :=
  s.tableFull 262144 s.acc.replay.length (s.acc.replay.filter fun e => e.tenant = t).length t

/-- µs to the earliest expiry among the entries whose responses have been sent; 64 with none. -/
def State.replayHint (s : State) : Nat :=
  match leastOf (s.acc.replay.filterMap fun e => e.expires) with
  | some t => s.usUntil t
  | none => 64

/-- The request that an entry in progress stands for has had ACCEPT. -/
def State.acceptedBefore (s : State) (r : Req) : Bool :=
  let same := fun (q : Req) => q.accepted && q.tenant = r.tenant && q.keyHolder = r.keyHolder && q.keyId = r.keyId
  s.acc.moves.any (fun m => same m.req) || s.seq.calls.any (fun c => same c.req) || s.seq.commits.any (fun c => same c.req) ||
    s.dir.waiters.any (fun w => same w.req) || s.dir.txns.any (fun t => t.req.any same) || s.par.fetches.any (fun x => same x.2.1) ||
    s.pfx.ring.any (fun x => same x.req) || s.syn.waiters.any (fun w => same w.req) || s.parked.any (fun p => same p.req) ||
    s.qos.acq.any (fun x => match x.kind with | .req q => same q | _ => false)

/-- What the replay cache makes of a request: none when it is to be executed. -/
def State.replayJudge (s : State) (r : Req) : Option State :=
  if !r.op.cached then none
  else if (match r.via with | .rdma _ _ => false | _ => s.stale r) then some (s.count R.ACC_REPLAY_STALE)
  else
    match s.replayEntry r with
    | some e =>
      match e.ans with
      | some a => some ((if e.accepted then s.accept r else s).sendAnswer { r with accepted := e.accepted } a)
      | none => some (if s.acceptedBefore r then s.accept r else s)
    | none =>
      if s.replayFull r.tenant then
        some (((s.count R.ACC_REPLAY_FULL).raise 20 9).sendAnswer r (mkAns r.op Status.retryAfter s.replayHint))
      else none

/-- Take an entry for a request that the cache records. -/
def State.replayBegin (s : State) (r : Req) : State := if r.op.cached then s.replayTake r else s

/-- A request that ends before it has begun, with the record of its answer. -/
def State.failNow (s : State) (r : Req) (a : Ans) : State := (s.replayBegin r).respond r a

/-! ### What a request touches -/

/-- Device granules of the ranges and lines of a request, less those of a MOVE, whose chunks touch theirs one by one. -/
def State.reqGranules (s : State) (r : Req) : List Nat :=
  if s.isWindow r then [] else
  match r.op with
  | .move .. | .hint .. => []
  | op => (op.spans ++ op.orderSpans).eraseDups.flatMap fun x =>
      match s.extent (x.handle % 2 ^ 18) with
      | some e => granulesOf (e.addr x.off) x.rowLen
      | none => []

/-- Of some granules, those that are served by a stack, not by a cushion line; reads of granules never written need no
stack. -/
def State.stackGranules (s : State) (gs : List Nat) (reads : Bool) : List Nat :=
  gs.filter fun g => !(s.acc.lines.any fun c => c.line = g / 2) && (!reads || s.written g) && g * 64 < awayBase &&
    !s.pcRetired (pcOf (g * 64))

/-- An operation that only reads. -/
def readsOnly : ReqOp → Bool
  | .read _ | .rdS _ | .rdX _ | .upg _ | .rdNa _ | .ringReduce .. | .ringRoute .. => true
  | _ => false

/-- The stack granules of a request. -/
def State.reqStack (s : State) (r : Req) : List Nat := s.stackGranules (s.reqGranules r) (readsOnly r.op)

/-- The stacks of granules that take no ACCESS command now. -/
def State.nappingOf (s : State) (gs : List Nat) : List Nat :=
  (List.range 8).filter fun n => s.stackNapping n && gs.any fun g => stackOfPc (pcOf (g * 64)) = n

/-- The template of a pseudo-channel meets R146: at least 8 ACCESS slots other than HOT_SLOT, and no cyclic run of more
than 120 slots that are not ACCESS. -/
def State.boundTemplate (s : State) (p : Nat) : Bool :=
  let k := s.tplOf p
  let hot := s.act (R.FTM_TPL_CFG_HOT_SLOT.at (0x80 * k))
  let acc := (List.range 128).map fun i => decide (s.tplSlot k i = 0)
  let n := ((List.range 128).filter fun i => s.tplSlot k i = 0 && i ≠ hot).length
  let run := ((acc ++ acc).foldl (fun (a : Nat × Nat) (x : Bool) => if x then (0, a.2) else (a.1 + 1, max a.2 (a.1 + 1))) (0, 0)).2
  8 ≤ n && run ≤ 120

/-- The granules whose pseudo-channels and stacks bear on the bound of a request: with those of a WB, which never waits for a
stack (R159). -/
def State.boundGranules (s : State) (r : Req) : List Nat :=
  match r.op with
  | .wb a _ => (match s.extent (a.handle.toNat % 2 ^ 18) with
    | some e => granulesOf (e.addr (a.offset.toNat / 128 * 128)) 128
    | none => [])
  | _ => s.reqGranules r

/-- R146 bounds the answer of a request. -/
def State.isBound (s : State) (r : Req) : Bool :=
  let gs := s.boundGranules r
  !s.deep && s.nappingOf gs = [] && ((gs.map fun g => pcOf (g * 64)).eraseDups.all fun p => s.boundTemplate p)

/-! ### Order within a connection and a queue pair (R130 to R132) -/

/-- Two requests of one connection touch a common granule. -/
def Req.meets (r q : Req) : Bool := r.op.orderSpans.any fun x => q.op.orderSpans.any fun y => x.meets y

/-- Requests that came before place `n` in the order of arrival and have not taken effect: waiting in the access queues, for lines,
for write queues, for other devices, and bulk moves and ring operators under way. -/
def State.ahead (s : State) (n : Nat) : List Req :=
  ((s.qos.acq.filterMap fun x => match x.kind with | .req q => some q | _ => none) ++
    (s.dir.waiters.map (·.req)) ++ (s.dir.txns.filterMap fun t => if t.grant.isSome then none else t.req) ++
    (s.par.fetches.map (·.2.1)) ++ s.engineReqs ++ s.ringWaits ++
    (s.acc.moves.filterMap fun m => if m.fate.isNone || s.ringOwes m.key then some m.req else none) ++
    (s.acc.rdma.map (·.req)) ++ s.pfx.ring.map (·.req)).filter fun q => q.ord < n

/-- A request must wait for one of its own connection or queue pair. A queue pair's answers leave in PSN order: a request also
waits for those whose answers are held back (R132). -/
def State.ordered (s : State) (r : Req) : Bool :=
  match r.via with
  | .rdma n _ => (s.ahead r.ord ++ (s.parked.map (·.req)).filter fun q => q.ord < r.ord).any fun q =>
      q.via ≠ r.via && (match q.via with | .rdma m _ => m = n | _ => false)
  | _ => (s.ahead r.ord).any fun q =>
      q.conn = r.conn && (match q.via with | .rdma _ _ => false | _ => true) && r.meets q && !(r.op.cohOp && q.op.cohOp)

/-- A request must wait before it begins: behind a FENCE, for a napping stack, for its order. -/
def State.mustHold (s : State) (r : Req) : Bool :=
  r.op ≠ .fence && ((match r.via with | .rdma _ _ => false | _ => s.fenced r.conn r.ord) || s.nappingOf (s.reqStack r) ≠ [] || s.ordered r)

/-- The cost of a request (Table 14.1). -/
def Req.cost (r : Req) : Nat := r.op.cost r.bodyLen

/-- Hold a request in its tenant's access queue, with the demand for the stacks that it needs (R220). -/
def State.hold (s : State) (r : Req) : State :=
  let s := (s.nappingOf (s.reqStack r)).foldl (fun s n => s.demandStack n) s
  let (key, s) := s.newKey
  s.acqPush ⟨key, r.tenant, r.cost, s.now, .req r⟩

/-! ### Beginning -/

/-- Some set's record of the running frame has passed its limit in `t` and not in `s` (R325). -/
def State.recordOver (s t : State) : Bool :=
  [0, 1].any fun k =>
    t.standby k && !(t.pset k).filling && (s.pset k).log ≠ [] && s.recordLimit < recordUnits (t.pset k).log &&
      recordUnits (s.pset k).log < recordUnits (t.pset k).log

/-- A request begins: the replay cache judges it and takes its entry, then it performs its operation; none when its change
must wait for the next frame's record. -/
def State.tryStart (s : State) (r : Req) : Option State :=
  match s.replayJudge r with
  | some t => some t
  | none =>
    let t := (s.replayBegin r).perform r
    if s.recordOver t then none else some t

/-- A request begins, or waits. -/
def State.start (s : State) (r : Req) : State :=
  if s.mustHold r then s.hold r
  else match s.tryStart r with
    | some t => t
    | none => s.hold r

/-- What a request's queue-time checks refuse at once (R267: R35, R108, R111, R129), although it has the FENCE flag: the state with
its RESPONSE, or none when they pass. -/
def State.refusedNow (s : State) (r : Req) : Option State :=
  let t := (s.replayBegin r).perform r
  let passed : Bool := match r.op with
    | .call _ => s.seq.calls.length < t.seq.calls.length
    | .planCommit .. => s.seq.commits.length < t.seq.commits.length
    | .invalidate .. => s.xlt.invals.length < t.xlt.invals.length
    | .move .. => s.acc.moves.length < t.acc.moves.length
    | _ => true
  if passed then none else some t

/-- A request whose checks have passed: the weights of strict mode (R315), the depth of its pseudo-channels (R316), and the
FENCE flag (R131, R267). -/
def State.enter (s : State) (r : Req) : State :=
  if s.strict ∧ (s.accWeight r.tenant = 0 ∨ s.egrWeight r.tenant = 0) ∧ r.op.code ≠ 0x62 then
    let s := s.count (R.QOS_TSTAT_REFUSED.at (0x10 * r.tenant))
    let say := fun (s : State) (p : OutPkt) => s.egPush r.src.port r.src.sub none (some r.bodyLen) r.boundFrom 0 p
    match r.via with
    | .rdma q psn => ((say s (.roceRnr r.src q psn (rnrCode 1000))).qpFlush q).qpUp q fun x => { x with rxPsn := psn }
    | .send q => say s (.send r.src q none 1 r.op.code Status.retryAfter r.seq r.reqId 0 0 1000 []
        (if r.e2e then some (crc32c []) else none) r.enc)
    | .ipt | .ring _ => say s (.ipt 1 r.op.code Status.retryAfter r.conn r.seq r.reqId 0 0 1000 []
        (if r.e2e then some (crc32c []) else none) r.enc r.src)
  else if s.depthRefuses r.tenant (s.reqStack r) then (s.overload r.tenant).refuse r Status.retryAfter 2
  else if r.fence ∧ r.op ≠ .fence ∧ s.outstanding r.conn r.ord then
    match s.refusedNow r with
    | some t => t
    | none =>
      let s := s.accept r
      let r := { r with accepted := true }
      let (key, s) := s.newKey
      let s := s.accUp fun a => { a with fences := a.fences ++ [(key, r)] }
      s.hold r
  else s.start r

/-- The queue-time checks of R29 for a request that names ranges or a coherent line. -/
def State.checkAndEnter (s : State) (r : Req) : State :=
  match r.op with
  | .rdS a | .rdX a | .upg a | .rdNa a =>
    match s.cohCheck r a with
    | (s, .error x) => s.failNow r x
    | (s, .ok _) => s.enter { r with checked := true }
  | .wb a _ =>
    match s.wbFails r a with
    | some x => s.failNow r x
    | none => s.enter r
  | op =>
    if op.spans = [] ∨ s.isWindow r then s.enter r
    else
      match s.checkReq r with
      | (s, .error a) => s.failNow r a
      | (s, .ok _) => s.enter { r with checked := true }

/-- A request that has passed the policer. -/
def State.admitReq (s : State) (setup : Bool) (r : Req) : State :=
  if setup && !r.op.inSetup then s.failNow r (mkAns r.op Status.noRights)
  else match s.replayJudge r with
    | some t => t
    | none =>
      if r.op.malformed || (r.op.isInvalidate && !s.privileged r) then s.failNow r (mkAns r.op Status.noRights)
      else if s.limitRefuses r then (s.overload r.tenant).refuse r Status.retryAfter 1
      else s.checkAndEnter r

/-- A request that has passed the policer: R146 bounds its answer from its arrival on. -/
def State.boundReq (s : State) (r : Req) : Req := { r with bound := if s.isBound r then some r.arrived else none }

/-- A request whose packet has been accepted: DEEP (R395), the policer, BIST (R384). -/
def State.judge (s : State) (setup : Bool) (r : Req) : State :=
  if s.deep ∧ r.op.code ≠ 0x62 then
    let s := s.startDeepExit
    s.sendAnswer r (mkAns r.op Status.retryAfter s.deepLeft)
  else
    match s.police r.src.port r.tenant r.cost with
    | (false, s) => s.overContract r
    | (true, s) =>
      let r := s.boundReq r
      if s.bistOn then s.sendAnswer r (mkAns r.op Status.notReady 1000) else s.admitReq setup r

/-- An operation that acts as though its FENCE flag were set (R177). -/
def fencing : ReqOp → Bool
  | .publish .. | .republish .. => true
  | _ => false

/-- The request that a packet carries on a connection. -/
def reqOf (p : Pkt) (x : Conn) (op : ReqOp) (now ord : Nat) : Req :=
  ⟨.ipt, p.conn.toNat, x.holder, x.tenant, p.src, p.seq, p.reqId, p.e2e, x.session.isSome, p.fence || fencing op,
    (op.wire p.tail).length, now, false, [], [], none, none, false, false, false, none, none, op.trim, ord⟩

/-- An IPT REQUEST arrives. -/
def State.submit (s : State) (p : Pkt) (op : ReqOp) : State :=
  let len := (op.wire p.tail).length
  if !s.inService then
    match s.iptIn p len with
    | (s, false) => s
    | (s, true) => s.notReadyAnswer p op
  else
    match s.takePkt p len with
    | (s, none) => s
    | (s, some x) =>
      match s.e2eCheck p op with
      | (false, s) => s
      | (true, s) =>
        if s.overCredit p.conn.toNat len then s.drop p.src.port R.PRT_DROPS_CREDIT
        else (s.newKey.2.judge x.setup (reqOf p x op s.now s.acc.nextKey)).runReady

/-! ### The access scheduler (R310, R311, R314, R391) -/

/-- The chunk that a bulk move copies next needs no napping stack. -/
def State.chunkAwake (s : State) (key : Nat) : Bool :=
  match s.findMove key with
  | some m =>
    let (a, b, c) := m.chunk
    s.nappingOf (s.stackGranules (granulesOf a c) true ++ s.stackGranules (granulesOf b c) false) = []
  | none => true

/-- Ask for the stacks of a bulk move's next chunk. -/
def State.chunkDemand (s : State) (key : Nat) : State :=
  match s.findMove key with
  | some m =>
    let (a, b, c) := m.chunk
    (s.nappingOf (s.stackGranules (granulesOf a c) true ++ s.stackGranules (granulesOf b c) false)).foldl
      (fun s n => s.demandStack n) s
  | none => s

/-- An item may be dispatched to a free engine of the kind: a bulk-move engine takes chunks, an access engine requests. -/
def State.canDispatch (s : State) (moves : Bool) (x : AccItem) : Bool :=
  match x.kind with
  | .move key => moves && s.chunkAwake key
  | .req r => !moves && !s.mustHold r && (s.tryStart r).isSome
  | .rdma _ => false

/-- The item that a tenant's queue offers. -/
def State.offerOf (s : State) (moves : Bool) (t : Nat) : Option AccItem :=
  s.qos.acq.find? fun x => x.tenant = t && s.canDispatch moves x

/-- Dispatch an item: a request begins, and a chunk of a MOVE is a bulk-move engine's to copy. -/
def State.dispatch (s : State) (x : AccItem) : State :=
  let s := s.acqTake x
  match x.kind with
  | .req r => match s.tryStart r with | some t => t.runReady | none => s
  | .move key => s.accUp fun a => { a with moves := mapIf (fun m => m.key = key) (fun m => { m with issued := true }) a.moves }
  | .rdma _ => s

/-- The tenants that offer something. -/
def State.offering (s : State) (moves : Bool) : List Nat := (List.range 64).filter fun t => (s.offerOf moves t).isSome

/-- The number of the CK_AC cycle at hand within the frame: three in each CK_FT cycle. -/
def State.acCycle (s : State) : Nat := 3 * ((s.now - s.frameStart) % frameCycles)

/-- Level 8 leaves the access scheduler 8 of every 16 cycles: the first 8. -/
def State.acAllowed (s : State) (c : Nat) : Bool := s.fld R.PWR_STATUS_LEVEL ≠ 8 || c % 16 < 8

/-- Cycles until one in which `ok` holds, from cycle `c` of the frame on. -/
def cyclesTo (ok : Nat → Bool) (c : Nat) : Option Nat := (List.range 1024).find? fun j => ok ((c + j) % (3 * frameCycles))

/-- ACCESS_DISPATCH: the choice of R311, or in strict mode the tenant whose dispatch cycle comes next (R314). -/
def State.accessDispatch (s : State) (moves : Bool) : State :=
  let l := s.offering moves
  if l = [] then s
  else if s.strict then
    let seq := s.wrrSeq
    let ok := fun c => s.acAllowed c && l.contains (seq.getD (c % 256) 64)
    match cyclesTo ok s.acCycle with
    | none => s
    | some j =>
      let t := seq.getD ((s.acCycle + j) % (3 * frameCycles) % 256) 64
      let s := s.toTime (s.now + j / 3)
      match s.offerOf moves t with
      | some x => s.dispatch x
      | none => s
  else
    match chooseTenant l s.accWeight (fun t => mgetD s.qos.fAcc t 0) s.qos.prioAcc, cyclesTo s.acAllowed s.acCycle with
    | some t, some j =>
      match s.offerOf moves t with
      | some x =>
        let s := s.toTime (s.now + j / 3)
        let s := s.qosUp fun q => { q with
          vAcc := if s.accWeight t = 0 then q.vAcc else max q.vAcc (mgetD q.sAcc t 0)
          prioAcc := (q.prioAcc + 1) % 64 }
        s.dispatch x
      | none => s
    | _, _ => s

/-- MOVE_CHUNK: a chunk that needs a napping stack waits for it. -/
def execMoveChunk (key : Nat) (s : State) : Out :=
  .next (if s.chunkAwake key then (s.moveChunk key).runReady else s.chunkDemand key)

end Sys2Proof.Machine
end

