-- ==== Sys2Proof/Machine/Roce.lean ====
section
/-! DEFINITION. The RoCEv2 responder (R257, R272 to R275, R132, R307): RDMA READ and WRITE, the atomics, SEND, and the
pausing of a priority whose receive buffer fills. -/

namespace Sys2Proof.Machine

/-! ### Taking a packet -/

/-- Send a packet of the responder to the source of a request. -/
def State.roceSay (s : State) (src : Src) (tenant : Nat) (p : OutPkt) : State :=
  s.egPush src.port src.sub (some tenant) none none 0 p

/-- NAK Invalid Request, and the error state (R272, R274). -/
def State.roceInvalid (s : State) (p : QPkt) (q : Qp) : State :=
  (s.roceSay p.src q.tenant (.roceNak p.src p.qpn.toNat p.psn.toNat 2)).qpError p.qpn.toNat

/-- PSN `a` lies before `b`. -/
def psnBefore (a b : Nat) : Bool := a ≠ b && psnLe a b

/-- A RoCEv2 datagram is accepted: its frame and datagram (R256), and its ICRC, P_Key and transport (R272); any other is
discarded and counted. -/
def State.roceOk (s : State) (p : QPkt) : State × Bool :=
  match s.udpIn p.src 4791 with
  | (s, false) => (s, false)
  | (s, true) =>
    if p.icrcOk ∧ p.pkey = 0xFFFF ∧ p.op ≠ .unsupported then (s, true) else (s.drop p.src.port R.PRT_DROPS_UNKNOWN, false)

/-- A request before service is answered with an RNR NAK, one in each microsecond and source address (R400). -/
def State.roceNotReady (s : State) (p : QPkt) : State :=
  match s.rateOk 1 p.src with
  | (false, s) => s
  | (true, s) => s.control p.src 0 (.roceRnr p.src p.qpn.toNat p.psn.toNat (rnrCode s.notReadyUs))

/-- A request of a queue pair arrives: its queue pair, its credit, DEEP, the policer, BIST, its PSN, then its operation. `new`
takes the expected request, `dup` one that came before. -/
def State.roceIn (s : State) (p : QPkt) (cost : Nat) (over_ : Qp → Bool) (new dup : State → Qp → State) : State :=
  let n := p.qpn.toNat
  let psn := p.psn.toNat
  match s.roceOk p with
  | (s, false) => s
  | (s, true) =>
    if !s.inService then s.roceNotReady p
    else
      match s.qp n with
      | none => s.drop p.src.port R.PRT_DROPS_UNKNOWN
      | some q =>
        if q.error ∨ q.destroying then s
        else if over_ q then s.drop p.src.port R.PRT_DROPS_CREDIT
        else
          let q := { q with src := p.src }
          let s := s.setQp n q
          let rnr := fun (s : State) (us : Nat) => s.roceSay p.src q.tenant (.roceRnr p.src n psn (rnrCode us))
          if s.deep then rnr s.startDeepExit s.deepLeft
          else
            match s.police p.src.port q.tenant cost with
            | (false, s) => s.policed q.tenant
            | (true, s) =>
              if s.bistOn then rnr s 1000
              else if psn = q.rxPsn then (if p.op = .named then new s q else s.roceInvalid p q)
              else if psnBefore psn q.rxPsn then dup s q
              else s.roceSay p.src q.tenant (.roceNak p.src n q.rxPsn 1)

/-- The request that an RDMA or atomic packet stands for. -/
def rdmaReq (p : QPkt) (q : Qp) (op : ReqOp) (len now ord : Nat) : Req :=
  ⟨.rdma p.qpn.toNat p.psn.toNat, q.conn, q.holder, q.tenant, p.src, 0, 0, false, false, false, len, now, false, [], [],
    none, none, false, false, false, none, none, op, ord⟩

/-- The expected PSN moves past `n` packets. -/
def State.psnPast (s : State) (qpn n : Nat) : State := s.qpUp qpn fun q => { q with rxPsn := (q.rxPsn + n) % 2 ^ 24 }

/-- RDMA READs and atomics of a queue pair in progress (R272). -/
def State.resources (s : State) (qpn : Nat) : Nat :=
  (s.held_.filter fun r => (match r.via with | .rdma n _ => n = qpn | _ => false) &&
    (match r.op with | .write _ _ => false | _ => true)).length

/-- A message's whole range is checked, then its first chunk is queued (R29, R124, R316). -/
def State.roceEnter (s : State) (r : Req) (x : Span) : State :=
  if s.limitRefuses r then (s.overload r.tenant).refuse r Status.retryAfter 1
  else
    match s.tick.checkSpan (s.engineOf r) r x 0 with
    | (s, .error a) => s.failNow r a
    | (s, .ok _) => s.enter { r with checked := true }

/-! ### RDMA READ (R124, R307) -/

/-- An RDMA READ begins: its first chunk, and an entry for the rest. -/
def State.readStart (s : State) (p : QPkt) (q : Qp) (rkey : BitVec 32) (va : BitVec 64) (len : Nat) : State :=
  let off := va.toNat
  let c := firstChunk off len
  let r := rdmaReq p q (.read ⟨rkey, BitVec.ofNat 32 (c - 1), va⟩) 0 s.now s.acc.nextKey
  let s := s.newKey.2
  if len = 0 then
    match s.tick.checkSpan (s.engineOf r) r ⟨rkey.toNat, off, 0, 1, 0, 1⟩ 0 with
    | (s, .error a) => s.respond r a
    | (s, .ok _) => s.respond r (mkAns r.op Status.ok)
  else
    let s := if c = len then s
      else
        let (key, s) := s.newKey
        s.accUp fun a => { a with rdma := a.rdma ++ [⟨key, r, off + c, len - c, p.psn.toNat, []⟩] }
    s.roceEnter r ⟨rkey.toNat, off, len, 1, 0, 1⟩

/-- RDMA_READ. -/
def State.rdmaRead (s : State) (p : QPkt) (rkey : BitVec 32) (va : BitVec 64) (len : Nat) : State :=
  let n := p.qpn.toNat
  s.roceIn p (64 + min len 4096) (fun _ => false)
    (fun s q =>
      if 2 ^ 31 < len ∨ 16 ≤ s.resources n then s.roceInvalid p q
      else (s.psnPast n (packetCount (s.mtuOf n) len)).readStart p q rkey va len)
    (fun s q =>
      let busy := fun (r : Req) => r.via = .rdma n p.psn.toNat
      if 2 ^ 31 < len ∨ s.held_.any busy ∨ s.acc.rdma.any (fun m => busy m.req) then s
      else s.readStart p q rkey va len)

/-- RDMA_READ. -/
def execRdmaRead (r : QPkt) (rkey : BitVec 32) (va : BitVec 64) (len : BitVec 32) (s : State) : Out :=
  .next ((s.rdmaRead r rkey va len.toNat).runReady.pfcCheck r.src.port r.src.sub)

/-- A later chunk of an RDMA READ waits for its tokens, takes them and is executed. -/
def State.readChunk (s : State) (key : Nat) : State :=
  match s.acc.rdma.find? (fun x => x.key = key), s.qos.acq.find? (fun y => y.kind = .rdma key) with
  | some x, some item =>
    let h := match x.req.op.firstAddr with | some a => a.handle | none => 0
    let c := min 4096 x.left
    let op : ReqOp := .read ⟨h, BitVec.ofNat 32 (c - 1), BitVec.ofNat 64 x.off⟩
    let r : Req := { x.req with checked := true, txns := [], fetched := [], op := op }
    let nap := s.nappingOf (s.reqStack r)
    if nap ≠ [] then nap.foldl (fun s n => s.demandStack n) s
    else
      let s := (s.toTime (s.policeAt x.req.src.port x.req.tenant 4096)).acqTake item
      let s := (s.police x.req.src.port x.req.tenant 4096).2
      if !s.stillOpen r h.toNat ∨ (mget s.acc.stops key).isSome then
        (s.accUp fun a => { a with stops := mdel a.stops key }).refuse r (mgetD s.acc.stops key Status.revoked)
      else
        let past := fun (y : RdmaRead) => { y with off := y.off + c, left := y.left - c }
        let s := s.accUp fun a => { a with rdma := mapIf (fun y => y.key = key) past a.rdma }
        s.perform r
  | none, some item => s.acqTake item
  | _, none => s

/-- RDMA_READ_CHUNK. -/
def execRdmaReadChunk (key : Nat) (s : State) : Out := .next (s.readChunk key).runReady.pfcAll

/-! ### RDMA WRITE and the atomics -/

/-- RDMA_WRITE: a message; a duplicate is acknowledged again, once the message itself has been. -/
def State.rdmaWrite (s : State) (p : QPkt) (rkey : BitVec 32) (va : BitVec 64) (data : List Byte) : State :=
  let n := p.qpn.toNat
  let len := data.length
  let pk := packetCount (s.mtuOf n) len
  s.roceIn p (64 * pk + len) (fun _ => false)
    (fun s q =>
      if 2 ^ 31 < len then s.roceInvalid p q
      else
        let r := rdmaReq p q (.write ⟨rkey, 0, va⟩ data) len s.now s.acc.nextKey
        (s.newKey.2.psnPast n pk).roceEnter r ⟨rkey.toNat, va.toNat, len, 1, 0, 2⟩)
    (fun s q =>
      if s.held_.any fun r => r.via = .rdma n p.psn.toNat then s       -- its original has not been answered
      else s.roceSay p.src q.tenant (.roceAck p.src n ((p.psn.toNat + pk - 1) % 2 ^ 24)))

/-- RDMA_WRITE. -/
def execRdmaWrite (r : QPkt) (rkey : BitVec 32) (va : BitVec 64) (data : List Byte) (s : State) : Out :=
  .next ((s.rdmaWrite r rkey va data).runReady.pfcCheck r.src.port r.src.sub)

/-- A RoCEv2 atomic; a duplicate is answered from the replay cache, absorbed while its original waits, or discarded once its
entry has expired (R145). -/
def State.rdmaAtomic (s : State) (p : QPkt) (va : BitVec 64) (op : ReqOp) : State :=
  let n := p.qpn.toNat
  s.roceIn p 64 (fun _ => false)
    (fun s q =>
      if va.toNat % 8 ≠ 0 ∨ 16 ≤ s.resources n then s.roceInvalid p q
      else
        let r := rdmaReq p q op 0 s.now s.acc.nextKey
        (s.newKey.2.psnPast n 1).roceEnter r (op.spans.headD ⟨0, 0, 0, 1, 0, 4⟩))
    (fun s q =>
      let r := rdmaReq p q op 0 s.now 0
      if (s.replayEntry r).isSome then (s.replayJudge r).getD s
      else if s.held_.any fun h => h.via = r.via then s              -- its original has not begun
      else s.count R.ACC_REPLAY_STALE)

/-- ATOMIC_CMPSWAP: an 8-byte CAS. -/
def execAtomicCmpswap (r : QPkt) (rkey : BitVec 32) (va : BitVec 64) (cmp swp : Word64) (s : State) : Out :=
  .next ((s.rdmaAtomic r va (.cas ⟨rkey, 1, va⟩ (leBytes 8 cmp.toNat) (leBytes 8 swp.toNat))).runReady.pfcCheck
    r.src.port r.src.sub)

/-- ATOMIC_FETCHADD: an 8-byte FETCH_ADD. -/
def execAtomicFetchadd (r : QPkt) (rkey : BitVec 32) (va : BitVec 64) (x : Word64) (s : State) : Out :=
  .next ((s.rdmaAtomic r va (.fetchAdd ⟨rkey, 1, va⟩ (leBytes 8 x.toNat))).runReady.pfcCheck r.src.port r.src.sub)

/-! ### SEND (R274) -/

/-- The bytes of a SEND that carries one IPT REQUEST with a body of `len` bytes. -/
def sendLen (p : Pkt) (len : Nat) : Nat := 32 + len + bit01 p.e2e 4 + bit01 p.enc 24

/-- The request of a SEND, on the connection that created its queue pair: discarded where that connection has closed (R268), where
session encryption refuses it (R269), or where its end-to-end CRC does not match (R270). -/
def State.sendReq (s : State) (q : QPkt) (p : Pkt) (x : Qp) (op : ReqOp) : State :=
  match s.conn x.conn with
  | none => s
  | some c =>
    if !c.encOk p then s.drop q.src.port R.PRT_DROPS_MACSEC
    else
      let c := { c.took p with src := c.src }
      let p := { p with src := q.src, conn := BitVec.ofNat 16 x.conn }
      match (s.setConn x.conn c).e2eCheck p op with
      | (false, s) => s
      | (true, s) =>
        let r : Req := { reqOf p c op s.now s.acc.nextKey with via := .send q.qpn.toNat }
        let s := s.newKey.2
        s.admitReq c.setup (s.boundReq r)

/-- SEND: one IPT REQUEST of at most 8,192 bytes, header and body, executed as though it had come on the connection that
created the queue pair; anything else completes with NAK Invalid Request (R274). -/
def State.sendIn (s : State) (q : QPkt) (p : Pkt) (isRequest : Bool) (op : ReqOp) : State :=
  let n := q.qpn.toNat
  let len := (op.wire p.tail).length
  let pk := packetCount (s.mtuOf n) (sendLen p len)
  let ack := fun (s : State) (x : Qp) => s.roceSay q.src x.tenant (.roceAck q.src n ((q.psn.toNat + pk - 1) % 2 ^ 24))
  s.roceIn q (64 + sendLen p len) (fun x => s.overCredit x.conn len)
    (fun s x =>
      if !isRequest ∨ 8192 < 32 + len ∨ p.ver ≠ 1 ∨ p.len.toNat ≠ len then s.roceInvalid q x
      else (ack (s.psnPast n pk) x).sendReq q p x op)
    ack

/-- SEND. -/
def execSend (r : QPkt) (p : Pkt) (isRequest : Bool) (op : ReqOp) (s : State) : Out :=
  .next ((s.sendIn r p isRequest op).runReady.pfcCheck r.src.port r.src.sub)

/-- ACCESS_DISPATCH. -/
def execAccessDispatch (moveEngine : Bool) (s : State) : Out := .next (s.accessDispatch moveEngine).pfcAll

end Sys2Proof.Machine
end

