-- ==== Sys2Proof/Machine/RegRows.lean ====
section
/-! DEFINITION. The rows that are register writes (chapter 19): each is a write of the register word that its row names,
with the bit that makes it that command. -/

namespace Sys2Proof.Machine

/-- GO. -/
def goBit : Word64 := 0x8000000000000000

/-- A word of `XLT_CMD` with GO and an operation code. -/
def withOp (w : Word64) (op : Nat) : Word64 := (w &&& ~~~(BitVec.ofNat 64 15)) ||| BitVec.ofNat 64 op ||| goBit

/-- A write of the window by a core or in-band, and what it frees. -/
def State.regRow (s : State) (src : RegSrc) (off : Nat) (w : Word64) : State := (s.regWrite src off w false).runReady

/-- REGISTER_WRITE. -/
def execRegisterWrite (src : RegSrc) (off : Nat) (w : Word64) (s : State) : Out := .next (s.busWrite src off w).runReady

/-- APPLY: `PG_CTRL` of the page. -/
def execApply (src : RegSrc) (page : Nat) (s : State) : Out := .next (s.regRow src (page % 0x1000 * 0x1000 + 0x10) 1)

/-- DISCARD. -/
def execDiscard (src : RegSrc) (page : Nat) (s : State) : Out := .next (s.regRow src (page % 0x1000 * 0x1000 + 0x10) 2)

/-- PG_EVT_STATUS_CLEAR. -/
def execPgEvtStatusClear (src : RegSrc) (page : Nat) (w : Word64) (s : State) : Out :=
  .next (s.regRow src (page % 0x1000 * 0x1000 + 0x20) w)

/-- PG_EVT_FORCE. -/
def execPgEvtForce (src : RegSrc) (page : Nat) (w : Word64) (s : State) : Out :=
  .next (s.regRow src (page % 0x1000 * 0x1000 + 0x30) w)

/-- PG_LOCK. -/
def execPgLock (src : RegSrc) (page : Nat) (w : Word64) (s : State) : Out :=
  .next (s.regRow src (page % 0x1000 * 0x1000 + 0x50) w)

/-- APPLY_ALL: `GLB_CTRL`. -/
def execApplyAll (src : RegSrc) (s : State) : Out := .next (s.regRow src 0x108 1)

/-- DISCARD_ALL. -/
def execDiscardAll (src : RegSrc) (s : State) : Out := .next (s.regRow src 0x108 2)

/-- CLEAR: `GLB_CLOG_CTRL`. -/
def execClear (src : RegSrc) (s : State) : Out := .next (s.regRow src 0x120 1)

/-- FRD_RETIRE with GO. -/
def execFrdRetire (src : RegSrc) (w : Word64) (s : State) : Out := .next (s.regRow src 0x12110 (w ||| goBit))

/-- SMC_RETIRE with GO. -/
def execSmcRetire (src : RegSrc) (stack : Nat) (w : Word64) (s : State) : Out :=
  .next (s.regRow src (0x20110 + 0x1000 * (stack % 8)) (w ||| goBit))

/-- DIR_KICK with GO. -/
def execDirKick (src : RegSrc) (w : Word64) (s : State) : Out := .next (s.regRow src 0x15128 (w ||| goBit))

/-- CREATE: `XLT_CMD` with OP 1. -/
def execCreate (src : RegSrc) (w : Word64) (s : State) : Out := .next (s.regRow src 0x13110 (withOp w 1))

/-- GRANT. -/
def execGrant (src : RegSrc) (w : Word64) (s : State) : Out := .next (s.regRow src 0x13110 (withOp w 2))

/-- UNGRANT. -/
def execUngrant (src : RegSrc) (w : Word64) (s : State) : Out := .next (s.regRow src 0x13110 (withOp w 3))

/-- SET_TRIGHTS. -/
def execSetTrights (src : RegSrc) (w : Word64) (s : State) : Out := .next (s.regRow src 0x13110 (withOp w 4))

/-- REVOKE. -/
def execRevoke (src : RegSrc) (w : Word64) (s : State) : Out := .next (s.regRow src 0x13110 (withOp w 5))

/-- RELEASE. -/
def execRelease (src : RegSrc) (w : Word64) (s : State) : Out := .next (s.regRow src 0x13110 (withOp w 6))

/-- UNQUARANTINE. -/
def execUnquarantine (src : RegSrc) (w : Word64) (s : State) : Out := .next (s.regRow src 0x13110 (withOp w 7))

/-- XLT_NOP: `XLT_CMD` with OP 0. -/
def execXltNop (src : RegSrc) (w : Word64) (s : State) : Out := .next (s.regRow src 0x13110 (withOp w 0))

/-- REVOKE_COMPLETE. -/
def execRevokeComplete (index : Nat) (s : State) : Out := .next (s.revokeEnd index).runReady

/-- XLT_MFQ_POP with POP. -/
def execXltMfqPop (src : RegSrc) (w : Word64) (s : State) : Out := .next (s.regRow src 0x13148 (w ||| 1))

/-- XLT_MFQ_STATUS with FAULT_LOST written 1. -/
def execXltMfqFaultLostClear (src : RegSrc) (w : Word64) (s : State) : Out := .next (s.regRow src 0x13140 (w ||| 0x800))

/-- RawRegister. -/
def execRedfishRawRegister (conn off : Nat) (value : Option Word64) (s : State) : Out :=
  .next (s.rawRegister conn off value).runReady

end Sys2Proof.Machine
end

