-- ==== Sys2Proof/Machine/Requests.lean ====
section
/-! DEFINITION. The rows that are IPT requests: each gives its packet and body to `State.submit` (Table 12.3). -/

namespace Sys2Proof.Machine

/-! ### The access plane (chapter 6) -/

/-- READ. -/
def execRead (p : Pkt) (a : Addr) (s : State) : Out := .next (s.submit p (.read a))

/-- WRITE. -/
def execWrite (p : Pkt) (a : Addr) (data : List Byte) (s : State) : Out := .next (s.submit p (.write a data))

/-- SWAP. -/
def execSwap (p : Pkt) (a : Addr) (x : List Byte) (s : State) : Out := .next (s.submit p (.swap a x))

/-- FETCH_ADD. -/
def execFetchAdd (p : Pkt) (a : Addr) (x : List Byte) (s : State) : Out := .next (s.submit p (.fetchAdd a x))

/-- FETCH_AND. -/
def execFetchAnd (p : Pkt) (a : Addr) (x : List Byte) (s : State) : Out := .next (s.submit p (.fetchAnd a x))

/-- FETCH_OR. -/
def execFetchOr (p : Pkt) (a : Addr) (x : List Byte) (s : State) : Out := .next (s.submit p (.fetchOr a x))

/-- FETCH_XOR. -/
def execFetchXor (p : Pkt) (a : Addr) (x : List Byte) (s : State) : Out := .next (s.submit p (.fetchXor a x))

/-- FETCH_SMIN. -/
def execFetchSmin (p : Pkt) (a : Addr) (x : List Byte) (s : State) : Out := .next (s.submit p (.fetchSmin a x))

/-- FETCH_SMAX. -/
def execFetchSmax (p : Pkt) (a : Addr) (x : List Byte) (s : State) : Out := .next (s.submit p (.fetchSmax a x))

/-- FETCH_UMIN. -/
def execFetchUmin (p : Pkt) (a : Addr) (x : List Byte) (s : State) : Out := .next (s.submit p (.fetchUmin a x))

/-- FETCH_UMAX. -/
def execFetchUmax (p : Pkt) (a : Addr) (x : List Byte) (s : State) : Out := .next (s.submit p (.fetchUmax a x))

/-- ACCUM. -/
def execAccum (p : Pkt) (a : Addr) (x : List Byte) (s : State) : Out := .next (s.submit p (.accum a x))

/-- CAS. -/
def execCas (p : Pkt) (a : Addr) (cmp swp : List Byte) (s : State) : Out := .next (s.submit p (.cas a cmp swp))

/-- ACCUM_RC. -/
def execAccumRc (p : Pkt) (a shadow : Addr) (x : List Byte) (s : State) : Out := .next (s.submit p (.accumRc a shadow x))

/-- MOVE. -/
def execMove (p : Pkt) (src dst : Addr) (rowLen rows : BitVec 32) (srcStride dstStride : BitVec 64) (s : State) : Out :=
  .next (s.submit p (.move src dst rowLen rows srcStride dstStride))

/-- HINT. -/
def execHint (p : Pkt) (a : Addr) (b : BitVec 8) (s : State) : Out := .next (s.submit p (.hint a b))

/-- FENCE. -/
def execFence (p : Pkt) (s : State) : Out := .next (s.submit p (.fence))

/-! ### Coherence (chapter 7) -/

/-- COH_JOIN. -/
def execCohJoin (p : Pkt) (credits : BitVec 16) (s : State) : Out := .next (s.submit p (.cohJoin credits))

/-- COH_LEAVE. -/
def execCohLeave (p : Pkt) (s : State) : Out := .next (s.submit p (.cohLeave))

/-- RD_S. -/
def execRdS (p : Pkt) (a : Addr) (s : State) : Out := .next (s.submit p (.rdS a))

/-- RD_X. -/
def execRdX (p : Pkt) (a : Addr) (s : State) : Out := .next (s.submit p (.rdX a))

/-- UPG. -/
def execUpg (p : Pkt) (a : Addr) (s : State) : Out := .next (s.submit p (.upg a))

/-- RD_NA. -/
def execRdNa (p : Pkt) (a : Addr) (s : State) : Out := .next (s.submit p (.rdNa a))

/-- WB. -/
def execWb (p : Pkt) (a : Addr) (data : List Byte) (s : State) : Out := .next (s.submit p (.wb a data))

/-! ### KV-cache and embedding services (chapter 8) -/

/-- KV_ALLOC. -/
def execKvAlloc (p : Pkt) (handle : BitVec 32) (s : State) : Out := .next (s.submit p (.kvAlloc handle))

/-- KV_FREE. -/
def execKvFree (p : Pkt) (handle block : BitVec 32) (s : State) : Out := .next (s.submit p (.kvFree handle block))

/-- PUBLISH. -/
def execPublish (p : Pkt) (handle block : BitVec 32) (key : BitVec 128) (s : State) : Out :=
  .next (s.submit p (.publish handle block key))

/-- REPUBLISH. -/
def execRepublish (p : Pkt) (handle block : BitVec 32) (key : BitVec 128) (version : BitVec 32) (s : State) : Out :=
  .next (s.submit p (.republish handle block key version))

/-- UNPUBLISH. -/
def execUnpublish (p : Pkt) (key : BitVec 128) (version : BitVec 32) (s : State) : Out :=
  .next (s.submit p (.unpublish key version))

/-- LOOKUP. -/
def execLookup (p : Pkt) (key : BitVec 128) (s : State) : Out := .next (s.submit p (.lookup key))

/-- UNPIN. -/
def execUnpin (p : Pkt) (block : BitVec 32) (s : State) : Out := .next (s.submit p (.unpin block))

/-- RING_REDUCE. -/
def execRingReduce (p : Pkt) (list : Addr) (elems : BitVec 32) (isMax scale emptyZero : Bool) (bagLen : BitVec 32)
    (scaleAddr dest : Addr) (s : State) : Out :=
  .next (s.submit p (.ringReduce list elems isMax scale emptyZero bagLen scaleAddr dest))

/-- RING_ROUTE. -/
def execRingRoute (p : Pkt) (ptrs table : Addr) (s : State) : Out := .next (s.submit p (.ringRoute ptrs table))

/-! ### Calls and plans (chapter 5) -/

/-- CALL. -/
def execCall (p : Pkt) (c : CallBody) (s : State) : Out := .next (s.submit p (.call c))

/-- PLAN_LOAD. -/
def execPlanLoad (p : Pkt) (index : BitVec 16) (off : BitVec 32) (chunk : List Byte) (s : State) : Out :=
  .next (s.submit p (.planLoad index off chunk))

/-- PLAN_COMMIT. -/
def execPlanCommit (p : Pkt) (index alive : BitVec 16) (len crc : BitVec 32) (s : State) : Out :=
  .next (s.submit p (.planCommit index alive len crc))

/-- PLAN_UNLOAD. -/
def execPlanUnload (p : Pkt) (index : BitVec 16) (s : State) : Out := .next (s.submit p (.planUnload index))

/-! ### Synchronisation objects (chapter 9): SOP of Table 9.2 -/

/-- SYNC_READ. -/
def execSyncRead (p : Pkt) (x : SyncArgs) (s : State) : Out := .next (s.submit p (.sync 1 x))

/-- WAIT_FOR. -/
def execWaitFor (p : Pkt) (x : SyncArgs) (s : State) : Out := .next (s.submit p (.sync 2 x))

/-- C_ADD. -/
def execCAdd (p : Pkt) (x : SyncArgs) (s : State) : Out := .next (s.submit p (.sync 3 x))

/-- C_CAS. -/
def execCCas (p : Pkt) (x : SyncArgs) (s : State) : Out := .next (s.submit p (.sync 4 x))

/-- B_ARRIVE. -/
def execBArrive (p : Pkt) (x : SyncArgs) (s : State) : Out := .next (s.submit p (.sync 5 x))

/-- S_ACQUIRE. -/
def execSAcquire (p : Pkt) (x : SyncArgs) (s : State) : Out := .next (s.submit p (.sync 6 x))

/-- S_RELEASE. -/
def execSRelease (p : Pkt) (x : SyncArgs) (s : State) : Out := .next (s.submit p (.sync 7 x))

/-- T_TAKE. -/
def execTTake (p : Pkt) (x : SyncArgs) (s : State) : Out := .next (s.submit p (.sync 8 x))

/-- T_SERVE. -/
def execTServe (p : Pkt) (x : SyncArgs) (s : State) : Out := .next (s.submit p (.sync 9 x))

/-- M_PUT. -/
def execMPut (p : Pkt) (x : SyncArgs) (s : State) : Out := .next (s.submit p (.sync 10 x))

/-- M_GET. -/
def execMGet (p : Pkt) (x : SyncArgs) (s : State) : Out := .next (s.submit p (.sync 11 x))

/-- F_UPDATE. -/
def execFUpdate (p : Pkt) (x : SyncArgs) (s : State) : Out := .next (s.submit p (.sync 12 x))

/-- INIT. -/
def execInit (p : Pkt) (x : SyncArgs) (s : State) : Out := .next (s.submit p (.sync 16 x))

/-! ### Transports (chapter 12), TLBs and faults (chapter 2) -/

/-- LATENCY_TOL. -/
def execLatencyTol (p : Pkt) (us : BitVec 32) (s : State) : Out := .next (s.submit p (.latencyTol us))

/-- QP_CREATE. -/
def execQpCreate (p : Pkt) (q : QpArgs) (s : State) : Out := .next (s.submit p (.qpCreate q))

/-- QP_DESTROY. -/
def execQpDestroy (p : Pkt) (qpn : BitVec 24) (s : State) : Out := .next (s.submit p (.qpDestroy qpn))

/-- INVALIDATE. -/
def execInvalidate (p : Pkt) (scope : BitVec 8) (kill : Bool) (value : BitVec 32) (s : State) : Out :=
  .next (s.submit p (.invalidate scope kill value))

/-- FAULT_POP. -/
def execFaultPop (p : Pkt) (clear : Bool) (s : State) : Out := .next (s.submit p (.faultPop clear))

/-- SPDM. -/
def execSpdm (p : Pkt) (m : SpdmMsg) (s : State) : Out := .next (s.submit p (.spdm m))

/-- SESSION_BIND. -/
def execSessionBind (p : Pkt) (session : BitVec 32) (s : State) : Out := .next (s.submit p (.sessionBind session))

/-- UNDEFINED_OPCODE. -/
def execUndefinedOpcode (p : Pkt) (code : BitVec 8) (s : State) : Out := .next (s.submit p (.undefined code))

/-! ### SPDM messages and tenant commands (chapter 16) -/

/-- An SPDM message on its transport (R353). -/
def State.spdmOn (s : State) (via : SpdmVia) (m : SpdmMsg) : State :=
  match via with
  | .ipt p => s.submit p (.spdm m)
  | .i3c => s.spdmDirect 1 m
  | .mgmt => s.spdmDirect 2 m

/-- A tenant command over IPT, or over the management path (R348). -/
def State.tenantOn (s : State) (c : TenantCmd) (m : SpdmMsg) : State :=
  if c.mgmtPath then s.tenantDirect m else s.submit c.pkt (.spdm m)

/-- GET_VERSION. -/
def execGetVersion (via : SpdmVia) (s : State) : Out := .next (s.spdmOn via (.getVersion))

/-- GET_CAPABILITIES. -/
def execGetCapabilities (via : SpdmVia) (s : State) : Out := .next (s.spdmOn via (.getCapabilities))

/-- NEGOTIATE_ALGORITHMS. -/
def execNegotiateAlgorithms (via : SpdmVia) (s : State) : Out := .next (s.spdmOn via (.negotiateAlgorithms))

/-- GET_DIGESTS. -/
def execGetDigests (via : SpdmVia) (s : State) : Out := .next (s.spdmOn via (.getDigests))

/-- GET_CERTIFICATE. -/
def execGetCertificate (via : SpdmVia) (slot : Nat) (s : State) : Out := .next (s.spdmOn via (.getCertificate slot))

/-- CHALLENGE. -/
def execChallenge (via : SpdmVia) (slot : Nat) (nonce : BitVec 256) (s : State) : Out := .next (s.spdmOn via (.challenge slot nonce))

/-- GET_MEASUREMENTS. -/
def execGetMeasurements (via : SpdmVia) (index : Nat) (signed : Bool) (s : State) : Out := .next (s.spdmOn via (.getMeasurements index signed))

/-- KEY_EXCHANGE. -/
def execKeyExchange (via : SpdmVia) (x : KeyExArg) (s : State) : Out := .next (s.spdmOn via (.keyExchange x))

/-- FINISH. -/
def execFinish (via : SpdmVia) (session : BitVec 32) (ok : Bool) (s : State) : Out := .next (s.spdmOn via (.finish session ok))

/-- HEARTBEAT. -/
def execHeartbeat (via : SpdmVia) (session : BitVec 32) (s : State) : Out := .next (s.spdmOn via (.heartbeat session))

/-- KEY_UPDATE. -/
def execKeyUpdate (via : SpdmVia) (session : BitVec 32) (s : State) : Out := .next (s.spdmOn via (.keyUpdate session))

/-- END_SESSION. -/
def execEndSession (via : SpdmVia) (session : BitVec 32) (s : State) : Out := .next (s.spdmOn via (.endSession session))

/-- KEY_SET. -/
def execKeySet (c : TenantCmd) (k : KeyArg) (s : State) : Out := .next (s.tenantOn c (.keySet c.session k))

/-- KEY_ROTATE. -/
def execKeyRotate (c : TenantCmd) (k : KeyArg) (s : State) : Out := .next (s.tenantOn c (.keyRotate c.session k))

/-- KEY_STATUS. -/
def execKeyStatus (c : TenantCmd) (s : State) : Out := .next (s.tenantOn c (.keyStatus c.session))

/-- CONSENT_REGISTER. -/
def execConsentRegister (c : TenantCmd) (r : Consent) (s : State) : Out := .next (s.tenantOn c (.consentRegister c.session r))

/-- CONSENT_WITHDRAW. -/
def execConsentWithdraw (c : TenantCmd) (consentId : BitVec 64) (s : State) : Out := .next (s.tenantOn c (.consentWithdraw c.session consentId))

end Sys2Proof.Machine
end

