-- ==== Sys2Proof/Machine/Dispatch.lean ====
section
/-! DEFINITION. The meaning of each command: one arm for each row of spec/opcode_table.json. -/

namespace Sys2Proof.Machine

/-- The effect of a command on everything but the queue. -/
def exec (i : Instr) (s : State) : Host.Outcome State Fault Refusal :=
  match i with
  | .frameBoundary => Sys2Proof.Machine.execFrameBoundary s
  | .accessSlot pc slot => Sys2Proof.Machine.execAccessSlot pc slot s
  | .plannedSlot pc slot => Sys2Proof.Machine.execPlannedSlot pc slot s
  | .guardSlot pc slot => Sys2Proof.Machine.execGuardSlot pc slot s
  | .refreshSlot pc slot => Sys2Proof.Machine.execRefreshSlot pc slot s
  | .calSlot pc slot lat => Sys2Proof.Machine.execCalSlot pc slot lat s
  | .scrubSlot pc slot => Sys2Proof.Machine.execScrubSlot pc slot s
  | .stackTempRead stack sensors => Sys2Proof.Machine.execStackTempRead stack sensors s
  | .calResultApply => Sys2Proof.Machine.execCalResultApply s
  | .plLatDown => Sys2Proof.Machine.execPlLatDown s
  | .ftmApplyEffect => Sys2Proof.Machine.execFtmApplyEffect s
  | .dirPartitionEvict bank => Sys2Proof.Machine.execDirPartitionEvict bank s
  | .commitPoint => Sys2Proof.Machine.execCommitPoint s
  | .strictOverrun => Sys2Proof.Machine.execStrictOverrun s
  | .call p c => Sys2Proof.Machine.execCall p c s
  | .callLock key => Sys2Proof.Machine.execCallLock key s
  | .callStart => Sys2Proof.Machine.execCallStart s
  | .callComplete => Sys2Proof.Machine.execCallComplete s
  | .next => Sys2Proof.Machine.execNext s
  | .loop => Sys2Proof.Machine.execLoop s
  | .endloop => Sys2Proof.Machine.execEndloop s
  | .endWord => Sys2Proof.Machine.execEndWord s
  | .slabReadDataReturn pc => Sys2Proof.Machine.execSlabReadDataReturn pc s
  | .rd m f => Sys2Proof.Machine.execRd m f s
  | .wr m f => Sys2Proof.Machine.execWr m f s
  | .gather m f => Sys2Proof.Machine.execGather m f s
  | .scatter m f => Sys2Proof.Machine.execScatter m f s
  | .crd m f => Sys2Proof.Machine.execCrd m f s
  | .s2f m f => Sys2Proof.Machine.execS2f m f s
  | .f2s m f => Sys2Proof.Machine.execF2s m f s
  | .setareg m f => Sys2Proof.Machine.execSetareg m f s
  | .mma c u => Sys2Proof.Machine.execMma c u s
  | .mread c u => Sys2Proof.Machine.execMread c u s
  | .bload c u => Sys2Proof.Machine.execBload c u s
  | .merge c u => Sys2Proof.Machine.execMerge c u s
  | .hlookup c u => Sys2Proof.Machine.execHlookup c u s
  | .hinsert c u => Sys2Proof.Machine.execHinsert c u s
  | .bin c u => Sys2Proof.Machine.execBin c u s
  | .ptr c u => Sys2Proof.Machine.execPtr c u s
  | .xchg c u => Sys2Proof.Machine.execXchg c u s
  | .vAdd c v => Sys2Proof.Machine.execVAdd c v s
  | .vSub c v => Sys2Proof.Machine.execVSub c v s
  | .vMul c v => Sys2Proof.Machine.execVMul c v s
  | .vFma c v => Sys2Proof.Machine.execVFma c v s
  | .vMin c v => Sys2Proof.Machine.execVMin c v s
  | .vMax c v => Sys2Proof.Machine.execVMax c v s
  | .vMinnum c v => Sys2Proof.Machine.execVMinnum c v s
  | .vMaxnum c v => Sys2Proof.Machine.execVMaxnum c v s
  | .vCmp c v => Sys2Proof.Machine.execVCmp c v s
  | .vCvt c v => Sys2Proof.Machine.execVCvt c v s
  | .vIntAdd c v => Sys2Proof.Machine.execVIntAdd c v s
  | .vIntSub c v => Sys2Proof.Machine.execVIntSub c v s
  | .vIntMul c v => Sys2Proof.Machine.execVIntMul c v s
  | .vShl c v => Sys2Proof.Machine.execVShl c v s
  | .vShr c v => Sys2Proof.Machine.execVShr c v s
  | .vSar c v => Sys2Proof.Machine.execVSar c v s
  | .vAnd c v => Sys2Proof.Machine.execVAnd c v s
  | .vOr c v => Sys2Proof.Machine.execVOr c v s
  | .vXor c v => Sys2Proof.Machine.execVXor c v s
  | .vPopcnt c v => Sys2Proof.Machine.execVPopcnt c v s
  | .vClz c v => Sys2Proof.Machine.execVClz c v s
  | .vDot4 c v => Sys2Proof.Machine.execVDot4 c v s
  | .vExp2 c v => Sys2Proof.Machine.execVExp2 c v s
  | .vLog2 c v => Sys2Proof.Machine.execVLog2 c v s
  | .vRcp c v => Sys2Proof.Machine.execVRcp c v s
  | .vRsqrt c v => Sys2Proof.Machine.execVRsqrt c v s
  | .vSumReduce c v => Sys2Proof.Machine.execVSumReduce c v s
  | .vMaxReduce c v => Sys2Proof.Machine.execVMaxReduce c v s
  | .vMinReduce c v => Sys2Proof.Machine.execVMinReduce c v s
  | .vPermute c v => Sys2Proof.Machine.execVPermute c v s
  | .vBroadcast c v => Sys2Proof.Machine.execVBroadcast c v s
  | .vLd c v => Sys2Proof.Machine.execVLd c v s
  | .vSt c v => Sys2Proof.Machine.execVSt c v s
  | .vRand c v => Sys2Proof.Machine.execVRand c v s
  | .vSetbase c v => Sys2Proof.Machine.execVSetbase c v s
  | .vPset c v => Sys2Proof.Machine.execVPset c v s
  | .vXrecv c v => Sys2Proof.Machine.execVXrecv c v s
  | .frondFault phys => Sys2Proof.Machine.execFrondFault phys s
  | .frondSubstitution => Sys2Proof.Machine.execFrondSubstitution s
  | .frdRetire src w => Sys2Proof.Machine.execFrdRetire src w s
  | .planLoad p index off chunk => Sys2Proof.Machine.execPlanLoad p index off chunk s
  | .planCommit p index alive len crc => Sys2Proof.Machine.execPlanCommit p index alive len crc s
  | .planCommitComplete index => Sys2Proof.Machine.execPlanCommitComplete index s
  | .planUnload p index => Sys2Proof.Machine.execPlanUnload p index s
  | .read p a => Sys2Proof.Machine.execRead p a s
  | .write p a data => Sys2Proof.Machine.execWrite p a data s
  | .swap p a x => Sys2Proof.Machine.execSwap p a x s
  | .cas p a cmp swp => Sys2Proof.Machine.execCas p a cmp swp s
  | .fetchAdd p a x => Sys2Proof.Machine.execFetchAdd p a x s
  | .fetchAnd p a x => Sys2Proof.Machine.execFetchAnd p a x s
  | .fetchOr p a x => Sys2Proof.Machine.execFetchOr p a x s
  | .fetchXor p a x => Sys2Proof.Machine.execFetchXor p a x s
  | .fetchSmin p a x => Sys2Proof.Machine.execFetchSmin p a x s
  | .fetchSmax p a x => Sys2Proof.Machine.execFetchSmax p a x s
  | .fetchUmin p a x => Sys2Proof.Machine.execFetchUmin p a x s
  | .fetchUmax p a x => Sys2Proof.Machine.execFetchUmax p a x s
  | .accum p a x => Sys2Proof.Machine.execAccum p a x s
  | .accumRc p a shadow x => Sys2Proof.Machine.execAccumRc p a shadow x s
  | .move p src dst rowLen rows srcStride dstStride => Sys2Proof.Machine.execMove p src dst rowLen rows srcStride dstStride s
  | .moveChunk key => Sys2Proof.Machine.execMoveChunk key s
  | .moveComplete key => Sys2Proof.Machine.execMoveComplete key s
  | .hint p a b => Sys2Proof.Machine.execHint p a b s
  | .hintPrefetchDone key => Sys2Proof.Machine.execHintPrefetchDone key s
  | .fence p => Sys2Proof.Machine.execFence p s
  | .fenceComplete conn => Sys2Proof.Machine.execFenceComplete conn s
  | .replayEntryExpire tenant holder reqId => Sys2Proof.Machine.execReplayEntryExpire tenant holder reqId s
  | .accessDispatch moveEngine => Sys2Proof.Machine.execAccessDispatch moveEngine s
  | .egressDispatch port sub => Sys2Proof.Machine.execEgressDispatch port sub s
  | .rdmaReadChunk key => Sys2Proof.Machine.execRdmaReadChunk key s
  | .writeQueueAdmit pc => Sys2Proof.Machine.execWriteQueueAdmit pc s
  | .bankIdlePrecharge pc bank => Sys2Proof.Machine.execBankIdlePrecharge pc bank s
  | .cohJoin p credits => Sys2Proof.Machine.execCohJoin p credits s
  | .cohLeave p => Sys2Proof.Machine.execCohLeave p s
  | .rdS p a => Sys2Proof.Machine.execRdS p a s
  | .rdX p a => Sys2Proof.Machine.execRdX p a s
  | .upg p a => Sys2Proof.Machine.execUpg p a s
  | .rdNa p a => Sys2Proof.Machine.execRdNa p a s
  | .wb p a data => Sys2Proof.Machine.execWb p a data s
  | .ack p txn => Sys2Proof.Machine.execAck p txn s
  | .rspMiss p txn => Sys2Proof.Machine.execRspMiss p txn s
  | .rspMissWb p txn => Sys2Proof.Machine.execRspMissWb p txn s
  | .rspClean p txn => Sys2Proof.Machine.execRspClean p txn s
  | .rspDirty p txn data => Sys2Proof.Machine.execRspDirty p txn data s
  | .grantResend txn => Sys2Proof.Machine.execGrantResend txn s
  | .snoopRetry txn agent => Sys2Proof.Machine.execSnoopRetry txn agent s
  | .waitLimitExpire line => Sys2Proof.Machine.execWaitLimitExpire line s
  | .sweepDone agent => Sys2Proof.Machine.execSweepDone agent s
  | .dirKick src w => Sys2Proof.Machine.execDirKick src w s
  | .dirRevokedRead src => Sys2Proof.Machine.execDirRevokedRead src s
  | .kvAlloc p handle => Sys2Proof.Machine.execKvAlloc p handle s
  | .kvFree p handle block => Sys2Proof.Machine.execKvFree p handle block s
  | .publish p handle block key => Sys2Proof.Machine.execPublish p handle block key s
  | .republish p handle block key version => Sys2Proof.Machine.execRepublish p handle block key version s
  | .unpublish p key version => Sys2Proof.Machine.execUnpublish p key version s
  | .lookup p key => Sys2Proof.Machine.execLookup p key s
  | .unpin p block => Sys2Proof.Machine.execUnpin p block s
  | .pinExpire holder block => Sys2Proof.Machine.execPinExpire holder block s
  | .pfxReclaim src w => Sys2Proof.Machine.execPfxReclaim src w s
  | .ringReduce p list elems isMax scale emptyZero bagLen scaleAddr dest => Sys2Proof.Machine.execRingReduce p list elems isMax scale emptyZero bagLen scaleAddr dest s
  | .ringRoute p ptrs table => Sys2Proof.Machine.execRingRoute p ptrs table s
  | .ringOpComplete key status pos parts => Sys2Proof.Machine.execRingOpComplete key status pos parts s
  | .ringMemberTimeout key pos => Sys2Proof.Machine.execRingMemberTimeout key pos s
  | .syncRead p x => Sys2Proof.Machine.execSyncRead p x s
  | .waitFor p x => Sys2Proof.Machine.execWaitFor p x s
  | .cAdd p x => Sys2Proof.Machine.execCAdd p x s
  | .cCas p x => Sys2Proof.Machine.execCCas p x s
  | .bArrive p x => Sys2Proof.Machine.execBArrive p x s
  | .sAcquire p x => Sys2Proof.Machine.execSAcquire p x s
  | .sRelease p x => Sys2Proof.Machine.execSRelease p x s
  | .tTake p x => Sys2Proof.Machine.execTTake p x s
  | .tServe p x => Sys2Proof.Machine.execTServe p x s
  | .mPut p x => Sys2Proof.Machine.execMPut p x s
  | .mGet p x => Sys2Proof.Machine.execMGet p x s
  | .fUpdate p x => Sys2Proof.Machine.execFUpdate p x s
  | .init p x => Sys2Proof.Machine.execInit p x s
  | .syncWaitTimeout obj holder reqId => Sys2Proof.Machine.execSyncWaitTimeout obj holder reqId s
  | .syncSlotResult => Sys2Proof.Machine.execSyncSlotResult s
  | .syncTimeout => Sys2Proof.Machine.execSyncTimeout s
  | .napEntryComplete stack => Sys2Proof.Machine.execNapEntryComplete stack s
  | .napExitStart stack => Sys2Proof.Machine.execNapExitStart stack s
  | .napExitComplete stack lats => Sys2Proof.Machine.execNapExitComplete stack lats s
  | .stackTrainingComplete lats failed ms => Sys2Proof.Machine.execStackTrainingComplete lats failed ms s
  | .pcRetire pc cause => Sys2Proof.Machine.execPcRetire pc cause s
  | .pcRetireCommandEffect => Sys2Proof.Machine.execPcRetireCommandEffect s
  | .smcRetire src stack w => Sys2Proof.Machine.execSmcRetire src stack w s
  | .scrubVisit pc => Sys2Proof.Machine.execScrubVisit pc s
  | .rebuildStep => Sys2Proof.Machine.execRebuildStep s
  | .eccRemapAdd src w => Sys2Proof.Machine.execEccRemapAdd src w s
  | .eccRemapLogRead src => Sys2Proof.Machine.execEccRemapLogRead src s
  | .crcGo src u w => Sys2Proof.Machine.execCrcGo src u w s
  | .crcComputeDone u => Sys2Proof.Machine.execCrcComputeDone u s
  | .arpRequest src target => Sys2Proof.Machine.execArpRequest src target s
  | .neighbourSolicitation src target => Sys2Proof.Machine.execNeighbourSolicitation src target s
  | .echoRequest src target v6 data => Sys2Proof.Machine.execEchoRequest src target v6 data s
  | .mkaFrame port sub body => Sys2Proof.Machine.execMkaFrame port sub body s
  | .pfcFrame port sub enable quanta => Sys2Proof.Machine.execPfcFrame port sub enable quanta s
  | .connect src seq holder => Sys2Proof.Machine.execConnect src seq holder s
  | .close src conn => Sys2Proof.Machine.execClose src conn s
  | .msgAck p acked => Sys2Proof.Machine.execMsgAck p acked s
  | .messageResend conn seq => Sys2Proof.Machine.execMessageResend conn seq s
  | .admitTokenRefill port => Sys2Proof.Machine.execAdmitTokenRefill port s
  | .spdm p m => Sys2Proof.Machine.execSpdm p m s
  | .sessionBind p session => Sys2Proof.Machine.execSessionBind p session s
  | .latencyTol p us => Sys2Proof.Machine.execLatencyTol p us s
  | .qpCreate p q => Sys2Proof.Machine.execQpCreate p q s
  | .qpDestroy p qpn => Sys2Proof.Machine.execQpDestroy p qpn s
  | .invalidate p scope kill value => Sys2Proof.Machine.execInvalidate p scope kill value s
  | .invalidateComplete key => Sys2Proof.Machine.execInvalidateComplete key s
  | .faultPop p clear => Sys2Proof.Machine.execFaultPop p clear s
  | .rdmaRead r rkey va len => Sys2Proof.Machine.execRdmaRead r rkey va len s
  | .rdmaWrite r rkey va data => Sys2Proof.Machine.execRdmaWrite r rkey va data s
  | .atomicCmpswap r rkey va cmp swp => Sys2Proof.Machine.execAtomicCmpswap r rkey va cmp swp s
  | .atomicFetchadd r rkey va x => Sys2Proof.Machine.execAtomicFetchadd r rkey va x s
  | .send r p isRequest op => Sys2Proof.Machine.execSend r p isRequest op s
  | .cnpReceive qpn => Sys2Proof.Machine.execCnpReceive qpn s
  | .rateRise qpn => Sys2Proof.Machine.execRateRise qpn s
  | .prtHcfgWrite src w => Sys2Proof.Machine.execPrtHcfgWrite src w s
  | .cellReceive n cell => Sys2Proof.Machine.execCellReceive n cell s
  | .linkCellReceive n cell => Sys2Proof.Machine.execLinkCellReceive n cell s
  | .nakRepeat n => Sys2Proof.Machine.execNakRepeat n s
  | .replayTimeout n => Sys2Proof.Machine.execReplayTimeout n s
  | .linkCellPeriodic n => Sys2Proof.Machine.execLinkCellPeriodic n s
  | .trainingStart n => Sys2Proof.Machine.execTrainingStart n s
  | .trainingComplete n cell => Sys2Proof.Machine.execTrainingComplete n cell s
  | .trainingTimeout n => Sys2Proof.Machine.execTrainingTimeout n s
  | .fastRetrain n => Sys2Proof.Machine.execFastRetrain n s
  | .fastRetrainComplete n => Sys2Proof.Machine.execFastRetrainComplete n s
  | .retrainTimeout n => Sys2Proof.Machine.execRetrainTimeout n s
  | .pcsLinkDown n => Sys2Proof.Machine.execPcsLinkDown n s
  | .miscabledRetry n => Sys2Proof.Machine.execMiscabledRetry n s
  | .lnkCtrlRetrain src n => Sys2Proof.Machine.execLnkCtrlRetrain src n s
  | .lnkCtrlReset src n => Sys2Proof.Machine.execLnkCtrlReset src n s
  | .linkStateNotice n origin seq states => Sys2Proof.Machine.execLinkStateNotice n origin seq states s
  | .linkStateRefresh => Sys2Proof.Machine.execLinkStateRefresh s
  | .linkUpHoldExpire device dir => Sys2Proof.Machine.execLinkUpHoldExpire device dir s
  | .packetInject tenant dst data => Sys2Proof.Machine.execPacketInject tenant dst data s
  | .packetForward n vc => Sys2Proof.Machine.execPacketForward n vc s
  | .packetArrive n h data => Sys2Proof.Machine.execPacketArrive n h data s
  | .reasmTimeout src msgId => Sys2Proof.Machine.execReasmTimeout src msgId s
  | .queueSample => Sys2Proof.Machine.execQueueSample s
  | .pairConnectionForm ok => Sys2Proof.Machine.execPairConnectionForm ok s
  | .pairHello h => Sys2Proof.Machine.execPairHello h s
  | .pairRange op set term index start len => Sys2Proof.Machine.execPairRange op set term index start len s
  | .pairRangeAnswer result => Sys2Proof.Machine.execPairRangeAnswer result s
  | .epoch f => Sys2Proof.Machine.execEpoch f s
  | .epochAck set status alive term => Sys2Proof.Machine.execEpochAck set status alive term s
  | .xltCmdDone => Sys2Proof.Machine.execXltCmdDone s
  | .mirror set kind term off data replay => Sys2Proof.Machine.execMirror set kind term off data replay s
  | .mirrorAck key status term => Sys2Proof.Machine.execMirrorAck key status term s
  | .pairRead set term off granules => Sys2Proof.Machine.execPairRead set term off granules s
  | .pairReadAnswer key status data => Sys2Proof.Machine.execPairReadAnswer key status data s
  | .rpUpdate peer off delta => Sys2Proof.Machine.execRpUpdate peer off delta s
  | .rpUpdateAck key => Sys2Proof.Machine.execRpUpdateAck key s
  | .rpRead peer off parity => Sys2Proof.Machine.execRpRead peer off parity s
  | .peerRetransmit key => Sys2Proof.Machine.execPeerRetransmit key s
  | .leaseFence set => Sys2Proof.Machine.execLeaseFence set s
  | .takeoverStart set => Sys2Proof.Machine.execTakeoverStart set s
  | .takeoverComplete set => Sys2Proof.Machine.execTakeoverComplete set s
  | .heldNotifyDiscard holder => Sys2Proof.Machine.execHeldNotifyDiscard holder s
  | .replayHoldExpire set => Sys2Proof.Machine.execReplayHoldExpire set s
  | .handover src w => Sys2Proof.Machine.execHandover src w s
  | .resyncCopy set => Sys2Proof.Machine.execResyncCopy set s
  | .resyncTimeout set => Sys2Proof.Machine.execResyncTimeout set s
  | .create src w => Sys2Proof.Machine.execCreate src w s
  | .grant src w => Sys2Proof.Machine.execGrant src w s
  | .ungrant src w => Sys2Proof.Machine.execUngrant src w s
  | .setTrights src w => Sys2Proof.Machine.execSetTrights src w s
  | .revoke src w => Sys2Proof.Machine.execRevoke src w s
  | .revokeComplete index => Sys2Proof.Machine.execRevokeComplete index s
  | .release src w => Sys2Proof.Machine.execRelease src w s
  | .unquarantine src w => Sys2Proof.Machine.execUnquarantine src w s
  | .xltNop src w => Sys2Proof.Machine.execXltNop src w s
  | .xltRevokeDoneRead src => Sys2Proof.Machine.execXltRevokeDoneRead src s
  | .xltMfqPop src w => Sys2Proof.Machine.execXltMfqPop src w s
  | .xltMfqFaultLostClear src w => Sys2Proof.Machine.execXltMfqFaultLostClear src w s
  | .keySet c k => Sys2Proof.Machine.execKeySet c k s
  | .keyRotate c k => Sys2Proof.Machine.execKeyRotate c k s
  | .keyStatus c => Sys2Proof.Machine.execKeyStatus c s
  | .keyRotationEffect => Sys2Proof.Machine.execKeyRotationEffect s
  | .rekeySweep tenant => Sys2Proof.Machine.execRekeySweep tenant s
  | .consentRegister c r => Sys2Proof.Machine.execConsentRegister c r s
  | .consentVerifyDone key => Sys2Proof.Machine.execConsentVerifyDone key s
  | .consentWithdraw c consentId => Sys2Proof.Machine.execConsentWithdraw c consentId s
  | .secRotate src tenant w => Sys2Proof.Machine.execSecRotate src tenant w s
  | .secRetire src tenant w => Sys2Proof.Machine.execSecRetire src tenant w s
  | .getVersion via => Sys2Proof.Machine.execGetVersion via s
  | .getCapabilities via => Sys2Proof.Machine.execGetCapabilities via s
  | .negotiateAlgorithms via => Sys2Proof.Machine.execNegotiateAlgorithms via s
  | .getDigests via => Sys2Proof.Machine.execGetDigests via s
  | .getCertificate via slot => Sys2Proof.Machine.execGetCertificate via slot s
  | .challenge via slot nonce => Sys2Proof.Machine.execChallenge via slot nonce s
  | .getMeasurements via index signed => Sys2Proof.Machine.execGetMeasurements via index signed s
  | .keyExchange via x => Sys2Proof.Machine.execKeyExchange via x s
  | .finish via session ok => Sys2Proof.Machine.execFinish via session ok s
  | .heartbeat via session => Sys2Proof.Machine.execHeartbeat via session s
  | .keyUpdate via session => Sys2Proof.Machine.execKeyUpdate via session s
  | .endSession via session => Sys2Proof.Machine.execEndSession via session s
  | .heartbeatMiss session => Sys2Proof.Machine.execHeartbeatMiss session s
  | .peerSessionRetry pair peer ok => Sys2Proof.Machine.execPeerSessionRetry pair peer ok s
  | .debugUnlock keyDigest sigOk => Sys2Proof.Machine.execDebugUnlock keyDigest sigOk s
  | .debugTimeout => Sys2Proof.Machine.execDebugTimeout s
  | .relock src => Sys2Proof.Machine.execRelock src s
  | .wdtKick src c => Sys2Proof.Machine.execWdtKick src c s
  | .wdtExpire c => Sys2Proof.Machine.execWdtExpire c s
  | .evcNativeDelivery c => Sys2Proof.Machine.execEvcNativeDelivery c s
  | .evcClaim src c => Sys2Proof.Machine.execEvcClaim src c s
  | .evcEoi src c w => Sys2Proof.Machine.execEvcEoi src c w s
  | .evcSwset src w => Sys2Proof.Machine.execEvcSwset src w s
  | .evcGateWrite src w => Sys2Proof.Machine.execEvcGateWrite src w s
  | .evcHoldoffExpire g => Sys2Proof.Machine.execEvcHoldoffExpire g s
  | .wfiWake c => Sys2Proof.Machine.execWfiWake c s
  | .thmSample points mv => Sys2Proof.Machine.execThmSample points mv s
  | .thmInputSample v i0 p => Sys2Proof.Machine.execThmInputSample v i0 p s
  | .memUe core addr => Sys2Proof.Machine.execMemUe core addr s
  | .tlsConnect digest => Sys2Proof.Machine.execTlsConnect digest s
  | .redfishRawRegister conn off value => Sys2Proof.Machine.execRedfishRawRegister conn off value s
  | .redfishReset conn => Sys2Proof.Machine.execRedfishReset conn s
  | .operatorSlotChange conn slot digest role enabled => Sys2Proof.Machine.execOperatorSlotChange conn slot digest role enabled s
  | .getSensorReading id => Sys2Proof.Machine.execGetSensorReading id s
  | .getSensorThresholds id => Sys2Proof.Machine.execGetSensorThresholds id s
  | .uartInput b => Sys2Proof.Machine.execUartInput b s
  | .imageStage x => Sys2Proof.Machine.execImageStage x s
  | .activate src w => Sys2Proof.Machine.execActivate src w s
  | .confirm src w => Sys2Proof.Machine.execConfirm src w s
  | .commit src w admin => Sys2Proof.Machine.execCommit src w admin s
  | .fwNop src w => Sys2Proof.Machine.execFwNop src w s
  | .trialTimeout => Sys2Proof.Machine.execTrialTimeout s
  | .recoveryImage x => Sys2Proof.Machine.execRecoveryImage x s
  | .manufacturePersonalisation => Sys2Proof.Machine.execManufacturePersonalisation s
  | .provision tokenOk => Sys2Proof.Machine.execProvision tokenOk s
  | .deploy conn => Sys2Proof.Machine.execDeploy conn s
  | .hold conn => Sys2Proof.Machine.execHold conn s
  | .serviceHoldRelease conn => Sys2Proof.Machine.execServiceHoldRelease conn s
  | .rma tokenOk => Sys2Proof.Machine.execRma tokenOk s
  | .scrap conn tokenOk => Sys2Proof.Machine.execScrap conn tokenOk s
  | .bist src w admin => Sys2Proof.Machine.execBist src w admin s
  | .bistDone fails more => Sys2Proof.Machine.execBistDone fails more s
  | .bstFailRead src => Sys2Proof.Machine.execBstFailRead src s
  | .ppr src w admin => Sys2Proof.Machine.execPpr src w admin s
  | .pprDone result => Sys2Proof.Machine.execPprDone result s
  | .powerUp => Sys2Proof.Machine.execPowerUp s
  | .railPowerGood rail => Sys2Proof.Machine.execRailPowerGood rail s
  | .railTimeout rail => Sys2Proof.Machine.execRailTimeout rail s
  | .railRetry => Sys2Proof.Machine.execRailRetry s
  | .inputWarn => Sys2Proof.Machine.execInputWarn s
  | .inputFault => Sys2Proof.Machine.execInputFault s
  | .inputRestore => Sys2Proof.Machine.execInputRestore s
  | .sysclkLoss => Sys2Proof.Machine.execSysclkLoss s
  | .refclkLoss refb => Sys2Proof.Machine.execRefclkLoss refb s
  | .powerCapEval => Sys2Proof.Machine.execPowerCapEval s
  | .deepExitStart => Sys2Proof.Machine.execDeepExitStart s
  | .deepExitComplete => Sys2Proof.Machine.execDeepExitComplete s
  | .service src => Sys2Proof.Machine.execService src s
  | .wake src => Sys2Proof.Machine.execWake src s
  | .reset src w => Sys2Proof.Machine.execReset src w s
  | .resetHandoverTimeout => Sys2Proof.Machine.execResetHandoverTimeout s
  | .fullReset cause => Sys2Proof.Machine.execFullReset cause s
  | .stacksOk src w => Sys2Proof.Machine.execStacksOk src w s
  | .pairWaitTimeout => Sys2Proof.Machine.execPairWaitTimeout s
  | .registerWrite src off w => Sys2Proof.Machine.execRegisterWrite src off w s
  | .apply src page => Sys2Proof.Machine.execApply src page s
  | .discard src page => Sys2Proof.Machine.execDiscard src page s
  | .pgEvtStatusClear src page w => Sys2Proof.Machine.execPgEvtStatusClear src page w s
  | .pgEvtForce src page w => Sys2Proof.Machine.execPgEvtForce src page w s
  | .pgLock src page w => Sys2Proof.Machine.execPgLock src page w s
  | .applyAll src => Sys2Proof.Machine.execApplyAll src s
  | .discardAll src => Sys2Proof.Machine.execDiscardAll src s
  | .clear src => Sys2Proof.Machine.execClear src s
  | .linkChange port sub up => Sys2Proof.Machine.execLinkChange port sub up s
  | .frameDiscard port sub cause => Sys2Proof.Machine.execFrameDiscard port sub cause s
  | .undefinedOpcode p code => Sys2Proof.Machine.execUndefinedOpcode p code s
  | .rpReadAnswer key words => Sys2Proof.Machine.execRpReadAnswer key words s
  | .rocev2Ack qpn psn kind => Sys2Proof.Machine.execRocev2Ack qpn psn kind s
  | .localAckTimeout qpn => Sys2Proof.Machine.execLocalAckTimeout qpn s
  | .rnrTimerExpire qpn => Sys2Proof.Machine.execRnrTimerExpire qpn s
  | .sysclkRestore => Sys2Proof.Machine.execSysclkRestore s
  | .sweepVisit agent => Sys2Proof.Machine.execSweepVisit agent s
  | .registerRead src off => Sys2Proof.Machine.execRegisterRead src off s
  | .wakeTimer => Sys2Proof.Machine.execWakeTimer s

end Sys2Proof.Machine
end

