-- ==== Sys2Proof/Safety.lean ====
section
/-! DEFINITION. The terms in which the statements speak: when a request begins at once, what a tenant sees of the pool,
and the invariants that every command keeps. -/

namespace Sys2Proof.Machine

/-! ### What a step runs behind a command -/

/-- Nothing that a step would run behind its command: no request has been freed to go on, no part of a ring operator has come to
an end, no access-plane operation holds a line's transaction, and no sub-port has sent XOFF. -/
def State.settled (s : State) : Prop :=
  s.dir.ready = [] ∧ s.pfx.partEnds = [] ∧ (∀ t ∈ s.dir.txns, t.kind ≠ .acc) ∧ ∀ e ∈ s.prt.subs, e.2.xoff = []

/-! ### When a request begins -/

/-- A request whose queue-time checks have passed begins at once (R130, R131, R315, R316, R325): its tenant has weight in
strict mode, its pseudo-channels have room, it waits behind no FENCE, no napping stack and no request of its own
connection, and the frame's record has room. What it gives is the state and the request as `State.perform` takes
them. -/
def State.entersNow (s : State) (r : Req) : Option (State × Req) :=
  if s.strict ∧ (s.accWeight r.tenant = 0 ∨ s.egrWeight r.tenant = 0) ∧ r.op.code ≠ 0x62 then none
  else if s.depthRefuses r.tenant (s.reqStack r) then none
  else if r.fence ∧ r.op ≠ .fence ∧ s.outstanding r.conn r.ord then none
  else if s.mustHold r then none
  else if (s.replayJudge r).isSome then none
  else
    let t := s.replayBegin r
    if s.recordOver (t.perform r) then none else some (t, r)

/-- The queue-time checks of a request pass (R29), and it begins at once. -/
def State.checksPass (s : State) (r : Req) : Option (State × Req) :=
  match r.op with
  | .rdS a | .rdX a | .upg a | .rdNa a =>
    match s.cohCheck r a with
    | (_, .error _) => none
    | (s, .ok _) => s.entersNow { r with checked := true }
  | .wb a _ => if (s.wbFails r a).isSome then none else s.entersNow r
  | op =>
    if op.spans = [] ∨ s.isWindow r then s.entersNow r
    else
      match s.checkReq r with
      | (_, .error _) => none
      | (s, .ok _) => s.entersNow { r with checked := true }

/-- An IPT request packet is accepted, refused by nothing and begins at once: the device is in service (R400), its frame, its
datagram, its version and its length are good (R256, R258, R260), its connection and tag are good (R268, R269), its check value and credit hold (R252, R265), the device is not in
DEEP and runs no BIST, the policer passes it (R306), the replay cache has no entry of it (R143), its body has the form of
Table 12.3 (R261), and no limit of R315 to R317 or R29 refuses it. -/
def State.begins (s : State) (p : Pkt) (op : ReqOp) : Option (State × Req) :=
  let len := (op.wire p.tail).length
  if !s.inService then none
  else
    match s.takePkt p len with
    | (_, none) => none
    | (s, some x) =>
      match s.e2eCheck p op with
      | (false, _) => none
      | (true, s) =>
        if s.overCredit p.conn.toNat len then none
        else
          let r := reqOf p x op s.now s.acc.nextKey
          let s := s.newKey.2
          if s.deep ∧ r.op.code ≠ 0x62 then none
          else
            match s.police r.src.port r.tenant r.cost with
            | (false, _) => none
            | (true, s) =>
              let r := s.boundReq r
              if s.bistOn then none
              else if x.setup && !r.op.inSetup then none
              else if (s.replayJudge r).isSome then none
              else if r.op.malformed || (r.op.isInvalidate && !s.privileged r) then none
              else if s.limitRefuses r then none
              else s.checksPass r

/-- The table entries that a request needs can be read (R237): the state and the request that its operation starts from. -/
def State.tablesGood (x : State × Req) : Option (State × Req) :=
  match x.1.tableLook x.2 with
  | (_, true) => none
  | (s, false) => some (s, x.2)

/-- `State.begins` for a request that is no access of the register window (R404): the state and the request that its own
operation starts from. -/
def State.runs (s : State) (p : Pkt) (op : ReqOp) : Option (State × Req) :=
  match s.begins p op with
  | some (u, r) => if u.isWindow r then none else State.tablesGood (u, r)
  | none => none

/-- A RoCEv2 request packet is taken as the next of its queue pair (R272, R274): its frame and datagram are good, its operation is
that of its command, and the device is in service, its queue pair exists and is in no error, its credit holds, the device is not in DEEP and runs no BIST, the
policer passes it, and its PSN is the expected one. What it gives is the state and the queue pair that its operation
starts from. -/
def State.roceTakes (s : State) (p : QPkt) (cost : Nat) (over_ : Qp → Bool) : Option (State × Qp) :=
  match s.roceOk p with
  | (_, false) => none
  | (s, true) =>
    if !s.inService then none
    else
      match s.qp p.qpn.toNat with
      | none => none
      | some q =>
        if q.error ∨ q.destroying then none
        else if over_ q then none
        else
          let q := { q with src := p.src }
          let s := s.setQp p.qpn.toNat q
          if s.deep then none
          else
            match s.police p.src.port q.tenant cost with
            | (false, _) => none
            | (true, s) => if s.bistOn then none else if p.psn.toNat = q.rxPsn ∧ p.op = .named then some (s, q) else none

/-- A write of `XLT_CMD` with GO and operation `n` starts it (R40): no other extent command runs, no argument was clamped,
and OP holds `n`. A REVOKE whose DONE is held back gives way. What it gives is the state in which the operation runs. -/
def State.xltStarts (s : State) (src : RegSrc) (w : Word64) (n : Nat) : Option State :=
  let t := s.storeReg src 0x13110 (withOp w n)
  if t.xlt.cmd.any (fun c => c.op ≠ 5) ∨ t.xlt.argClamped ∨ t.fld R.XLT_CMD_OP ≠ n then none
  else some t.xltFree

/-- An RDMA or atomic request is taken as the next of its queue pair, finds room among its resources when `limited`, passes
the limits and the checks of its range, and begins at once; its expected PSN has moved past `pk` packets. What it gives is
the state and the request that its operation starts from. -/
def State.rdmaRuns (s : State) (p : QPkt) (cost pk : Nat) (op : ReqOp) (len : Nat) (x : Span) (limited : Bool) :
    Option (State × Req) :=
  match s.roceTakes p cost (fun _ => false) with
  | none => none
  | some (t, q) =>
    if limited && decide (16 ≤ t.resources p.qpn.toNat) then none
    else
      let r := rdmaReq p q op len t.now t.acc.nextKey
      let u := t.newKey.2.psnPast p.qpn.toNat pk
      if u.limitRefuses r then none
      else
        match u.tick.checkSpan (u.engineOf r) r x 0 with
        | (_, .error _) => none
        | (v, .ok _) => (v.entersNow { r with checked := true }).bind State.tablesGood

/-! ### What a command does to the pool -/

/-- Device bytes from `x` on hold `new` in `t` and all other bytes of the pool are as in `v`, but that the rest of a touched granule that
had never been written holds zeros (R125). -/
def State.changedTo (v t : State) (x : Nat) (new : List Byte) : Prop :=
  t.ecc.mem.read x new.length = new ∧
  ∀ b < poolEnd, ¬(x ≤ b ∧ b < x + new.length) → t.ecc.mem.byte b =
    if b / 64 ∈ granulesOf x new.length ∧ v.written (b / 64) = false then 0 else v.ecc.mem.byte b

/-- What the writes of granules `gs`, of device bytes `[x, x + n)`, can do without reading the validity map: the range lies in
the pool or at the partner's addresses, each mixed unit has its entry in the validity cache, the map's own granules and
those of parity ranges hold no error, no on-chip memory does, and no fault entry of a planned read awaits one of the granules
(R233, R234, R237, R248). -/
def State.mapsAtHand (v : State) (gs : List Nat) (x n : Nat) : Prop :=
  (x + n ≤ poolEnd ∨ awayBase ≤ x) ∧ v.ecc.sram = [] ∧
  (∀ g ∈ gs, mget v.ecc.units (g / 1024) = some false → (v.ecc.vcache.find? fun e => e.1 = g / 1024).isSome = true) ∧
  (∀ x ∈ v.ecc.planFaults, x.g ∉ gs) ∧
  ∀ g, (poolEnd ≤ g * 64 ∨ v.parityGranule g = true) → mget v.ecc.errs g = none

/-- The answer to an IPT request as it enters its egress queue: a RESPONSE with a status, an AUX and a body. -/
def Req.answer (r : Req) (a : Ans) : OutPkt :=
  .ipt 1 r.op.code a.status r.conn r.seq r.reqId 0 0 (BitVec.ofNat 64 a.aux) a.body
    (if r.e2e then some (crc32c a.body) else none) r.enc r.src

/-- The ACCEPT of an IPT request as it enters its egress queue (R267). -/
def Req.acceptance (r : Req) : OutPkt :=
  .ipt 5 r.op.code 0 r.conn r.seq r.reqId 0 0 0 [] (if r.e2e then some (crc32c []) else none) r.enc r.src

/-- An egress queue of the state holds a packet. -/
def State.sends (s : State) (p : OutPkt) : Prop := ∃ it ∈ s.qos.egr, it.pkt = p

/-! ### Resets -/

/-- `t` is the machine right after a full reset of `s` with a cause (R396, R397): every block but PWR and THM is as at reset,
with no stored byte and nothing held; waiting commands, time and what has left stay, as do the operator slots; the device
is not ready. -/
def State.restarts (s t : State) (cause : Nat) : Prop :=
  t = { State.reset with
    pending := s.pending, now := s.now, frameStart := s.now, freeCtr := s.freeCtr + 1, acc := { resetAcc with srSeed := s.freeCtr }
    out := s.out, regs := t.regs, ecc := t.ecc, lmc := t.lmc, thm := s.thm, pwr := t.pwr } ∧
  t.ecc.mem = [] ∧ t.lmc.slots = s.lmc.slots ∧ t.pwr.on = s.pwr.on ∧ t.pwr.timer = false ∧
  t.fld R.PWR_RESET_CAUSE_CAUSE = cause ∧ t.fld R.PWR_STATUS_READY = 0 ∧
  t.fld R.PWR_RESET_CAUSE_RESETS = (s.fld R.PWR_RESET_CAUSE_RESETS + 1) % 2 ^ 32

/-- `t` is the machine right after every rail of `s` has gone off (R388, R389, R392). -/
def State.turnsOff (s t : State) : Prop :=
  t = { State.reset with
    pending := s.pending, now := s.now, frameStart := s.now, freeCtr := s.freeCtr + 1, acc := { resetAcc with srSeed := s.freeCtr }
    out := s.out, regs := t.regs, ecc := t.ecc, lmc := t.lmc, pwr := t.pwr } ∧
  t.ecc.mem = [] ∧ t.lmc.slots = s.lmc.slots ∧ t.pwr.on = false ∧ t.pwr.timer = false ∧
  t.fld R.PWR_RAILS_PGOOD = 0 ∧ t.fld R.PWR_STATUS_PHASE = 0

/-! ### The invariant -/

/-- The stacks' memory, the slab store, the management memory, the register words and the held words are in canonical
form: keys rise, and no entry equals what an unlisted key reads as. -/
def State.canonical (s : State) : Prop :=
  s.ecc.mem.wf = true ∧ s.seq.slab.wf = true ∧ s.lmc.mem.wf = true ∧ mwf s.regs = true ∧ mwf s.held = true ∧
  ∀ e ∈ s.regs, e.2 ≠ resetWord e.1

end Sys2Proof.Machine
end

