-- ==== Sys2Proof/Certificates/Slice0/Obligations.lean ====
section
/-! DEFINITION. The statements about the FV8, chapter by chapter of spec/, for the provers. -/

open Sys2Proof Sys2Proof.Machine

/-! ### The block -/

/-- Asked of every block: a step takes the command at the front of the queue and runs it on the state with the queue's
rest; an empty queue leaves the block idle (log entry 20). -/
def Obligations.StepRunsFrontCommand : Prop :=
  (∀ (c : Instr) (rest : List Instr) (s : State), s.pending = c :: rest → step s = exec c { s with pending := rest }) ∧
  (∀ s : State, s.pending = [] → step s = .next s)

/-- No rule of the spec stops the machine: every command of every state is answered with a next state. -/
def Obligations.EveryCommandAnswersANextState : Prop :=
  ∀ (c : Instr) (s : State), ∃ t : State, exec c s = .next t

/-! ### Registers (chapter 19) -/

/-- R403, R406: a core's access at an offset that is no word of the window takes an access fault and touches nothing; in
the window, an offset that no register occupies reads 0 and a write of it stores nothing and is recorded with kind
STRAY (7), FIELD naming the word. -/
def Obligations.RegisterlessOffsetsReadZeroAndRecordStray : Prop :=
  (∀ (n off : Nat) (w : Word64) (s : State), offsetOk off = false →
    exec (.registerRead (.core n) off) s = .next { s with out := s.out ++ [.accessFault (n % 4) (0x40000000 + off)] } ∧
    exec (.registerWrite (.core n) off w) s =
      .next ({ s with out := s.out ++ [.accessFault (n % 4) (0x40000000 + off)] } : State).runReady) ∧
  (∀ (n off : Nat) (s : State), offsetOk off = true → findReg off = none →
    exec (.registerRead (.core n) off) s = .next { s with out := s.out ++ [.busRead (.core n) off 0] }) ∧
  (∀ (src : RegSrc) (off : Nat) (w : Word64) (s : State), offsetOk off = true → findReg off = none →
    exec (.registerWrite src off w) s =
      .next (recordClamp s (off / 0x1000) (off % 0x1000 / 8 * 64) 7 (srcCode src) w 0).runReady)

/-- R410: a write of a held register with every field in its range and every reserved bit 0 leaves the word in force as
it is and stands, as written, in the page's held copy; nothing else changes, and PENDING of the page reads 1. -/
def Obligations.HeldRegisterWriteIsStaged : Prop :=
  ∀ (src : RegSrc) (off : Nat) (w : Word64) (s : State) (r : Rg),
    offsetOk off = true → findReg off = some r → r.direct = false →
    (∀ f ∈ r.fields, f.acc = .rw ∧ s.clampField f (bitsOf w.toNat f.lsb f.w) w.toNat = (bitsOf w.toNat f.lsb f.w, 0)) →
    (∀ g ∈ reservedRuns r.fields, lowestIn w.toNat g = none) →
    s.pageLocked (off / 0x1000) = false →
    ∃ v : Word64, exec (.registerWrite src off w) s = .next ({ s with held := mset s.held off v } : State).runReady ∧
      (∀ f ∈ r.fields, bitsOf v.toNat f.lsb f.w = bitsOf w.toNat f.lsb f.w) ∧
      State.pagePending { s with held := mset s.held off v } (off / 0x1000) = true

/-- R412: an APPLY of an unlocked page whose block's clock runs checks the page's rules, installs every held field,
counts in APPLIES and raises APPLIED. On a page for which no chapter gives a rule (GLB, LMC, EVC, BST,
FTM2, SLB, FRD, ECC, CRC, PRT8) the state after it is exactly that: every held word of the page is in force with its RW
fields, nothing of the page is held any more, and every other word of the window outside the page's status and event
registers is as it was.

R413, R414: APPLY_ALL applies, in ascending page number, every page with held writes that is neither locked nor
behind a stopped clock, each seeing the values just applied; DISCARD drops the page's held writes and DISCARD_ALL those
of every unlocked page, and neither changes a word in force or anything else. -/
def Obligations.ApplyAndDiscardTheHeldFields : Prop :=
  (∀ (src : RegSrc) (p : Nat) (s : State), p ∈ [0, 1, 3, 4, 5, 6, 7, 8, 10, 15, 17, 18, 24, 25, 48] →
    s.pageLocked p = false → s.clockStopped p = false → mwf s.held = true →
    ∃ t : State, exec (.apply src p) s = .next t.runReady ∧
      t = { s with regs := t.regs, held := s.held.filter fun e => e.1 / 0x1000 ≠ p } ∧
      t.pagePending p = false ∧
      (t.word (p * 0x1000 + 0x20)).getLsbD 1 = true ∧
      t.fld (R.PG_STATUS_APPLIES.at (p * 0x1000)) = (s.fld (R.PG_STATUS_APPLIES.at (p * 0x1000)) + 1) % 2 ^ 32 ∧
      (∀ off h r, off / 0x1000 = p → 0x100 ≤ off % 0x1000 → mget s.held off = some h → findReg off = some r →
        t.word off = mergeRw r (s.word off) h) ∧
      (∀ off, (off / 0x1000 ≠ p ∨ 0x100 ≤ off % 0x1000 ∧ mget s.held off = none) → t.word off = s.word off)) ∧
  ((∀ (src : RegSrc) (s : State),
    exec (.applyAll src) s = .next (((List.range 58).filter fun p => p ≠ 31).foldl (fun s p =>
      if s.pagePending p = false ∨ s.pageLocked p = true then s
      else if s.clockStopped p then { s with regWait := s.regWait ++ [(src, p * 0x1000 + 0x10, 1)] }
      else s.applyPage p) s).runReady) ∧
  (∀ (src : RegSrc) (p : Nat) (s : State), (pageInfo p).isSome = true → s.pageLocked p = false →
    s.clockStopped p = false →
    exec (.discard src p) s = .next ({ s with held := s.held.filter fun e => e.1 / 0x1000 ≠ p } : State).runReady) ∧
  (∀ (src : RegSrc) (s : State),
    exec (.discardAll src) s = .next ({ s with held := s.held.filter fun e =>
      (pageInfo (e.1 / 0x1000)).isNone || s.pageLocked (e.1 / 0x1000) } : State).runReady))

/-- R407 to R409, R416, R417: a write of 1s to assigned bits of `PG_EVT_STATUS` clears those and no others; a write of
`PG_EVT_FORCE` raises the assigned bits it names; a core's write of 1 locks the page; CLEAR zeroes the clamp log with
its HEAD, WRAPPED and TOTAL. Nothing else changes. -/
def Obligations.EventLockAndLogCommands : Prop :=
  (∀ (src : RegSrc) (p : Nat) (w : Word64) (s : State), (pageInfo p).isSome = true →
    w.toNat &&& evtMask p = w.toNat → s.clockStopped p = false →
    exec (.pgEvtStatusClear src p w) s =
      .next (s.setWord (p * 0x1000 + 0x20) (s.word (p * 0x1000 + 0x20) &&& ~~~w)).runReady) ∧
  (∀ (src : RegSrc) (p : Nat) (w : Word64) (s : State), (pageInfo p).isSome = true →
    s.clockStopped p = false →
    exec (.pgEvtForce src p w) s = .next (s.setWord (p * 0x1000 + 0x20)
      (s.word (p * 0x1000 + 0x20) ||| (w &&& BitVec.ofNat 64 (evtMask p)))).runReady) ∧
  (∀ (n p : Nat) (s : State), (pageInfo p).isSome = true → s.clockStopped p = false →
    s.pageLocked p = false →
    ∃ t : State, exec (.pgLock (.core n) p 1) s = .next t.runReady ∧ t = { s with regs := t.regs } ∧ t.pageLocked p = true ∧
      ∀ off, off ≠ p * 0x1000 + 0x50 → t.word off = s.word off) ∧
  (∀ (src : RegSrc) (s : State),
    ∃ t : State, exec (.clear src) s = .next t.runReady ∧ t = { s with regs := t.regs } ∧ t.word 0x118 = 0 ∧
      (∀ off, 0x1800 ≤ off → off < 0x2000 → t.word off = 0) ∧
      ∀ off, off ≠ 0x118 → ¬(0x1800 ≤ off ∧ off < 0x2000) → t.word off = s.word off)

/-! ### Extents and translation (chapter 2) -/

/-- R25, R434, Tables 2.8 to 2.12, 11.5: CREATE that finds an index, an admitted tenant, a fitting range, quota and space
puts an OPEN extent of that index's generation into the table, with the tenant, protection, hint, coherence and
tenant-wide rights of its arguments and, in STACK_PARITY, a parity range, and names its handle; a protection mode that
mirrors offers the range to the partner first (the partner's knowledge of the tenant is the free value of log entry 10). -/
def Obligations.CreateOpensAnExtent : Prop :=
  ∀ (src : RegSrc) (w : Word64) (s t : State) (i st : Nat), s.xltStarts src w 1 = some t →
    let prot := t.fld R.XLT_CMD_ARG1_PROT
    let len := t.fld R.XLT_CMD_ARG0_LENGTH
    let ten := t.fld R.XLT_CMD_TENANT
    let anyStart := t.fld R.XLT_CMD_ARG0_ANY_START = 1
    let stripe := prot = 1 ∨ prot = 4
    (if t.fld R.XLT_CMD_ARG1_ANY_INDEX = 1 then t.lowestIndex = some i
      else i = t.fld R.XLT_CMD_INDEX ∧ t.indexFree i = true ∧ t.holds (setOfIndex i) = true) →
    t.admitted ten = true →
    (stripe → len % 2 = 0 ∧ (t.parityStart st len (parityUnits len)).isSome = true) →
    (prot = 3 → t.fld R.PAR_RPG_RP_EN ≠ 0) →
    (if anyStart then t.lowestStart prot len 0 = some st
      else st = t.fld R.XLT_CMD_ARG0_START ∧ t.rangeFree st len = true ∧ (stripe → st % 2 = 0) ∧
        (prot = 3 → t.fld R.PAR_RPR_D_BASE ≤ st ∧ st + len ≤ t.fld R.PAR_RPR_D_BASE + t.fld R.PAR_RPR_D_UNITS)) →
    t.quotaAdmits ten len = true → t.usedUnits + chargeOf prot len ≤ poolUnits →
    (prot ≠ 2 → prot ≠ 4 → t.standby (setOfIndex i) = false →
      ∃ u : State, exec (.create src w) s = .next u.runReady ∧
        u.extent i = some ⟨.opened, t.genOf i, st, len, ten, prot, t.fld R.XLT_CMD_ARG1_HINT,
          t.fld R.XLT_CMD_ARG1_COHERENT = 1, t.fld R.XLT_CMD_ARG1_TRIGHTS,
          if prot = 1 then (t.parityStart st len (parityUnits len)).map fun p => (p, parityUnits len) else none⟩ ∧
        (∀ j, j ≠ i → u.extent j = t.extent j) ∧
        u.word 0x13128 = BitVec.ofNat 64 (2 + handleOf (t.genOf i) i * 2 ^ 10) ∧
        u.xlt.cmd = none ∧ u.xlt.grants = t.xlt.grants ∧ u.ecc = s.ecc ∧ u.acc = s.acc) ∧
    (prot = 2 ∨ prot = 4 → t.paired = true → t.par.formed = true → (Config.freeBits 10 s.freeCtr).getLsbD 0 = true →
      ∃ u : State, exec (.create src w) s = .next u.runReady ∧ u.xlt.extents = t.xlt.extents ∧
        u.word 0x13128 = 1 ∧
        u.out = s.out ++ [.pairRange 0 (setOfIndex i) (t.pset (setOfIndex i)).term i st len])

/-- R26: GRANT ORs RIGHTS into the holder's grant on the extent, UNGRANT keeps of it only RIGHTS (and frees a grant left at
0b000), SET_TRIGHTS replaces the extent's tenant-wide rights; each leaves every other grant and extent as it was.

R36, R37, R23: REVOKE puts an OPEN extent into CLOSING and drops its translations at once; the end of its sweep makes
it CLOSED, pushes the index with its generation to `XLT_REVOKE_DONE` and raises REVOKE_DONE; RELEASE of a CLOSED extent
frees the index with the next generation, or quarantines it after generation 16,383; UNQUARANTINE frees a quarantined
index. -/
def Obligations.GrantRevokeAndReleaseCommands : Prop :=
  ((∀ (src : RegSrc) (w : Word64) (s t : State) (i : Nat) (e : Extent), s.xltStarts src w 2 = some t →
    t.cmdExtent .opened = some (i, e) → t.holderTenant (t.fld R.XLT_CMD_ARG1_HOLDER) = e.tenant →
    (mgetD t.xlt.grants (grantKey (t.fld R.XLT_CMD_ARG1_HOLDER) i) 0 = 0 → t.fld R.XLT_CMD_ARG1_RIGHTS ≠ 0 →
      t.grantsOf e.tenant < t.fld (R.XLT_TCFG_MAX_GRANTS.at (0x10 * e.tenant)) ∧ t.xlt.grants.length < 1048576) →
    ∃ u : State, exec (.grant src w) s = .next u.runReady ∧ u.xlt.extents = t.xlt.extents ∧
      mgetD u.xlt.grants (grantKey (t.fld R.XLT_CMD_ARG1_HOLDER) i) 0 =
        mgetD t.xlt.grants (grantKey (t.fld R.XLT_CMD_ARG1_HOLDER) i) 0 ||| t.fld R.XLT_CMD_ARG1_RIGHTS ∧
      ∀ k, k ≠ grantKey (t.fld R.XLT_CMD_ARG1_HOLDER) i → mgetD u.xlt.grants k 0 = mgetD t.xlt.grants k 0) ∧
  (∀ (src : RegSrc) (w : Word64) (s t : State) (i : Nat) (e : Extent), s.xltStarts src w 3 = some t →
    t.cmdExtent .opened = some (i, e) →
    ∃ u : State, exec (.ungrant src w) s = .next u.runReady ∧ u.xlt.extents = t.xlt.extents ∧
      mgetD u.xlt.grants (grantKey (t.fld R.XLT_CMD_ARG1_HOLDER) i) 0 =
        mgetD t.xlt.grants (grantKey (t.fld R.XLT_CMD_ARG1_HOLDER) i) 0 &&& t.fld R.XLT_CMD_ARG1_RIGHTS ∧
      ∀ k, k ≠ grantKey (t.fld R.XLT_CMD_ARG1_HOLDER) i → mgetD u.xlt.grants k 0 = mgetD t.xlt.grants k 0) ∧
  (∀ (src : RegSrc) (w : Word64) (s t : State) (i : Nat) (e : Extent), s.xltStarts src w 4 = some t →
    t.cmdExtent .opened = some (i, e) →
    ∃ u : State, exec (.setTrights src w) s = .next u.runReady ∧ u.xlt.grants = t.xlt.grants ∧
      u.extent i = some { e with trights := t.fld R.XLT_CMD_ARG1_TRIGHTS } ∧ ∀ j, j ≠ i → u.extent j = t.extent j)) ∧
  ((∀ (src : RegSrc) (w : Word64) (s t : State) (i : Nat) (e : Extent), s.xltStarts src w 5 = some t →
    t.cmdExtent .opened = some (i, e) → t.xlt.revokes.length < 16 →
    ∃ u : State, exec (.revoke src w) s = .next (((if t.xlt.revokes.any (fun r => r.1 = i) then u else
        (match u.arenaOf i with | some a => u.emptyArena a | none => u).pullExtent i)).runReady) ∧
      u.extent i = some { e with state := .closing } ∧ (∀ b ∈ u.xlt.tlb, b.index ≠ i) ∧
      (i, if t.standby (setOfIndex i) then some (t.nextRecord (setOfIndex i)) else none) ∈ u.xlt.revokes) ∧
  (∀ (i : Nat) (s : State) (e : Extent), (i, none) ∈ s.xlt.revokes → (∀ r ∈ s.xlt.revokes, r.1 = i → r.2 = none) →
    s.extent i = some e → s.revokeOver i = true → s.arenaOf i = none →
    ∃ u : State, exec (.revokeComplete i) s = .next u.runReady ∧ u.extent i = some { e with state := .closed } ∧
      u.xlt.revokeDone = s.xlt.revokeDone ++ [(i, e.gen)] ∧ (∀ r ∈ u.xlt.revokes, r.1 ≠ i) ∧
      (u.word 0x13020).getLsbD 9 = true ∧ (∀ j, j ≠ i → u.extent j = s.extent j) ∧ u.ecc = s.ecc) ∧
  (∀ (src : RegSrc) (w : Word64) (s t : State) (i : Nat) (e : Extent), s.xltStarts src w 6 = some t →
    t.cmdExtent .closed = some (i, e) →
    ∃ u : State, exec (.release src w) s = .next u.runReady ∧ u.extent i = none ∧ (∀ j, j ≠ i → u.extent j = t.extent j) ∧
      (if e.gen = 16383 then i ∈ u.xlt.quarantine ∧ u.genOf i = 1
        else u.xlt.quarantine = t.xlt.quarantine ∧ u.genOf i = e.gen + 1) ∧
      (∀ c ∈ u.acc.lines, c.index ≠ i)) ∧
  (∀ (src : RegSrc) (w : Word64) (s t : State) (i : Nat), s.xltStarts src w 7 = some t →
    i = t.fld R.XLT_CMD_INDEX → i ∈ t.xlt.quarantine → t.holds (setOfIndex i) = true →
    ∃ u : State, exec (.unquarantine src w) s = .next u.runReady ∧ u.xlt.quarantine = t.xlt.quarantine.filter (· ≠ i) ∧
      u.xlt.extents = t.xlt.extents))

/-- R40, R39, Table 2.13: a NOP completes with OK; a read of `XLT_REVOKE_DONE` returns the oldest completed revocation with
VALID and removes it; POP removes the head of the management fault queue; clearing its FAULT_LOST clears its OVERFLOW. -/
def Obligations.XltReadsAndPops : Prop :=
  (∀ (src : RegSrc) (w : Word64) (s t : State), s.xltStarts src w 0 = some t →
    ∃ u : State, exec (.xltNop src w) s = .next u.runReady ∧ u.word 0x13128 = 2 ∧ u.xlt = { t.xlt with cmd := none } ∧
      u = { t with regs := u.regs, xlt := u.xlt }) ∧
  (∀ (n i g : Nat) (l : List (Nat × Nat)) (s : State), s.xlt.revokeDone = (i, g) :: l →
    exec (.xltRevokeDoneRead (.core n)) s = .next { s with
      xlt := { s.xlt with revokeDone := l }
      out := s.out ++ [.busRead (.core n) 0x13138 (BitVec.ofNat 64 (i + g * 2 ^ 18 + 2 ^ 63))] }) ∧
  (∀ (src : RegSrc) (w : Word64) (s : State), w.toNat < 2 →
    exec (.xltMfqPop src w) s =
      .next ({ s with xlt := { s.xlt with mfq := { s.xlt.mfq with entries := s.xlt.mfq.entries.drop 1 } } } : State).runReady) ∧
  (∀ (src : RegSrc) (w : Word64) (s : State), w.toNat < 2 ^ 44 →
    ∃ u : State, exec (.xltMfqFaultLostClear src w) s = .next u.runReady ∧ u.xlt.mfq = { s.xlt.mfq with lost := false, overflow := 0 } ∧
      u = { s with regs := u.regs, xlt := u.xlt })

/-! ### The frame and the slots (chapters 3 and 10) -/

/-- R41, R9, R47: once the frame timer runs, a frame boundary begins a frame (with the epoch records of the sets held here
and PWR's evaluation behind it). With no committed window the new frame starts 1,920 CK_FT cycles after the last one,
`FTM_FRAME` has advanced by one, what was lent has returned, the boundary is free when nothing was lent, and neither memory
nor the access plane has changed. Before the timer runs the row has no effect. -/
def Obligations.FrameBoundaryBeginsAFrame : Prop :=
  (∀ s : State, s.pwr.timer = true →
    exec .frameBoundary s = .next ((s.newFrame.epochSend 0).epochSend 1).powerEval) ∧
  (∀ s : State, s.pwr.timer = false → exec .frameBoundary s = .next s) ∧
  (∀ s : State, s.ftm.windows = [] →
    s.newFrame.frameStart = s.frameStart + 1920 ∧ s.newFrame.now = max s.now (s.frameStart + 1920) ∧
    s.newFrame.frame = (s.frame + 1) % 2 ^ 53 ∧ s.newFrame.ftm.lent = none ∧
    s.newFrame.ftm.free = s.ftm.lent.isNone ∧ s.newFrame.ftm.windows = [] ∧
    (∀ n, n < 8 → s.newFrame.ftm.hot.contains n = s.ftm.hotNext.contains n) ∧
    s.newFrame.ecc = s.ecc ∧ s.newFrame.acc = s.acc ∧ s.newFrame.smc = s.smc ∧ s.newFrame.seq = s.seq)

/-- R208, R209, R207: in shared mode an ACCESS slot of a pseudo-channel whose only queued command is a read that its bank
takes once ended idle timers have closed their rows issues that read; the row stays open through the slot while `IDLE_CYC`
outlasts it, and none does with `IDLE_CYC` 0; time reaches the slot's start, and no other pseudo-channel and no stored byte
changes. -/
def Obligations.AccessSlotIssuesTheQueuedRead : Prop :=
  ∀ (p slot : Nat) (s : State) (e : RqEntry), s.slotRuns p slot = true → s.slotUse p slot = .access none →
    s.strict = false → (s.pc p).rq = [e] → (s.pc p).wq = [] → (s.pc p).wqFull = false → s.acc.sweepLines = false →
    (s.pc p).inserted = [] → e.rmw = false → e.through = false →
    (∀ g ∈ s.ecc.recon ++ s.ecc.verify, pcOf (g * 64) ≠ p) →
    ((s.pc p).closeIdle (s.slotMc slot)).colReady e.g (s.slotMc slot) = true →
    ∃ t : State, exec (.accessSlot p slot) s = .next t ∧ (t.pc p).rq = [] ∧ (t.pc p).wq = [] ∧
      t.now = max s.now (s.frameStart + 15 * slot) ∧
      (44 < s.fld (R.SMC_CFG_IDLE_CYC.at (stackOfPc p * 0x1000)) →
        mget (t.pc p).openRows (bankOfG e.g) = some (rowOf (e.g * 64))) ∧
      (s.fld (R.SMC_CFG_IDLE_CYC.at (stackOfPc p * 0x1000)) = 0 → mget (t.pc p).openRows (bankOfG e.g) = none) ∧
      (∀ q, q ≠ p → t.pc q = s.pc q) ∧ t.ecc = s.ecc ∧ t.xlt = s.xlt ∧ t.acc = s.acc

/-- R211, R53, R125: a PLANNED slot of a pseudo-channel whose queue holds one planned write, entered at least 4 cycles before
and whose bank takes an activate, stores the write's 64 bytes whole, and the queue is then empty. No other pool byte and
no other planned queue changes, nor, where its unit is FULL and it has no parity, any other pseudo-channel. -/
def Obligations.PlannedSlotStoresAPlannedWrite : Prop :=
  ∀ (p slot : Nat) (s : State) (r : Run) (c : CallRec) (x : PlannedCmd) (i : Nat) (e : Extent),
    s.slotRuns p slot = true → s.slotUse p slot = .planned → s.runCall = some (r, c) → (s.pc p).inserted = [] →
    (s.pc p).planned = [x] → x.write = true → x.data.length = 64 → x.skip = 0 → x.entered + 4 ≤ s.slotMc slot →
    (s.pc p).actReady (bankOfG x.g) (s.slotMc slot) = true → s.extentAt (x.g * 64) = some (i, e) → x.g * 64 < poolEnd →
    ∃ t : State, exec (.plannedSlot p slot) s = .next t ∧
      t = (s.slotTime slot).issuePlanned c p x (s.slotMc slot) (s.slotMc slot) ∧
      (t.pc p).planned = [] ∧ t.ecc.mem.read (x.g * 64) 64 = x.data ∧
      (∀ a, a < poolEnd → ¬(x.g * 64 ≤ a ∧ a < x.g * 64 + 64) → t.ecc.mem.byte a = s.ecc.mem.byte a) ∧
      (∀ q, q ≠ p → (t.pc q).planned = (s.pc q).planned) ∧
      (mget s.ecc.units (x.g / 1024) = some true → e.prot ≠ 1 → e.prot ≠ 4 → ∀ q, q ≠ p → t.pc q = s.pc q)

/-- R52, R53, R214: a GUARD slot issues at most 8 queued writes of its pseudo-channel, none of another's, and leaves every
bank precharged. -/
def Obligations.GuardSlotDrainsAndPrecharges : Prop :=
  ∀ (p slot : Nat) (s : State), s.slotRuns p slot = true → s.slotUse p slot = .guard →
    ∃ t : State, exec (.guardSlot p slot) s = .next t ∧ (t.pc p).openRows = [] ∧ (t.pc p).idleAt = [] ∧
      (s.pc p).wq.length ≤ (t.pc p).wq.length + 8 ∧ (∀ e ∈ (t.pc p).wq, e ∈ (s.pc p).wq) ∧
      (∀ q, q ≠ p → t.pc q = s.pc q) ∧ t.ecc = s.ecc ∧ t.xlt = s.xlt

/-- R48 to R51, R218, R239, R207, R209: a REFRESH slot closes and keeps busy for 256 cycles one bank of every group, the one
that the frame and the stack's hot mark choose; a CAL slot runs the pseudo-channel's next step: interface training in every
4,096th slot, ZQ in every 256th since the last ZQ, else read and write tracking in turn (a 4,096th slot that is also a 256th
runs the training alone: the model's choice, log entry 54), and a step that finds a read latency leaves it for the boundary; a
SCRUB slot gives the pseudo-channel's twelve positions to the ECC block, and those that reconstruction, correcting writes and
verify reads leave are idle for the rebuild, the re-key sweep and the scrubber; an idle timer that ends in an ACCESS slot closes its bank's row once write
recovery allows; a write that waited enters a write queue that has room for it, and an answer that waited for that is counted
again. -/
def Obligations.RefreshCalScrubAndQueueRows : Prop :=
  (∀ (p slot : Nat) (s : State), s.slotRuns p slot = true → s.slotUse p slot = .refresh →
    ∃ t : State, exec (.refreshSlot p slot) s = .next t ∧
      (∀ i, i < 16 → mget (t.pc p).openRows (16 * (i / 4) + 4 * (i % 4) + s.refreshBank p slot) = none ∧
        mget (t.pc p).busyTo (16 * (i / 4) + 4 * (i % 4) + s.refreshBank p slot) = some (s.slotMc slot + 3 * i + 256)) ∧
      (∀ q, q ≠ p → t.pc q = s.pc q) ∧ t.ecc = s.ecc ∧ t.ftm = s.ftm) ∧
  (∀ (p slot lat : Nat) (s : State), s.slotRuns p slot = true → s.slotUse p slot = .cal →
    let n := mgetD s.ftm.calTotal p 0 + 1
    let k := mgetD s.ftm.calCount p 0 + 1
    ∃ t : State, exec (.calSlot p slot lat) s = .next t ∧ mgetD t.ftm.calTotal p 0 = n ∧
      (n % 4096 = 0 → (p, lat) ∈ t.ftm.calPend ∧ (k < 256 → mgetD t.ftm.calCount p 0 = k)) ∧
      (n % 4096 ≠ 0 → 256 ≤ k → t.ftm.calPend = s.ftm.calPend ∧ mgetD t.ftm.calCount p 0 = 0 ∧
        mget t.ftm.zqTemp p = some (mgetD s.ftm.temps (stackOfPc p) 0)) ∧
      (n % 4096 ≠ 0 → k < 256 → mget s.ftm.zqTemp p = none → mgetD t.ftm.calCount p 0 = k ∧
        (n % 2 = 1 → (p, lat) ∈ t.ftm.calPend) ∧ (n % 2 = 0 → t.ftm.calPend = s.ftm.calPend)) ∧
      t.smc = s.smc ∧ t.ecc = s.ecc) ∧
  (∀ (p slot : Nat) (s : State), s.slotRuns p slot = true → s.slotUse p slot = .scrub →
    exec (.scrubSlot p slot) s = .next ((List.range 12).foldl (fun s j => s.scrubPosition p (s.slotMc slot + 4 * j))
      (s.slotBegins p slot)) ∧
    ((∀ g ∈ s.ecc.recon ++ s.ecc.verify, pcOf (g * 64) ≠ p) → (∀ e ∈ (s.pc p).wq, e.scrub = false) →
      ∃ t : State, exec (.scrubSlot p slot) s = .next t ∧ (t.pc p).idle = (List.range 12).map (s.slotMc slot + 4 * ·) ∧
        t.now = max s.now (s.frameStart + 15 * slot) ∧ (∀ q, q ≠ p → t.pc q = s.pc q) ∧ t.ecc = s.ecc ∧ t.ftm = s.ftm)) ∧
  (∀ (p b t0 : Nat) (s : State), mget (s.pc p).idleAt b = some t0 →
    let u := s.toTime (ceilDiv (t0 * 5) 16)
    let slot := (u.now - u.frameStart) / 15
    u.slotRuns p slot = true → u.slotUse p slot = .access none → reached (s.pc p).wrTo b 0 u.mcNow = true →
    ∃ t : State, exec (.bankIdlePrecharge p b) s = .next t ∧ mget (t.pc p).openRows b = none ∧
      mget (t.pc p).idleAt b = none ∧ (∀ k, k ≠ b → mget (t.pc p).openRows k = mget (s.pc p).openRows k) ∧
      (∀ q, q ≠ p → t.pc q = s.pc q) ∧ t.ecc = s.ecc) ∧
  (∀ (p : Nat) (s : State) (e : WqEntry) (l : List WaitWrite), s.smc.waits = ⟨[e.g], [e.g], .entry e⟩ :: l →
    pcOf (e.g * 64) = p → (s.pc p).wq.length < wqDepth → s.readQueued e.g = false →
    s.stackNapping (stackOfPc p) = false →
    ∃ t : State, exec (.writeQueueAdmit p) s = .next (t.unpark e.key).runReady ∧ e ∈ (t.pc p).wq ∧
      t.smc.waits = l ∧ (∀ q, q ≠ p → t.pc q = s.pc q) ∧ t.ecc = s.ecc)

/-- R49, R51, R46, R142, R162: a temperature reading is kept and marks its stack for its hot slot from `HOT_C` on; at a
boundary the calibration results that have awaited it are judged together against the `PL_LAT` before it; a lower `PL_LAT`
and applied FTM words take effect at a free boundary only; with no change of mode under way the partition row does nothing.
Which sixteenth of the sets a bank serves is the model's choice (log entry 57). -/
def Obligations.BoundaryEffectsOfTheFtm : Prop :=
  (∀ (n : Nat) (l : List Nat) (s : State), n < 8 → l ≠ [] → s.act R.FTM_THERM_HOT_C ≤ l.foldl max 0 →
    ∃ t : State, exec (.stackTempRead n l) s = .next t ∧ mget t.ftm.temps n = some (l.foldl max 0) ∧
      n ∈ t.ftm.hotNext ∧ (∀ k, k ≠ n → (k ∈ t.ftm.hotNext ↔ k ∈ s.ftm.hotNext)) ∧ t = { s with ftm := t.ftm } ∧
      t.ftm.hot = s.ftm.hot) ∧
  (∀ (n : Nat) (l : List Nat) (s : State), n < 8 → l ≠ [] → l.foldl max 0 < s.act R.FTM_THERM_HOT_C →
    ∃ t : State, exec (.stackTempRead n l) s = .next t ∧ mget t.ftm.temps n = some (l.foldl max 0) ∧
      (n ∈ t.ftm.hotNext ↔ n ∈ s.ftm.hotNext ∧ s.act R.FTM_THERM_HOT_C - s.act R.FTM_THERM_HYST_C ≤ l.foldl max 0) ∧
      (∀ k, k ≠ n → (k ∈ t.ftm.hotNext ↔ k ∈ s.ftm.hotNext)) ∧ t = { s with ftm := t.ftm } ∧ t.ftm.hot = s.ftm.hot) ∧
  (∀ (p lat : Nat) (s : State), s.now = s.frameStart → s.ftm.calDue = [(p, lat)] → (s.pc p).state = 1 → lat < 128 →
    lat ≤ s.fld R.FTM_REBASE_PL_LAT →
    ∃ t : State, exec .calResultApply s = .next t ∧ t.ftm.calDue = [] ∧ (t.pc p).rdLat = lat ∧ (t.pc p).calFaults = 0 ∧
      t.fld R.FTM_REBASE_PL_LAT = s.fld R.FTM_REBASE_PL_LAT ∧ (∀ q, q ≠ p → t.pc q = s.pc q) ∧
      t.fld R.FTM_REBASE_DOWN_PENDING = (if t.latNeeded < s.fld R.FTM_REBASE_PL_LAT then 1 else 0)) ∧
  (∀ (p lat : Nat) (s : State), s.now = s.frameStart → s.ftm.calDue = [(p, lat)] → (s.pc p).state = 1 → lat < 128 →
    s.fld R.FTM_REBASE_PL_LAT < lat → lat + 2 ≤ s.fld R.FTM_REBASE_PL_LAT + 8 → s.runCall = none →
    (∀ q, q ≠ p → (s.pc q).rdLat ≤ lat) →
    ∃ t : State, exec .calResultApply s = .next t ∧ t.ftm.calDue = [] ∧ (t.pc p).rdLat = lat ∧ (t.pc p).calFaults = 0 ∧
      t.fld R.FTM_REBASE_PL_LAT = lat + 2 ∧ (t.word 0xD020).getLsbD 8 = true ∧
      t.fld R.FTM_REBASE_REBASES = (s.fld R.FTM_REBASE_REBASES + 1) % 2 ^ 32 ∧ ∀ q, q ≠ p → t.pc q = s.pc q) ∧
  (∀ s : State, s.now ≠ s.frameStart ∨ s.ftm.calDue = [] → exec .calResultApply s = .next s) ∧
  (∀ s : State, s.ftm.free = true → s.now = s.frameStart → s.fld R.FTM_REBASE_DOWN_PENDING = 1 →
    ∃ t : State, exec .plLatDown s = .next t ∧ t.fld R.FTM_REBASE_PL_LAT = s.latNeeded % 256 ∧
      t.fld R.FTM_REBASE_DOWN_PENDING = 0 ∧ t = { s with regs := t.regs }) ∧
  (∀ s : State, s.ftm.free = false ∨ s.now ≠ s.frameStart ∨ s.fld R.FTM_REBASE_DOWN_PENDING ≠ 1 →
    exec .plLatDown s = .next s) ∧
  (∀ s : State, s.now ≠ s.frameStart ∨ s.ftm.due = none → exec .ftmApplyEffect s = .next s) ∧
  (∀ (s : State) (w : NMap Word64), s.now = s.frameStart → s.ftm.due = some w →
    ∃ t : State, exec .ftmApplyEffect s = .next t ∧ t.ftm.due = none ∧ t.ftm.acting = w ∧
      (s.strict ≠ t.strict → t.acc.sweepLines = true) ∧ (s.strict = false → t.strict = true → t.dir.evict = true) ∧
      t.ecc = s.ecc ∧ t.xlt = s.xlt) ∧
  (∀ (b : Nat) (s : State), s.dir.evict = false → exec (.dirPartitionEvict b) s = .next s) ∧
  (∀ (b : Nat) (s : State) (d : DirEntry), s.dir.evict = true →
    s.dir.entries.find? (fun d => s.ownEntry d && dirSetOf d.line / 131072 = b % 16 &&
      !(s.dirWays d.tenant).contains d.way && !s.blocked d.line) = some d → s.victimsFull d.tenant = false →
    exec (.dirPartitionEvict b) s = .next (s.evictEntry d))

/-! ### Fronds and arithmetic (chapter 4), the fields of a crozier word (chapter 5) -/

/-- R65, R61, R63, Table 5.7: in the running call's cycle, a lane operation of a clump's vector slot sends, for every
enabled declared frond in order, the 64 lane results under the frond's predicates to VD after the operation's latency,
raises the flags of the active lanes, advances the draw counters of the whole clump where it rounds stochastically (R73),
and changes nothing else of any frond, no stored byte and no other part of the run. -/
def Obligations.VectorLaneRowsQueueTheirResults : Prop :=
  ∀ row ∈ ([(.vAdd, 4, true, laneAdd), (.vSub, 4, true, laneSub), (.vMul, 4, true, laneMul), (.vFma, 4, true, laneFma),
      (.vMin, 4, false, fun v => laneMinMax v false), (.vMax, 4, false, fun v => laneMinMax v true),
      (.vMinnum, 4, false, fun v => laneMinMaxNum v false), (.vMaxnum, 4, false, fun v => laneMinMaxNum v true),
      (.vIntAdd, 4, false, fun v => laneIntOp v (· + ·)), (.vIntSub, 4, false, fun v => laneIntOp v (· - ·)),
      (.vIntMul, 4, false, fun v => laneIntOp v (· * ·)), (.vShl, 4, false, fun v => laneShift v shlBits),
      (.vShr, 4, false, fun v => laneShift v shrBits), (.vSar, 4, false, fun v => laneShift v sarBits),
      (.vAnd, 4, false, fun _ => laneBits (· &&& ·)), (.vOr, 4, false, fun _ => laneBits (· ||| ·)),
      (.vXor, 4, false, fun _ => laneBits (· ^^^ ·)), (.vPopcnt, 4, false, lanePop), (.vClz, 4, false, laneClz),
      (.vDot4, 4, false, laneDot4), (.vExp2, 12, false, fun v => laneTrans v laneExp2),
      (.vLog2, 12, false, fun v => laneTrans v laneLog2), (.vRcp, 12, false, fun v => laneTrans v laneRcp),
      (.vRsqrt, 12, false, fun v => laneTrans v laneRsqrt)] :
      List ((Nat → VecField → Instr) × Nat × Bool × (VecField → LaneIn → Flagged Nat))),
    ∀ (c : Nat) (v : VecField) (s : State) (r : Run), s.seq.run = some r →
      ∃ t : State, exec (row.1 c v) s = .next t ∧
        t.seq.run = some { r with inCycle := false, pipe := r.pipe ++ (s.enabledFronds (c % 8) v.en).map fun f =>
          ⟨r.cyc + row.2.1, false, .vreg f v.vd (s.frond f).preds
            ((s.laneIns f v).map fun x => BitVec.ofNat 32 (row.2.2.2 v x).val)⟩ } ∧
        (∀ f, t.frond f = { s.frond f with
          flags := if f ∈ s.enabledFronds (c % 8) v.en then
              (s.frond f).flags ||| BitVec.ofNat 16 (activeFlags (s.frond f).preds ((s.laneIns f v).map (row.2.2.2 v)))
            else (s.frond f).flags
          draw := (s.frond f).draw + if f ∈ s.clumpFronds (c % 8) ∧ row.2.2.1 = true ∧ v.rm = 4 then 1 else 0 }) ∧
        t = { s with seq := t.seq } ∧ t.seq.calls = s.seq.calls ∧ t.seq.slab = s.seq.slab

/-- R75, R76, R79, R66, R67, R72, Tables 4.4 and 5.7: what CVT, CMP, the reductions, PERMUTE, BROADCAST, LD, ST, RAND,
SETBASE, PSET and XRECV of a clump with one enabled frond `f` send to its registers, predicates, base register or store,
and when. What the spec leaves open of a lane stands in `LaneIn.free`. -/
def Obligations.OtherVectorRowsQueueTheirResults : Prop :=
  ∀ (c f : Nat) (v : VecField) (s : State) (r : Run), s.seq.run = some r → s.enabledFronds (c % 8) v.en = [f] → s.ecc.sram = [] →
    (v.mx = false → ∃ t : State, exec (.vCvt c v) s = .next t ∧
      t.seq.run = some { r with inCycle := false, pipe := r.pipe ++ [⟨r.cyc + 3, false, .vreg f v.vd (s.frond f).preds
        ((s.laneIns f v).map fun x => BitVec.ofNat 32 (laneCvt v x).val)⟩] }) ∧
    (∀ e, v.mx = true → mxExp v.sel = some e → ∃ t : State, exec (.vCvt c v) s = .next t ∧ ∃ (lanes : List (BitVec 32)),
      t.seq.run = some { r with inCycle := false, pipe := r.pipe ++ [⟨r.cyc + 3, false, .vreg f v.vd (s.frond f).preds lanes⟩,
        ⟨r.cyc + 3, false, .vreg f v.vc ((s.frond f).preds &&& 1)
          [BitVec.ofNat 32 ((((s.frond f).vreg v.vc).getD 0 0).toNat / 65536 * 65536 +
            (mxBlock v.sel e v.rm (((s.laneIns f v).map (·.draw)).drop 32)
              (((s.laneIns f v).map fun y => valOfCode v.vfmt (elemOf (widthOf v.vfmt) 0 y.a)).drop 32)).1 * 256 +
            (mxBlock v.sel e v.rm (((s.laneIns f v).map (·.draw)).take 32)
              (((s.laneIns f v).map fun y => valOfCode v.vfmt (elemOf (widthOf v.vfmt) 0 y.a)).take 32)).1)]⟩] }) ∧
    (∃ t : State, exec (.vCmp c v) s = .next t ∧ ∃ bits : BitVec 64,
      t.seq.run = some { r with inCycle := false, pipe := r.pipe ++ [⟨r.cyc + 4, false, .pred f (s.frond f).preds bits⟩] } ∧
      ∀ k, k < 64 → bits.getLsbD k = (((s.laneIns f v).map (laneCmp v)).getD k ⟨false, 0⟩).val) ∧
    (∀ row ∈ ([(.vSumReduce, 0), (.vMaxReduce, 1), (.vMinReduce, 2)] : List ((Nat → VecField → Instr) × Nat)),
      ∀ val fl, reduceLanes v row.2 ((s.laneIns f v).headD ⟨0, 0, 0, 0, 0⟩).free ((s.laneIns f v).map (·.draw))
        ((s.laneIns f v).map (·.a)) = (val, fl) →
      ∃ t : State, exec (row.1 c v) s = .next t ∧ ∃ rest : List (BitVec 32),
        t.seq.run = some { r with inCycle := false, pipe := r.pipe ++ [⟨r.cyc + 8, false, .vreg f v.vd (s.frond f).preds
          (BitVec.ofNat 32 val :: rest)⟩] } ∧ rest.length = 63 ∧
        (t.frond f).flags = (s.frond f).flags ||| BitVec.ofNat 16 fl) ∧
    (∃ t : State, exec (.vPermute c v) s = .next t ∧ ∃ lanes : List (BitVec 32),
      t.seq.run = some { r with inCycle := false, pipe := r.pipe ++ [⟨r.cyc + 8, false, .vreg f v.vd (s.frond f).preds lanes⟩] } ∧
      ∀ k, k < 64 → (((s.frond f).vreg v.vb).getD k 0).toNat < 64 →
        lanes.getD k 0 = ((s.frond f).vreg v.va).getD (((s.frond f).vreg v.vb).getD k 0).toNat 0) ∧
    (∃ t : State, exec (.vBroadcast c v) s = .next t ∧ ∃ k, k < 64 ∧
      t.seq.run = some { r with inCycle := false, pipe := r.pipe ++ [⟨r.cyc + 8, false, .vreg f v.vd (s.frond f).preds
        (List.replicate 64 (((s.frond f).vreg v.va).getD k 0))⟩] }) ∧
    (∃ t : State, exec (.vLd c v) s = .next t ∧ t = { s with seq := { s.seq with run := some { r with
      inCycle := false, pipe := r.pipe ++ [⟨r.cyc + 4, false, .vreg f v.lsReg ((s.frond f).preds &&& BitVec.ofNat 64 (2 ^ (v.lsSize / 4) - 1))
        (lanesOf (v.lsSize / 4) ((s.frond f).read (alignTo ((s.frond f).addr v.vbase v.voff) v.lsSize) v.lsSize))⟩] } } }) ∧
    (let a := alignTo ((s.frond f).addr v.vbase v.voff) v.lsSize
     let preds := (s.frond f).preds
     let lanes := (s.frond f).vreg v.lsReg
     let l := stores f a v.lsSize preds lanes
     exec (.vSt c v) s = .next { s with seq := { s.seq with run := some { r with
       inCycle := false, pipe := r.pipe ++ l.map fun e => ⟨r.cyc + 5, false, e⟩ } } } ∧
     (∀ k, k < v.lsSize / 4 → preds.getLsbD k = true → ∃ j bs, .store f (a + 4 * j) bs ∈ l ∧ j ≤ k ∧
       (bs.drop (4 * (k - j))).take 4 = leBytes 4 (lanes.getD k 0).toNat) ∧
     (∀ k, preds.getLsbD k = false ∨ v.lsSize / 4 ≤ k → ∀ j bs, .store f (a + 4 * j) bs ∈ l →
       ¬(j ≤ k ∧ 4 * k < 4 * j + bs.length)) ∧
     ∀ e ∈ l, ∃ j bs, e = .store f (a + 4 * j) bs) ∧
    (∃ t : State, exec (.vRand c v) s = .next t ∧
      t.seq.run = some { r with inCycle := false, pipe := r.pipe ++ [⟨r.cyc + 4, false, .vreg f v.vd (s.frond f).preds
        (frondDraws s.seed (s.frond f).draw f)⟩] } ∧
      ∀ g, (t.frond g).draw = (s.frond g).draw + if g ∈ s.clumpFronds (c % 8) then 1 else 0) ∧
    (∃ t : State, exec (.vSetbase c v) s = .next t ∧ t = { s with seq := { s.seq with run := some { r with
      inCycle := false, pipe := r.pipe ++ [⟨r.cyc + 5, false, .base f v.sel ((((s.frond f).vreg v.va).getD 0 0).toNat % 2 ^ 21)⟩] } } }) ∧
    (∃ t : State, exec (.vPset c v) s = .next t ∧ t = { s with seq := { s.seq with run := some { r with
      inCycle := false, pipe := r.pipe ++ [⟨r.cyc + 4, false, .pred f (~~~0) (if v.isat then ~~~0 else 0)⟩] } } }) ∧
    (∃ t : State, exec (.vXrecv c v) s = .next t ∧ t = { s with seq := { s.seq with run := some { r with
      inCycle := false, pipe := r.pipe ++ [⟨r.cyc + 4, false, .vreg f v.vd (s.frond f).preds (lanesOf 64 (s.frond f).arrived)⟩] } } })

/-- R75, R77, R89, Table 5.7: on 32-bit integer lanes, ADD, SUB and MUL wrap modulo 2^32 and raise nothing when they do not
saturate; AND, OR and XOR work on whole lanes of any format; the shifts by less than 32, POPCNT and CLZ give what their names
say; the flag OF alone marks a saturated ADD.

R79, R77: a SUM, MAX or MIN reduction of 32-bit integer lanes is one value of a fixed tree: the maximum bounds every
lane and is one of them, and the wrapping sum is the sum modulo 2^32. -/
def Obligations.IntegerLanesAndReductionsCompute : Prop :=
  (∀ (v : VecField) (a b : BitVec 32) (c free : Nat) (d : BitVec 32), v.vfmt = 12 ∨ v.vfmt = 13 →
    let x : LaneIn := ⟨a.toNat, b.toNat, c, d, free⟩
    (v.isat = false →
      laneIntOp v (· + ·) x = ⟨(a + b).toNat, 0⟩ ∧ laneIntOp v (· - ·) x = ⟨(a - b).toNat, 0⟩ ∧
      laneIntOp v (· * ·) x = ⟨(a * b).toNat, 0⟩) ∧
    (v.isat = true → v.vfmt = 13 → laneIntOp v (· + ·) x =
      if 2 ^ 32 ≤ a.toNat + b.toNat then ⟨2 ^ 32 - 1, flagOF⟩ else ⟨a.toNat + b.toNat, 0⟩) ∧
    laneBits (· &&& ·) x = ⟨(a &&& b).toNat, 0⟩ ∧ laneBits (· ||| ·) x = ⟨(a ||| b).toNat, 0⟩ ∧
    laneBits (· ^^^ ·) x = ⟨(a ^^^ b).toNat, 0⟩ ∧
    (b.toNat < 32 → laneShift v shlBits x = ⟨(a <<< b.toNat).toNat, 0⟩ ∧ laneShift v shrBits x = ⟨(a >>> b.toNat).toNat, 0⟩ ∧
      laneShift v sarBits x = ⟨(a.sshiftRight b.toNat).toNat, 0⟩) ∧
    lanePop v x = ⟨((List.range 32).filter fun k => a.getLsbD k).length, 0⟩ ∧
    (laneClz v x).flags = 0 ∧ (a = 0 → (laneClz v x).val = 32) ∧
    (a ≠ 0 → (laneClz v x).val < 32 ∧ a.getLsbD (31 - (laneClz v x).val) = true ∧
      ∀ k, 31 - (laneClz v x).val < k → a.getLsbD k = false)) ∧
  (∀ (v : VecField) (free : Nat) (draws : List (BitVec 32)) (l : List Nat), v.vfmt = 13 → v.isat = false → l.length = 64 →
    (∀ a ∈ l, a < 2 ^ 32) →
    reduceLanes v 0 free draws l = (l.sum % 2 ^ 32, 0) ∧
    (∃ m, reduceLanes v 1 free draws l = (m, 0) ∧ m ∈ l ∧ ∀ a ∈ l, a ≤ m) ∧
    (∃ m, reduceLanes v 2 free draws l = (m, 0) ∧ m ∈ l ∧ ∀ a ∈ l, m ≤ a))

/-- R74, R77, R75, Table 4.3: the canonical quiet NaN of each format, and that an operation on a NaN operand gives it, in
every rounding mode; MINNUM and MAXNUM give the number; a conversion of NaN to an integer gives 0 with NV.

R70: a magnitude rounded to a multiple of a power of two is kept when it is one, whatever the mode; of an inexact one RNE
takes the nearest multiple, ties to even, RTZ the lower magnitude, and RUP and RDN the neighbour on the named side. -/
def Obligations.NansAndRoundingFollowTheFormats : Prop :=
  (fp32.qnan = 0x7FC00000 ∧ fp16.qnan = 0x7E00 ∧ bf16.qnan = 0x7FC0 ∧ e4m3.qnan = 0x7F ∧ e5m2.qnan = 0x7E ∧
  (∀ (f : Fmt) (mode : Mode) (draw : BitVec 32) (x y z : FVal), x.isNan = true ∨ y.isNan = true →
    (f.addV mode draw x y).val = f.qnan ∧ (f.mulR mode draw x y).val = f.qnan ∧ (f.fmaR mode draw x y z).val = f.qnan) ∧
  (∀ (f : Fmt) (isMax : Bool) (a b : Nat), (f.decode a).isNan = true →
    (f.minmax isMax a b).val = f.qnan ∧ (f.minmax isMax b a).val = f.qnan ∧
    ((f.decode b).isNan = false → (f.minmaxNum isMax a b).val = b ∧ (f.minmaxNum isMax b a).val = b) ∧
    ((f.decode b).isNan = true → (f.minmaxNum isMax a b).val = f.qnan)) ∧
  (∀ (f : Fmt) (mode : Mode) (sat sg : Bool) (draw : BitVec 32) (q : Bool) (w : Nat),
    (f.convert mode sat draw (.nan q)).val = f.qnan ∧ toIntV w sg mode draw (.nan q) = ⟨0, flagNV⟩)) ∧
  (∀ (src : Source) (draw : BitVec 32) (neg : Bool) (m : Nat) (e q : Int),
    (∀ mode, q ≤ e → roundAt mode src draw neg m e q = (m * 2 ^ (e - q).toNat, false)) ∧
    (e < q → ∀ mode : Mode,
      let d := 2 ^ (q - e).toNat
      let k := (roundAt mode src draw neg m e q).1
      ((roundAt mode src draw neg m e q).2 = true ↔ m % d ≠ 0) ∧ (k = m / d ∨ k = m / d + 1) ∧
      (mode < 4 → m % d = 0 → k = m / d) ∧
      (mode = 0 → 2 * (m % d) < d → k = m / d) ∧ (mode = 0 → d < 2 * (m % d) → k = m / d + 1) ∧
      (mode = 0 → 2 * (m % d) = d → k % 2 = 0) ∧ (mode = 1 → k = m / d) ∧
      (mode = 2 → m % d ≠ 0 → k = if neg then m / d else m / d + 1) ∧
      (mode = 3 → m % d ≠ 0 → k = if neg then m / d + 1 else m / d)))

/-- R81, R80, Table 5.6, R67, R84 to R88: the unit rows in a clump with one enabled frond. MMA of formats that form no pair
sets the row to NaN and raises NV; MREAD sends the row to the store and clears it when told; BLOAD fills the operand
buffer at the end of its 4 cycles; XCHG reaches every declared member of its clump after 6 cycles, with zeros of a disabled
sender; MERGE, HLOOKUP, HINSERT, BIN and PTR do in that frond what their descriptors say. -/
def Obligations.UnitRowsActInTheEnabledFronds : Prop :=
  ∀ (c f : Nat) (u : UnitField) (s : State) (r : Run), s.seq.run = some r → s.enabledFronds (c % 8) u.en = [f] → s.ecc.sram = [] →
    (matPair (bitsOf u.uarg 6 4) (s.frond f).bfmt = false → ∃ t : State, exec (.mma c u) s = .next t ∧
      (∀ n, n < 32 → ((t.frond f).accRow (bitsOf u.uarg 0 6)).getD n 0 = 0x7FC00000#32) ∧
      (t.frond f).flags = (s.frond f).flags ||| 1 ∧
      (∀ row, row ≠ bitsOf u.uarg 0 6 → (t.frond f).accRow row = (s.frond f).accRow row) ∧
      (∀ g, g ≠ f → t.frond g = s.frond g) ∧ t.seq.run = some { r with inCycle := false }) ∧
    (matPair (bitsOf u.uarg 6 4) (s.frond f).bfmt = true → ∃ t : State, exec (.mma c u) s = .next t ∧
      ((t.frond f).accRow (bitsOf u.uarg 0 6)).length = 32 ∧
      (∀ row, row ≠ bitsOf u.uarg 0 6 → (t.frond f).accRow row = (s.frond f).accRow row) ∧
      (t.frond f).store = (s.frond f).store ∧ (t.frond f).vregs = (s.frond f).vregs ∧
      (∀ g, g ≠ f → t.frond g = s.frond g) ∧ t.seq.run = some { r with inCycle := false }) ∧
    (∃ t : State, exec (.mread c u) s = .next t ∧
      t.seq.run = some { r with inCycle := false, pipe := r.pipe ++ [⟨r.cyc + 9, false, .store f
        (alignTo ((s.frond f).addr u.ubase u.uoff) 128)
        (((s.frond f).accRow (bitsOf u.uarg 0 6)).flatMap fun w => leBytes 4 w.toNat)⟩] } ∧
      (t.frond f).accRow (bitsOf u.uarg 0 6) =
        if bitsOf u.uarg 6 1 = 1 then List.replicate 32 0 else (s.frond f).accRow (bitsOf u.uarg 0 6)) ∧
    (let code := bitsOf u.uarg 0 4
     let n := matBBytes code
     let sc := fun (k : Nat) =>
       (s.frond f).read (alignLow ((s.frond f).addr (u.ubase ^^^ 1) (u.uoff / (4 * matWidth code))) k) k
     ∃ t : State, exec (.bload c u) s = .next t ∧
      t = { s with seq := { s.seq with run := some { r with inCycle := false, pipe := r.pipe ++ [⟨r.cyc + 4, false, .bbuf f
        code ((s.frond f).read (alignLow ((s.frond f).addr u.ubase u.uoff) n) n)
        (if (matFmt code).2 = false then [] else if code = 8 then sc 64 ++ sc 32 else sc 32)⟩] } } }) ∧
    exec (.merge c u) s = .next (s.within (·.mergeFrond f u)) ∧ exec (.hlookup c u) s = .next (s.within (·.hlookupFrond f u)) ∧
    exec (.hinsert c u) s = .next (s.within (·.hinsertFrond f u)) ∧ exec (.bin c u) s = .next (s.within (·.binFrond f u)) ∧
    exec (.ptr c u) s = .next (s.within (·.ptrFrond f u)) ∧
    (∃ t : State, exec (.xchg c u) s = .next t ∧ ∃ vec : Nat → List Byte,
      t = { s with seq := { s.seq with run := some { r with inCycle := false, pipe := r.pipe ++ (s.clumpFronds (c % 8)).map fun g =>
        ⟨r.cyc + 6, false, .arrive g (vec g)⟩ } } } ∧
      ∀ g ∈ s.clumpFronds (c % 8),
        let j := if bitsOf u.uarg 0 1 = 1 then (g % 8 + 8 - bitsOf u.uarg 1 3) % 8 else bitsOf u.uarg 1 3
        vec g = if u.en.getLsbD j = true ∧ 8 * (c % 8) + j < s.declared then
            (s.frond (8 * (c % 8) + j)).read
              (alignTo ((s.frond (8 * (c % 8) + j)).addr u.ubase u.uoff) 256) 256
          else List.replicate 256 0)

/-- R84: INTERSECT, UNION and DIFFERENCE give, in strictly ascending order and each once, exactly the keys of both lists, of
either, and of A without B; and a cleaned input in order has no run of equal keys and skips none. -/
def Obligations.MergeHasSetSemantics : Prop :=
  (∀ (op : Nat) (a b : List Nat),
    (mergeKeys op a b).Pairwise (· < ·) ∧
    ∀ k, k ∈ mergeKeys op a b ↔ (if op = 0 then k ∈ a ∧ k ∈ b else if op = 1 then k ∈ a ∨ k ∈ b else k ∈ a ∧ k ∉ b)) ∧
  (∀ l : List Nat, l.Pairwise (· ≤ ·) →
    (cleanKeys l).1.Pairwise (· < ·) ∧ (cleanKeys l).2 = 0 ∧ ∀ k, k ∈ (cleanKeys l).1 ↔ k ∈ l) ∧
  (∀ l : List Nat, (cleanKeys l).1.Nodup ∧ ∀ k, k ∈ (cleanKeys l).1 → k ∈ l)

/-- R85: the candidate buckets of a key differ; a lookup finds an entry that holds the key in one of them or in the stash;
it finds none exactly when no such entry holds it, or the key is the empty marker. -/
def Obligations.HashLookupFindsTheKey : Prop :=
  ∀ (x : Frond) (base b m1 m2 k : Nat),
    (hashBuckets b m1 m2 k).1 ≠ (hashBuckets b m1 m2 k).2 ∧
    (hashBuckets b m1 m2 k).1 = k * (m1 ||| 1) % 2 ^ 64 / 2 ^ (64 - b) ∧
    hashFind x base b m1 m2 emptyKey = none ∧
    (k ≠ emptyKey → ∀ i, hashFind x base b m1 m2 k = some i →
      (tableEntry x base i).1 = k ∧ i ∈ searchOrder b (hashBuckets b m1 m2 k).1 (hashBuckets b m1 m2 k).2) ∧
    (k ≠ emptyKey → (hashFind x base b m1 m2 k = none ↔
      ∀ i ∈ searchOrder b (hashBuckets b m1 m2 k).1 (hashBuckets b m1 m2 k).2, (tableEntry x base i).1 ≠ k))

/-- R87: the bin unit places every entry once: in the bin that its offset's place in the address map names, in input order and
up to the bin's capacity, the others in the carry list. -/
def Obligations.BinUnitPlacesEveryEntryOnce : Prop :=
  ∀ (gran cap : Nat) (l : List Nat),
    (∀ b, mgetD (binEntries gran cap l).1 b [] = (l.filter fun e => binOf gran (bitsOf e 0 40) = b).take cap) ∧
    (binEntries gran cap l).2.length + ((binEntries gran cap l).1.map fun q => q.2.length).sum = l.length ∧
    ∀ e ∈ (binEntries gran cap l).2, e ∈ l

/-! ### Movers, the sequencer and calls (chapter 5) -/

/-- R104, R105, Table 5.8: the mover rows of the running call, every one of which completes. RD and WR queue the planned
commands of the bytes at their address register, CRD, S2F and F2S land after their latency, GATHER and SCATTER take the entries
of their list in order, each a row that is moved, null or skipped, SETAREG takes a call scalar; RD, WR and CRD outside their
slot, or of a slot that the plan does not have, end the call with the bounds fault. No store word here has a bit error. -/
def Obligations.MoverRowsMoveBytes : Prop :=
  ∀ (m : Nat) (f : MoverField) (s : State) (r : Run) (c : CallRec), s.runCall = some (r, c) → s.ecc.sram = [] →
    let k := m % 4
    let n := f.bytes
    let r₁ := { r with inCycle := true }
    (∀ b, c.slot f.slot = some b → b.inRow (r.areg true false k f.areg) n = true →
      exec (.rd m f) s = .next (s.within fun u => (u.incAreg f true false k n).queueReads f
        (s.placeAddrs f (fun x => r.areg true true k x) 0 n) (b.devAddr (r.areg true false k f.areg)) n)) ∧
    (∀ b, c.slot f.slot = some b → b.inRow (r.areg false false k f.areg) n = true →
      exec (.wr m f) s = .next (s.within fun u => (u.incAreg f false false k n).queueWrites f
        (b.devAddr (r.areg false false k f.areg))
        (s.gatherPlace f.dkind f.dsel (s.placeAddrs f (fun x => r.areg false true k x) 0 n) n)) ∧
      exec (.crd m f) s = .next (s.within fun u => (u.incAreg f false false k n).landMove 40 f.tag
        (s.placeBytes f.dkind f.dsel (s.placeAddrs f (fun x => r.areg false true k x) 0 n) n 0
          (s.ecc.mem.read (b.devAddr (r.areg false false k f.areg)) n)))) ∧
    (c.slot f.slot = none → ∀ row ∈ ([.rd, .wr, .crd] : List (Nat → MoverField → Instr)),
      exec (row m f) s = .next (s.within (·.boundsFault f.slot))) ∧
    (∀ b, c.slot f.slot = some b → b.inRow (r.areg true false k f.areg) n = false →
      exec (.rd m f) s = .next (s.within (·.boundsFault f.slot))) ∧
    (∀ b, c.slot f.slot = some b → b.inRow (r.areg false false k f.areg) n = false →
      exec (.wr m f) s = .next (s.within (·.boundsFault f.slot)) ∧
      exec (.crd m f) s = .next (s.within (·.boundsFault f.slot))) ∧
    exec (.s2f m f) s = .next (s.within fun u => (u.incAreg f false true k n).landMove 24 f.tag
      (s.placeBytes f.dkind f.dsel (s.placeAddrs f (fun x => r.areg false true k x) 0 n) n 0
        (s.slabRead (r.areg false true k f.areg + f.doff) n))) ∧
    exec (.f2s m f) s = .next (s.within fun u => (u.incAreg f false true k n).landMove 24 f.tag
      [.slab (r.areg false true k f.areg + f.doff)
        (s.gatherPlace f.dkind f.dsel (s.placeAddrs f (fun x => r.areg false true k x) 0 n) n)]) ∧
    exec (.gather m f) s = .next (s.within fun u => ((s.listAt f (r.areg true true k f.areg)).foldl
      (fun v p => v.gatherRow r₁ c k f p) u).incAreg f true true k ((f.rows + 1) * n)) ∧
    exec (.scatter m f) s = .next (s.within fun u => ((s.listAt f (r.areg false true k f.areg)).foldl
      (fun v p => v.scatterRow r₁ c k f p) u).incAreg f false true k ((f.rows + 1) * n)) ∧
    (∀ e j, let places := s.placeAddrs f (fun x => r.areg true true k x) j n
      (listEntry e = none → s.gatherRow r c k f (e, j) = s.zeroRow f places n) ∧
      ∀ a, listEntry e = some a → s.gatherRow r c k f (e, j) =
        if c.rowIn f.slot a n then s.queueReads f places a n else s.skipEntry.zeroRow f places n) ∧
    (∀ e j, let places := s.placeAddrs f (fun x => r.areg false true k x) j n
      (listEntry e = none → s.scatterRow r c k f (e, j) = s) ∧
      ∀ a, listEntry e = some a → s.scatterRow r c k f (e, j) =
        if c.rowIn f.slot a n then s.queueWrites f a (s.gatherPlace f.dkind f.dsel places n) else s.skipEntry) ∧
    (let r' := r.setAreg f.readSet (f.dkind = 2) k f.areg (c.scalars.getD (bitsOf f.doff 0 4) 0).toNat
     exec (.setareg m f) s = .next { s with seq := { s.seq with run := some { r' with inCycle := false } } })

/-- R211, R53, R102: a planned command enters the queue of its pseudo-channel behind the others and counts under its tag; a
planned write of a whole granule drops the ACCESS writes of it from the write queue. -/
def Obligations.PlannedCommandsEnterInOrder : Prop :=
  ∀ (s : State) (x : PlannedCmd) (r : Run), s.seq.run = some r → s.smc.waits = [] →
    (s.pc (pcOf (x.g * 64))).planned.length < 256 →
    let p := pcOf (x.g * 64)
    let t := s.planEnter x
    (t.pc p).planned = (s.pc p).planned ++ [{ x with entered := s.mcNow }] ∧
    (t.pc p).wq = (if x.write && x.data.length = 64 then (s.pc p).wq.filter fun e => e.g ≠ x.g else (s.pc p).wq) ∧
    (∀ q, q ≠ p → t.pc q = s.pc q) ∧ t.ecc = s.ecc ∧
    t.seq = { s.seq with run := some (if x.tag = 0 then r else
      { r with tags := mset r.tags x.tag (mgetD r.tags x.tag 0 + 1) }) }

/-- R63, R64, Table 4.1: a result that reaches its place writes the active lanes of its register, the named predicates, or
its bytes of the frond store; a store block written for the first time reads as zeros beside them, and every other byte
of the store reads as before. -/
def Obligations.ResultsLandInTheirPlaces : Prop :=
  (∀ (s : State) (f reg k : Nat) (mask : BitVec 64) (lanes : List (BitVec 32)), k < 64 →
    (((s.land (.vreg f reg mask lanes)).frond f).vreg reg).getD k 0 =
      (if mask.getLsbD k then lanes.getD k 0 else ((s.frond f).vreg reg).getD k 0)) ∧
  (∀ (s : State) (f k : Nat) (mask bits : BitVec 64), k < 64 →
    ((s.land (.pred f mask bits)).frond f).preds.getLsbD k =
      if mask.getLsbD k then bits.getLsbD k else (s.frond f).preds.getLsbD k) ∧
  (∀ (x : Frond) (a b : Nat) (bs : List Byte), bs.length ≤ 2 ^ 21 →
    (x.write a bs).read a bs.length = bs ∧
    ((∀ i, i < bs.length → (a + i) % 2 ^ 21 ≠ b % 2 ^ 21) → (x.write a bs).byte b = x.byte b)) ∧
  (∀ (s : State) (a b : Nat) (bs : List Byte), a + bs.length ≤ slabBytes →
    (s.slabWrite a bs).slabRead a bs.length = bs ∧
    ((∀ i, i < bs.length → a + i ≠ b % 2 ^ 29) → (s.slabWrite a bs).slabByte b = s.slabByte b))

/-- R43: a write of a template's slot register keeps the codes 0 to 5 of Table 3.2 in their 4-bit fields and stores 0
(ACCESS) for a code from 6 to 15, and each of those is recorded as a clamp. -/
def Obligations.TemplateSlotCodesAreClamped : Prop :=
  ∀ (src : RegSrc) (k j : Nat) (w : Word64) (s : State), k < 16 → j < 8 → s.pageLocked 13 = false →
    let bad := ((List.range 16).filter fun i => 6 ≤ bitsOf w.toNat (4 * i) 4).length
    ∃ t : State, exec (.registerWrite src (0xD200 + 0x80 * k + 8 * j) w) s = .next t.runReady ∧
      (∀ i, i < 16 → t.heldFld ((R.FTM_TPL_S_SLOT.at (0x80 * k + 8 * j)).up (4 * i)) =
        if bitsOf w.toNat (4 * i) 4 ≤ 5 then bitsOf w.toNat (4 * i) 4 else 0) ∧
      (bad = 0 → t = { s with held := t.held }) ∧
      (bad ≠ 0 → (t.word 0xD020).getLsbD 0 = true ∧
        t.fld R.GLB_CLOG_STATUS_TOTAL = min (s.fld R.GLB_CLOG_STATUS_TOTAL + bad) 0xFFFFFFFF)

/-- R97 to R100, Table 5.2: the main pointer issues its word in one call cycle, after the read pointer's, and moves on as the
word's SEQ_OP says: NEXT to the next word, LOOP into a new loop, ENDLOOP back to the first body word until the loop's count
is run out, END to the end; while the main pointer still waits, the read pointer issues alone. No word issues in a cycle in
which a sync-slot result is due and has not come (R103). A row whose operation is not
that of the word at hand has no effect, and with no running call a mover, unit or vector field has no cycle to issue in, and
changes nothing (Table 5.5, R65). -/
def Obligations.SequencerRowsIssueWords : Prop :=
  (∀ (s : State) (r : Run) (c : CallRec), s.runCall = some (r, c) → r.mp.fin = false →
    ∀ row ∈ ([(.next, 0), (.loop, 1), (.endloop, 2), (.endWord, 3)] : List (Instr × Nat)),
      let img := s.planImage c.plan
      (r.leadIn = 0 ∨ r.rp.fin = true → (controlOf (planWord img r.mp.word)).op = row.2 → r.waitsSync r.nextCyc = false →
        ∃ u : State, u.seq = { s.seq with run := some { r with cyc := r.nextCyc, leadIn := 0, stall := 0 } } ∧
        u = { s with seq := u.seq, now := u.now } ∧
        exec row.1 s = .next ((u.retire.deliver.within fun v => (v.readStep img).mainStep img).runUp (·.tickCycle false))) ∧
      (r.leadIn ≠ 0 → r.rp.fin = false → (controlOf (planWord img r.rp.word)).op = row.2 → r.waitsSync r.nextCyc = false →
        ∃ u : State, u = { s with now := u.now } ∧
        exec row.1 s = .next ((u.retire.deliver.within (·.readStep img)).runUp (·.tickCycle true))) ∧
      (r.leadIn = 0 → (controlOf (planWord img r.mp.word)).op ≠ row.2 → exec row.1 s = .next s) ∧
      (r.waitsSync r.nextCyc = true → exec row.1 s = .next s)) ∧
  (∀ (p : Ptr) (ct : Control) (live count : Nat),
    (ct.op = 0 → p.advance ct live count = { p with word := p.word + 1 }) ∧
    (ct.op = 1 → p.advance ct live count =
      { p with word := p.word + 1, loops := ⟨p.word + 1, ct.count, live, ct.mode = 2, ct.binpass⟩ :: p.loops }) ∧
    (∀ l t, ct.op = 2 → p.loops = l :: t → l.left ≤ 1 →
      p.advance ct live count = { p with word := p.word + 1, loops := t }) ∧
    (∀ l t, ct.op = 2 → p.loops = l :: t → 1 < l.left → ∃ l' : LoopSt, l'.left = l.left - 1 ∧ l'.start = l.start ∧
      (l.while_ = true → count = 0 → l'.live = 0) ∧ p.advance ct live count = { p with word := l.start, loops := l' :: t }) ∧
    (3 ≤ ct.op → p.advance ct live count = { p with fin := true })) ∧
  (∀ s : State, s.seq.run = none →
    (∀ row ∈ ([.rd, .wr, .gather, .scatter, .crd, .s2f, .f2s, .setareg] : List (Nat → MoverField → Instr)),
      ∀ m f, exec (row m f) s = .next s) ∧
    (∀ row ∈ ([.mma, .mread, .bload, .merge, .hlookup, .hinsert, .bin, .ptr, .xchg] : List (Nat → UnitField → Instr)),
      ∀ c u, exec (row c u) s = .next s) ∧
    (∀ row ∈ ([.vAdd, .vSub, .vMul, .vFma, .vMin, .vMax, .vMinnum, .vMaxnum, .vCmp, .vCvt, .vIntAdd, .vIntSub, .vIntMul,
        .vShl, .vShr, .vSar, .vAnd, .vOr, .vXor, .vPopcnt, .vClz, .vDot4, .vExp2, .vLog2, .vRcp, .vRsqrt,
        .vSumReduce, .vMaxReduce, .vMinReduce, .vPermute, .vBroadcast, .vLd, .vSt, .vRand, .vSetbase, .vPset,
        .vXrecv] :
        List (Nat → VecField → Instr)), ∀ c v, exec (row c v) s = .next s))

/-- R115, R113, R30, R236, R116: the window of a committed call opens with its fronds' base registers and scalars set and the
slab store empty; a queued call locks its extents when its recalls, write-backs, fills and the requests queued before it are
done, and else keeps waiting; a call whose END has issued runs its cycles out and ends with OK, BIN_OVERFLOW or POISONED;
the end of a call takes it out of the queue with its window and lends its frame's PLANNED slots to its tenant. -/
def Obligations.CallsStartLockAndEnd : Prop :=
  (∀ (s : State) (w : Window) (c : CallRec), s.windowCall = some (w, c) → s.seq.run = none → s.ftm.lent = none →
    let h := headerOf (s.planImage c.plan)
    ∃ t : State, exec .callStart s = .next t ∧ (∃ r : Run, t.seq.run = some r ∧ r.key = c.key ∧ r.rp = ⟨0, [], false⟩ ∧
        r.mp = ⟨0, [], false⟩ ∧ r.pipe = [] ∧ r.tags = [] ∧ r.leadIn = leadOf h.leadBase (s.fld R.FTM_REBASE_PL_LAT)) ∧
      t.seq.slab = [] ∧ t.seq.slabValid = [] ∧ t.seq.landings = [] ∧
      (∀ f, f < h.fronds → mget t.seq.fronds f = some (startFrond (s.planImage c.plan) c.scalars f)) ∧
      t.seq.calls = s.seq.calls ∧ t.seq.plans = s.seq.plans ∧ t.ecc = { s.ecc with sram := t.ecc.sram } ∧ t.xlt = s.xlt ∧ t.regs = s.regs) ∧
  (∀ s : State, s.ftm.lent ≠ none ∨ s.seq.run ≠ none ∨ s.windowCall = none → exec .callStart s = .next s) ∧
  (∀ (key : Nat) (s : State) (c : CallRec), s.seq.calls.find? (fun c => c.key = key) = some c → c.locked = false →
    let u := (c.units.foldl (fun s u => s.fillUnit u) s).flushBinds c.binds
    let v := (u.recalls c).foldl (fun s i => s.pullExtent i) u
    (v.recallOpen c = false → v.queuedBefore c = false → v.fillsWait c = false →
      ∃ t : State, exec (.callLock key) s = .next t ∧ t = { v with seq := { v.seq with
        calls := mapIf (fun x => x.key = key) (fun x => { x with
          locked := true, emptyUnits := c.units.filter fun u => (mget v.ecc.units u).isNone }) v.seq.calls } }) ∧
    (v.recallOpen c = true ∨ v.queuedBefore c = true ∨ v.fillsWait c = true → exec (.callLock key) s = .next v)) ∧
  (∀ (s : State) (r : Run) (c : CallRec), s.runCall = some (r, c) → r.mp.fin = true →
    r.waitsSync (s.declaredCycles c - 1) = false →
    ∃ u : State, u.seq = { s.seq with run := some { r with cyc := max r.cyc (s.declaredCycles c) } } ∧
      u = { s with seq := u.seq, now := u.now } ∧
      exec .callComplete s = .next (u.retire.deliver.endRun (if r.binOver ≠ 0 then Status.binOverflow
        else if (u.retire.deliver.seq.run.getD r).poisoned then Status.poisoned else Status.ok) 0 0)) ∧
  (∀ (s : State) (r : Run) (c : CallRec) (st d a : Nat), s.runCall = some (r, c) →
    (s.endRun st d a).seq.run = none ∧ (∀ x ∈ (s.endRun st d a).seq.calls, x.key ≠ c.key) ∧
    (∀ x ∈ s.seq.calls, x.key ≠ c.key → x ∈ (s.endRun st d a).seq.calls) ∧
    (∀ w ∈ (s.endRun st d a).ftm.windows, w.call ≠ c.key) ∧ (s.endRun st d a).ftm.lent = some c.tenant)

/-- R211, R103, R199, R102: a planned read's data reaches the places that its move formed, and its tag counts down; a sync-slot
operation takes effect, the plane slips for what its result is late, and its result words, with the status word behind them,
replace its operand (when they stand in the store is the model's reading, log entry 64); an operation
without a result in time ends the call with CALL_FAULT, DETAIL 8; an operation still open when its call ends never takes
effect. -/
def Obligations.PlannedDataAndSyncSlots : Prop :=
  (∀ (p : Nat) (s : State) (l : Landing), s.seq.landings.find? (fun l => l.pc = p) = some l →
    ∃ u : State, u = { s with seq := { s.seq with landings := s.seq.landings.erase l }, now := u.now } ∧
      exec (.slabReadDataReturn p) s = .next (((u.placeBytes l.cmd.kind l.cmd.sel l.cmd.addrs l.cmd.len l.cmd.off
        (l.cmd.part l.data)).foldl (fun s e => s.land e) u).tagDown l.cmd.tag)) ∧
  (∀ (p : Nat) (s : State), s.seq.landings.find? (fun l => l.pc = p) = none → exec (.slabReadDataReturn p) s = .next s) ∧
  (∀ (s : State) (r : Run) (c : CallRec) (o : SlotOp), s.runCall = some (r, c) → r.ops = [o] → o.result = none →
    let x := s.tick.syncRun o.obj o.sop o.operand
    x.1.seq = s.seq → x.1.ftm = s.ftm →
    ∃ (t : State) (r' : Run), exec .syncSlotResult s = .next t ∧ t = { x.1 with seq := t.seq, regs := t.regs } ∧
      t.seq = { s.seq with run := some r' } ∧ r'.cyc = r.cyc ∧ r'.pipe = r.pipe ∧
      r'.ops = [{ o with result := some (x.2.1.q ++ [BitVec.ofNat 64 x.2.1.word]) }] ∧
      r'.slip = r.slip + (ceilDiv ((x.1.now - x.1.openTime r) * 19) 5 - (32 + o.due + r.slip))) ∧
  (∀ (s : State) (r : Run) (o : SlotOp) (q : List Word64), s.seq.run = some r → r.ops = [o] → o.result = some q →
    o.due + slotLatency ≤ r.cyc + 96 →
    (∃ r' : Run, s.deliver.seq.run = some r' ∧ r'.ops = [] ∧ r'.cyc = r.cyc) ∧
    ∀ f, s.deliver.frond f = if f = o.frond then (s.frond f).write o.addr (q.flatMap (bvBytes 8)) else s.frond f) ∧
  (∀ (s : State) (r : Run) (c : CallRec) (o : SlotOp), s.runCall = some (r, c) →
    r.ops.find? (fun o => o.result.isNone) = some o →
    ∃ (u : State) (r' : Run), exec .syncTimeout s = .next (u.endRun Status.callFault 8 0) ∧
      u = { s with regs := u.regs, now := u.now, seq := { s.seq with run := some r' } } ∧ r' = { r with slip := r'.slip } ∧
      r'.slip = r.slip + (ceilDiv ((u.now - u.openTime r) * 19) 5 - (32 + o.due + r.slip)) ∧
      s.timeOf r o.due + s.fld R.SEQ_CFG_SYNC_TIMEOUT_US * usCycles ≤ u.now ∧ (u.word 0x10020).getLsbD 9 = true) ∧
  (∀ (s : State) (r : Run), s.seq.run = some r → (∀ o ∈ r.ops, o.result.isSome = true) →
    exec .syncSlotResult s = .next s ∧ exec .syncTimeout s = .next s) ∧
  (∀ s : State, s.seq.run = none → exec .syncSlotResult s = .next s ∧ exec .syncTimeout s = .next s)

/-- R91, R92, R93, Tables 4.7 and 4.9: a frond fault counts, makes an ACTIVE frond RETIRING and ends the running call with
CALL_FAULT, DETAIL 5; at a call boundary the lowest RETIRING frond becomes RETIRED and the spare takes its logical number,
or, with no spare, the frond with the highest logical number; during a call no substitution takes place. -/
def Obligations.FrondsRetireAndAreReplaced : Prop :=
  (∀ (p : Nat) (s : State), p ≤ 64 →
    ∃ u : State, exec (.frondFault p) s = .next (u.endRun Status.callFault 5 0) ∧ u = { s with frd := u.frd, regs := u.regs } ∧
      (u.phys p).st = (if (s.phys p).st = 0 then 2 else (s.phys p).st) ∧ (u.phys p).ue = min ((s.phys p).ue + 1) 255 ∧
      (u.phys p).logical = (s.phys p).logical ∧ (u.word 0x12020).getLsbD 8 = true ∧ ∀ q, q ≠ p → u.phys q = s.phys q) ∧
  (∀ s : State, s.seq.run.isSome = true → exec .frondSubstitution s = .next s) ∧
  (∀ (s : State) (p q : Nat), s.seq.run = none → (List.range 65).find? (fun p => (s.phys p).st = 2) = some p →
    (List.range 65).find? (fun q => (s.phys q).st = 1) = some q →
    ∃ t : State, exec .frondSubstitution s = .next t ∧ t.phys p = { s.phys p with st := 3, logical := 127 } ∧
      t.phys q = { s.phys q with st := 0, logical := (s.phys p).logical } ∧
      (∀ x, x ≠ p → x ≠ q → t.phys x = s.phys x) ∧ (t.word 0x12020).getLsbD 9 = true ∧
      t = { s with frd := t.frd, regs := t.regs }) ∧
  (∀ (s : State) (p q : Nat), s.seq.run = none → (List.range 65).find? (fun p => (s.phys p).st = 2) = some p →
    (∀ x, x < 65 → (s.phys x).st ≠ 1) → q < 65 → q ≠ p → (s.phys q).logical = s.available - 1 → s.available ≤ 65 →
    (∀ x, x < q → x ≠ p → (s.phys x).logical ≠ s.available - 1) →
    ∃ t : State, exec .frondSubstitution s = .next t ∧ t.phys p = { s.phys p with st := 3, logical := 127 } ∧
      t.phys q = { s.phys q with logical := (s.phys p).logical } ∧ (∀ x, x ≠ p → x ≠ q → t.phys x = s.phys x)) ∧
  (∀ (src : RegSrc) (w : Word64) (s : State), bitsOf w.toNat 0 7 ≤ 64 → bitsOf w.toNat 7 56 = 0 →
    s.clockStopped 18 = false → s.pageLocked 18 = false →
    ((s.phys (bitsOf w.toNat 0 7)).st = 0 → 1 < s.activeFronds) →
    ∃ t : State, exec (.frdRetire src w) s = .next t.runReady ∧
      (t.phys (bitsOf w.toNat 0 7)).st = (if (s.phys (bitsOf w.toNat 0 7)).st = 0 then 2 else
        if (s.phys (bitsOf w.toNat 0 7)).st = 1 then 3 else (s.phys (bitsOf w.toNat 0 7)).st) ∧
      (∀ q, q ≠ bitsOf w.toNat 0 7 → t.phys q = s.phys q) ∧ t = { s with frd := t.frd, regs := t.regs })

/-! ### The access plane (chapter 6) -/

/-- R4, R38, R262, R267, Table 12.3: a request is answered once: by a RESPONSE with its status, AUX and body at the end of
its tenant's egress queue, in which everything queued before stays, or, once it has had ACCEPT, by a MESSAGE that is kept
until MSG_ACK; a status that is a fault puts an entry into the tenant's fault queue and its copy, without handle and offset,
into the management queue. -/
def Obligations.AnswersAreSentOnce : Prop :=
  (∀ (s : State) (r : Req) (a : Ans) (x : Conn), r.via = .ipt → r.chunk = none → r.accepted = false →
    s.conn r.conn = some x → Status.faults a.status = false →
    ∃ it : EgItem, (s.respond r a).qos.egr = s.qos.egr ++ [it] ∧ it.pkt = r.answer a ∧ it.tenant = some r.tenant ∧
      it.port = r.src.port ∧ it.sub = r.src.sub ∧ it.reqBytes = some r.bodyLen ∧
      (s.respond r a).xlt = s.xlt ∧ (s.respond r a).prt = s.prt ∧ (s.respond r a).ecc = s.ecc) ∧
  (∀ (s : State) (r : Req) (a : Ans) (x : Conn), r.via = .ipt → r.chunk = none → r.accepted = true →
    s.conn r.conn = some x → Status.faults a.status = false →
    ∃ (y : Conn) (m : Msg), (s.respond r a).conn r.conn = some y ∧ y.msgs = x.msgs ++ [m] ∧ m.tries = 0 ∧
      y.txSeq = x.txSeq + 1 ∧ (s.respond r a).sends m.pkt ∧ (s.respond r a).ecc = s.ecc) ∧
  (∀ (s : State) (r : Req) (a : Ans), r.chunk = none → Status.faults a.status = true → (s.fq r.tenant).entries.length < 1024 →
    ∃ e : FaultEntry, ((s.respond r a).fq r.tenant).entries = (s.fq r.tenant).entries ++ [e] ∧ e.status = a.status ∧
      e.opcode = r.op.code ∧ e.holder = r.holder ∧ e.handle = a.handle ∧ e.offset = a.off % 2 ^ 40 ∧
      (s.xlt.mfq.entries.length < 1024 →
        (s.respond r a).xlt.mfq.entries = s.xlt.mfq.entries ++ [{ e with handle := 0, offset := 0 }]) ∧
      ((s.respond r a).word 0x13020).getLsbD 10 = true ∧ (s.respond r a).ecc = s.ecc)

/-- R122, R125, R140, Table 12.4: a READ that begins and that no coherent copy holds back returns the bytes of its range and
fills its absent lines as their hints say, which where every line is present or COLD leaves everything as it is; at the
first poisoned granule it ends with POISONED, its offset in AUX. -/
def Obligations.ReadReturnsItsRange : Prop :=
  ∀ (p : Pkt) (a : Addr) (s u v : State) (r : Req), s.runs p (.read a) = some (u, r) →
    let i := a.handle.toNat % 2 ^ 18
    let e := (u.extent i).getD emptyExtent
    let x := e.addr a.offset.toNat
    u.dirHolds r e (linesOf x a.rwLen) = false →
    (u.opDone.readRange i e x a.rwLen [] = (v, .ok) →
      let w := v.fillLines i e (linesOf x a.rwLen) (granulesOf x a.rwLen)
      exec (.read p a) s = .next (w.respond r (mkAns (.read a) Status.ok 0 (v.ecc.mem.read x a.rwLen))).runReady ∧
      ((∀ l ∈ linesOf x a.rwLen, (v.cline i e l).isSome = true ∨ v.effHint e (l / 512) = hintCold) → w = v)) ∧
    (∀ g, u.opDone.readRange i e x a.rwLen [] = (v, .poisoned g) →
      exec (.read p a) s = .next (v.respond r ⟨Status.poisoned, (g * 64 - e.start * 65536) % 2 ^ 40, [], a.handle.toNat,
        g * 64 - e.start * 65536, 0⟩).runReady)

/-- R122 to R127, R133 to R138: a WRITE, an atomic or an accumulate that begins, that no coherent copy, full write queue or
older access of its granules holds back, and whose granules can be read and written changes its own bytes (a WRITE to its
data, an atomic to the value that its operation makes of the old one, an accumulate to the new elements), clears the rest
of a granule never written, and leaves every other byte of the pool and the directory as they are; its answer, sent or
kept until the partner has acknowledged, carries the old value or the flags. An atomic that writes nothing changes no
byte. Extents under RING_PARITY, whose writes take effect with the parity member's answer, are another statement's. -/
def Obligations.WritesAndAtomicsChangeTheirBytes : Prop :=
  (∀ (p : Pkt) (a : Addr) (d : List Byte) (s u v t0 : State) (r : Req) (key : Nat), s.runs p (.write a d) = some (u, r) →
    let i := a.handle.toNat % 2 ^ 18
    let e := (u.extent i).getD emptyExtent
    let x := e.addr a.offset.toNat
    let gs := granulesOf x a.rwLen
    let w : Writer := ⟨key, false, none, e.ownReads x a.rwLen⟩
    u.opDone.newKey = (key, t0) → e.prot ≠ 3 →
    u.dirHolds r e (linesOf x a.rwLen) = false → u.opDone.firstShut e gs = none →
    t0.writeShort gs (t0.writeNeeds i e gs w) false = false →
    t0.writeReads i e gs (partialGranules x a.rwLen) [] = (v, .ok) → v.mapsAtHand gs x a.rwLen →
    ∃ t y : State, exec (.write p a d) s = .next t.runReady ∧ v.changedTo t x (d.take a.rwLen) ∧ t.dir = v.dir ∧
      t.xlt = v.xlt ∧ t = y.finish key r (mkAns (.write a (d.take a.rwLen)) Status.ok) e.mirroredMode (setOfIndex i)) ∧
  (∀ (p : Pkt) (a : Addr) (x c : List Byte), ∀ row ∈ ([(.swap p a x, .swap a x), (.cas p a c x, .cas a c x),
      (.fetchAdd p a x, .fetchAdd a x), (.fetchAnd p a x, .fetchAnd a x), (.fetchOr p a x, .fetchOr a x),
      (.fetchXor p a x, .fetchXor a x), (.fetchSmin p a x, .fetchSmin a x), (.fetchSmax p a x, .fetchSmax a x),
      (.fetchUmin p a x, .fetchUmin a x), (.fetchUmax p a x, .fetchUmax a x)] : List (Instr × ReqOp)),
    ∀ (s u v t0 : State) (r : Req) (key : Nat), s.runs p row.2 = some (u, r) →
    let i := a.handle.toNat % 2 ^ 18
    let e := (u.extent i).getD emptyExtent
    let y := e.addr a.aligned
    let gs := granulesOf y a.width
    u.opDone.newKey = (key, t0) → e.prot ≠ 3 →
    u.dirHolds r e (linesOf y a.width) = false → u.opDone.firstShut e gs = none →
    t0.writeShort gs (t0.writeNeeds i e gs ⟨key, true, none, gs⟩) false = false →
    t0.writeReads i e gs gs [] none true = (v, .ok) → v.mapsAtHand gs y a.width →
    let old := v.ecc.mem.read y a.width
    let ans := mkAns row.2 Status.ok 0 old
    (∀ new, row.2.newValue old = some new → ∃ t z : State, exec row.1 s = .next t.runReady ∧ v.changedTo t y new ∧
      new.length = a.width ∧ t.dir = v.dir ∧ t.xlt = v.xlt ∧ t = z.finish key r ans e.mirroredMode (setOfIndex i)) ∧
    (row.2.newValue old = none →
      let w := v.fillLines i e (linesOf y a.width) gs
      exec row.1 s = .next ((w.mirrorRange i e y 0 1 r ans key).finish key r ans e.mirroredMode (setOfIndex i)).runReady ∧
      ((∀ l ∈ linesOf y a.width, (v.cline i e l).isSome = true ∨ v.effHint e (l / 512) = hintCold) →
        (w.mirrorRange i e y 0 1 r ans key).ecc = v.ecc))) ∧
  (∀ (p : Pkt) (a : Addr) (d : List Byte) (s u v w t0 : State) (r : Req) (new : List Byte) (fl key : Nat),
    s.runs p (.accum a d) = some (u, r) →
    let i := a.handle.toNat % 2 ^ 18
    let e := (u.extent i).getD emptyExtent
    let x := e.addr a.offset.toNat
    let n := a.elems * fmtBytes a.targetFmt
    let gs := granulesOf x n
    u.opDone.newKey = (key, t0) → e.prot ≠ 3 → u.dirHolds r e (linesOf x n) = false → u.opDone.firstShut e gs = none →
    t0.writeShort gs (t0.writeNeeds i e gs ⟨key, true, none, gs⟩) false = false →
    t0.writeReads i e gs gs [] none true = (v, .ok) → v.mapsAtHand gs x n →
    v.accumAll a.targetFmt a.operandFmt a.operator a.stoch x 0 (v.ecc.mem.read x n) d a.elems = (w, new, fl) →
    ∃ t y : State, exec (.accum p a d) s = .next t.runReady ∧ v.changedTo t x new ∧ new.length = n ∧ t.dir = v.dir ∧
      t.xlt = v.xlt ∧ t = y.finish key r (mkAns (.accum a d) Status.ok fl) e.mirroredMode (setOfIndex i)) ∧
  (∀ (p : Pkt) (a b : Addr) (d : List Byte) (s u v1 v w t0 : State) (r : Req) (buf : Mem) (fl key : Nat),
    s.runs p (.accumRc a b d) = some (u, r) →
    let i := a.handle.toNat % 2 ^ 18
    let j := b.handle.toNat % 2 ^ 18
    let e := (u.extent i).getD emptyExtent
    let f := (u.extent j).getD emptyExtent
    let ta := e.addr a.offset.toNat
    let sa := f.addr b.offset.toNat
    let tg := granulesOf ta (a.elems * 2)
    let sg := granulesOf sa (a.elems * 2)
    let by_ : Writer := ⟨key, true, none, tg ++ sg⟩
    u.opDone.newKey = (key, t0) → e.prot ≠ 3 → f.prot ≠ 3 →
    u.dirHolds r { e with coherent := e.coherent || f.coherent } ((if e.coherent then linesOf ta (a.elems * 2) else []) ++
      (if f.coherent then linesOf sa (a.elems * 2) else [])) = false →
    u.opDone.firstShut e tg = none → u.opDone.firstShut f sg = none →
    t0.writeShort (tg ++ sg) (t0.writeNeeds i e tg by_ ++ t0.writeNeeds j f sg by_).eraseDups false = false →
    t0.writeReads i e tg tg [] none true = (v1, .ok) → v1.writeReads j f sg sg [] none true = (v, .ok) →
    v.mapsAtHand (tg ++ sg) ta (a.elems * 2) → v.mapsAtHand (tg ++ sg) sa (a.elems * 2) →
    v.accumRcAll a.targetFmt a.operandFmt a.stoch ta sa 0 (tg.filter fun g => v.written g && metaResidual (v.gmeta g))
      v.ecc.mem d a.elems = (w, buf, fl) →
    ∃ t y : State, exec (.accumRc p a b d) s = .next t.runReady ∧
      (∀ c, c / 64 ∈ tg ++ sg → t.ecc.mem.byte c = buf.byte c) ∧
      (∀ c < poolEnd, c / 64 ∉ tg ++ sg → t.ecc.mem.byte c = v.ecc.mem.byte c) ∧ t.dir = v.dir ∧ t.xlt = v.xlt ∧
      t = y.finish key r (mkAns (.accumRc a b d) Status.ok fl) (e.mirroredMode || f.mirroredMode) (setOfIndex i))

/-- Table 6.1, R126: what an atomic writes beside the old value, on operands of its width: the sum modulo 2^(8w); the
bitwise AND, OR and exclusive OR; the smaller and the larger of the two values, signed or unsigned; the operand of SWAP; and
CAS's second operand when the first equals the old value, else nothing. -/
def Obligations.AtomicsComputeTheirNewValue : Prop :=
  ∀ (a : Addr) (old x c : List Byte), old.length = x.length → c.length = x.length → old.length ∈ [4, 8, 16] →
    let w := 8 * old.length
    let val := fun (op : ReqOp) => (op.newValue old).map leNat
    let sgn := fun (v : Nat) => if 2 ^ (w - 1) ≤ v then (v : Int) - 2 ^ w else (v : Int)
    val (.swap a x) = some (leNat x) ∧
    (old = c → val (.cas a c x) = some (leNat x)) ∧ (old ≠ c → val (.cas a c x) = none) ∧
    val (.fetchAdd a x) = some ((leNat old + leNat x) % 2 ^ w) ∧
    val (.fetchAnd a x) = some (leNat old &&& leNat x) ∧
    val (.fetchOr a x) = some (leNat old ||| leNat x) ∧
    val (.fetchXor a x) = some (leNat old ^^^ leNat x) ∧
    val (.fetchUmin a x) = some (min (leNat old) (leNat x)) ∧
    val (.fetchUmax a x) = some (max (leNat old) (leNat x)) ∧
    (∃ m, val (.fetchSmin a x) = some m ∧ sgn m = min (sgn (leNat old)) (sgn (leNat x))) ∧
    (∃ m, val (.fetchSmax a x) = some m ∧ sgn m = max (sgn (leNat old)) (sgn (leNat x)))

/-- R128, R129, R131, R139, R141, R143, R267: a MOVE is queued and accepted, and each of its chunks copies its bytes and
nothing else, once the scheduler has dispatched it; HINT sets the hint of its units, PIN pinning them until a limit turns the rest HOT; a FENCE with nothing
outstanding completes at once and else waits, as do a MOVE that has ended, a prefetch and a held fence; a replay entry
expires into its holder's mark. -/
def Obligations.MovesHintsAndFences : Prop :=
  (∀ (p : Pkt) (a b : Addr) (rl rows : BitVec 32) (ss ds : BitVec 64) (s u : State) (r : Req),
    s.runs p (.move a b rl rows ss ds) = some (u, r) → u.acc.moves.length < 1024 →
    (∀ m ∈ u.acc.moves, m.key ≠ u.acc.nextKey) → (∀ y ∈ u.qos.acq, y.kind ≠ .move u.acc.nextKey) →
    ∃ (t : State) (m : Move), exec (.move p a b rl rows ss ds) s = .next t.runReady ∧ t.acc.moves = u.acc.moves ++ [m] ∧
      m.key = u.acc.nextKey ∧ m.req = { r with accepted := true, checked := true } ∧ m.row = 0 ∧ m.done = 0 ∧ m.moved = 0 ∧
      m.fate = none ∧ m.srcIdx = a.handle.toNat % 2 ^ 18 ∧ m.dstIdx = b.handle.toNat % 2 ^ 18 ∧
      (∃ y ∈ t.qos.acq, y.kind = AccKind.move m.key ∧ y.tenant = r.tenant) ∧ t.sends r.acceptance ∧ t.ecc = u.ecc) ∧
  (∀ (key : Nat) (s v w : State) (m : Move) (e f : Extent), s.chunkAwake key = true → s.findMove key = some m →
    m.issued = true → m.fate = none → m.held = none → s.extent m.srcIdx = some e → s.extent m.dstIdx = some f → f.prot ≠ 3 →
    s.ecc.sram = [] →
    let c := m.chunk
    let m0 : Move := { m with issued := false }
    let s0 := s.setMove m0
    let part := fun (op : ReqOp) => m0.pseudo op { m.req with fetched := [], txns := [] }
    s0.dirHolds (part (.read ⟨0, 0, 0⟩)) e (linesOf c.1 c.2.2) = false →
    s0.readAll m.srcIdx e (granulesOf c.1 c.2.2) [] (some key) = (v, .ok) →
    let x := v.setMove { m0 with held := some (v.ecc.mem.read c.1 c.2.2) }
    let gs := granulesOf c.2.1 c.2.2
    x.dirHolds (part (.write ⟨0, 0, 0⟩ [])) f (linesOf c.2.1 c.2.2) = false → x.firstShut f gs = none →
    x.writeShort gs (x.writeNeeds m.dstIdx f gs ⟨key, false, some key, f.ownReads c.2.1 c.2.2⟩) m.req.turn = false →
    x.writeReads m.dstIdx f gs (partialGranules c.2.1 c.2.2) [] (some key) = (w, .ok) → w.mapsAtHand gs c.2.1 c.2.2 →
    ∃ t : State, exec (.moveChunk key) s = .next t.runReady ∧ w.changedTo t c.2.1 (v.ecc.mem.read c.1 c.2.2) ∧
      ∃ m' : Move, t.findMove key = some m' ∧ m'.moved = m.moved + c.2.2 ∧ m'.held = none ∧ m'.issued = false) ∧
  (∀ (key : Nat) (s : State) (m : Move), s.chunkAwake key = true → s.findMove key = some m → m.issued = false →
    exec (.moveChunk key) s = .next s.runReady) ∧
  (∀ (key : Nat) (s : State) (m : Move) (a : Ans), s.findMove key = some m → m.fate = some a →
    exec (.moveComplete key) s = .next (if s.acksOf key ≠ 0 then s else ({ s with acc := { s.acc with
      moves := s.acc.moves.filter fun y => y.key ≠ key } } : State).respond m.req a)) ∧
  (∀ (p : Pkt) (a : Addr) (b : BitVec 8) (s u : State) (r : Req), s.runs p (.hint a b) = some (u, r) →
    let e := (u.extent (a.handle.toNat % 2 ^ 18)).getD emptyExtent
    let us := hintUnits e a.offset.toNat a.hintLen
    let h := bitsOf b.toNat 0 2
    ∃ w : State, (b.getLsbD 2 = false → exec (.hint p a b) s =
        .next (w.respond r (mkAns (.hint a b) Status.ok ((us.filter fun n => (mget w.acc.pins n).isSome).length * 65536))).runReady) ∧
      (b.getLsbD 2 = true → ∃ (t : State) (x : Prefetch), exec (.hint p a b) s = .next t.runReady ∧
        t.acc.prefetch = u.acc.prefetch ++ [x] ∧ x.req = { r with accepted := true, bound := none } ∧
        t.acc.hints = w.acc.hints ∧ t.acc.pins = w.acc.pins ∧ t.sends r.acceptance) ∧
      (u.ecc.sram = [] → w.ecc = u.ecc) ∧ (∀ n, n ∉ us → mget w.acc.hints n = mget u.acc.hints n ∧ mget w.acc.pins n = mget u.acc.pins n) ∧
      (h ≠ 2 → ∀ n ∈ us, mget w.acc.hints n = some h ∧ mget w.acc.pins n = none) ∧
      (h = 2 → ∀ n ∈ us, (mget w.acc.pins n).isSome = true ∨ mget w.acc.hints n = some 1)) ∧
  (∀ (key : Nat) (s : State) (x : Prefetch), s.acc.prefetch.find? (fun q => q.key = key) = some x →
    let waits := x.lines.any fun l => s.readQueued (2 * l) || s.readQueued (2 * l + 1)
    (waits = true → exec (.hintPrefetchDone key) s = .next s) ∧
    (waits = false → ∃ w : State, exec (.hintPrefetchDone key) s = .next (w.respond x.req x.ans) ∧
      (s.ecc.sram = [] → w.ecc = s.ecc) ∧ w.acc.prefetch = s.acc.prefetch.filter fun q => q.key ≠ key)) ∧
  (∀ (p : Pkt) (s u : State) (r : Req), s.runs p .fence = some (u, r) →
    (u.outstanding r.conn r.ord = false → exec (.fence p) s =
      .next ((u.accept r).opDone.respond { r with accepted := true } (mkAns .fence Status.ok)).runReady) ∧
    (u.outstanding r.conn r.ord = true → ∃ t : State, exec (.fence p) s = .next t.runReady ∧
      t.acc.fences = u.acc.fences ++ [(u.acc.nextKey, { r with accepted := true })] ∧ t.sends r.acceptance ∧
      t.ecc = u.ecc)) ∧
  (∀ (c : Nat) (s : State) (key : Nat) (r : Req), s.acc.fences.find? (fun f => f.2.conn = c) = some (key, r) →
    let freed := fun (y : AccItem) => match y.kind with
      | .req q => if q.same r then { y with kind := .req { q with bound := q.bound.map fun _ => s.now } } else y
      | _ => y
    let v : State := { s with
      acc := { s.acc with fences := s.acc.fences.filter fun f => f.1 ≠ key }, qos := { s.qos with acq := s.qos.acq.map freed } }
    (s.outstanding c r.ord = false → exec (.fenceComplete c) s =
      .next (if r.op = .fence then v.opDone.respond r (mkAns r.op Status.ok) else v)) ∧
    (s.outstanding c r.ord = true → exec (.fenceComplete c) s = .next s)) ∧
  (∀ (tn h : Nat) (id : BitVec 48) (s : State) (e : ReplayEntry) (d : Nat),
    s.acc.replay.find? (fun e => e.tenant = tn && e.holder = h && e.reqId = id) = some e → e.expires = some d →
    e.partner = false → h < 4096 →
    ∃ (t : State) (m : Nat), exec (.replayEntryExpire tn h id) s = .next t ∧ t.now = max s.now d ∧
      t.acc.replay = s.acc.replay.erase e ∧ mget t.acc.marks (3 * h + e.set) = some m ∧ reqIdLe id.toNat m = true ∧
      (∀ k, k ≠ 3 * h + e.set → mget t.acc.marks k = mget s.acc.marks k) ∧ t.ecc = s.ecc)

/-! ### The schedulers (chapters 3 and 14) -/

/-- R310, R311: an engine takes nothing while no tenant offers; in shared mode it takes, of the chosen tenant, the first item
that it can dispatch, when the power level next allows it, and the rotating priority moves on. R312, R314: a closed sub-port
sends nothing; a control packet goes before every tenant's, at most one in its length's time and none while its priority is paused;
with neither a control packet that may go nor an eligible tenant nothing leaves. R124, R34: a later chunk of an RDMA READ waits
for its policer's tokens, and ends with REVOKED when its extent is no longer open, or as the invalidation that stopped it says. R319: every microsecond each queue adds one sample. -/
def Obligations.SchedulersServeTheirQueues : Prop :=
  (∀ (b : Bool) (s : State), s.offering b = [] → exec (.accessDispatch b) s = .next s.pfcAll) ∧
  (∀ (b : Bool) (s : State) (t j : Nat) (x : AccItem), s.strict = false → s.offerOf b t = some x → s.accWeight t ≠ 0 →
    chooseTenant (s.offering b) s.accWeight (fun t => mgetD s.qos.fAcc t 0) s.qos.prioAcc = some t →
    cyclesTo s.acAllowed s.acCycle = some j →
    ∃ w : State, exec (.accessDispatch b) s = .next (w.dispatch x).pfcAll ∧ w = { s with
      now := max s.now (s.now + j / 3)
      qos := { s.qos with vAcc := max s.qos.vAcc (mgetD s.qos.sAcc t 0), prioAcc := (s.qos.prioAcc + 1) % 64 } }) ∧
  (∀ (port sub : Nat) (s : State), (s.subOpen port sub && (s.sub port sub).up) = false →
    exec (.egressDispatch port sub) s = .next s.reapQps) ∧
  (∀ (port sub : Nat) (s : State) (e : EgItem), (s.subOpen port sub && (s.sub port sub).up) = true →
    s.qos.egr.find? (fun e => e.inQueue port sub none) = some e → mgetD s.qos.ctlAt (4 * port + sub) 0 ≤ s.now →
    s.mayGo e = true →
    exec (.egressDispatch port sub) s = .next (({ s with qos := { s.qos with
      ctlAt := mset s.qos.ctlAt (4 * port + sub) (s.now + 4 * e.cost) } } : State).egSend e).reapQps ∧
    (s.fld (R.PRT_CFG_MACSEC.at (0x1000 * port)) = 0 → e.pkt.rated = none → ∃ (t : State) (q : OutPkt) (n : Option Nat),
      s.egSend e = t ∧ t.out = s.out ++ [.eth port sub (s.vlanOf port sub) none n q] ∧ t.qos.egr = s.qos.egr.erase e ∧ t.ecc = s.ecc)) ∧
  (∀ (port sub : Nat) (s : State), (s.subOpen port sub && (s.sub port sub).up) = true →
    (∀ e, s.qos.egr.find? (fun e => e.inQueue port sub none) = some e →
      s.now < mgetD s.qos.ctlAt (4 * port + sub) 0 ∨ s.mayGo e = false) →
    (∀ t, t < 64 → s.egEligible port sub t = none) → exec (.egressDispatch port sub) s = .next s.reapQps) ∧
  (∀ (key : Nat) (s : State) (x : RdmaRead) (y : AccItem) (a : Addr), s.acc.rdma.find? (fun x => x.key = key) = some x →
    s.qos.acq.find? (fun y => y.kind = AccKind.rdma key) = some y → x.req.op = .read a →
    let c := min 4096 x.left
    let r : Req := { x.req with
      checked := true, txns := [], fetched := []
      op := .read ⟨a.handle, BitVec.ofNat 32 (c - 1), BitVec.ofNat 64 x.off⟩ }
    s.nappingOf (s.reqStack r) = [] →
    let at_ := s.policeAt x.req.src.port x.req.tenant 4096
    ∃ v : State, v.now = max s.now at_ ∧ v.qos.acq = s.qos.acq.erase y ∧ v.acc = s.acc ∧ v.ecc = s.ecc ∧
      (v.stillOpen r a.handle.toNat = false ∨ (mget s.acc.stops key).isSome = true →
        exec (.rdmaReadChunk key) s = .next (({ v with acc := { v.acc with stops := mdel v.acc.stops key } } : State).refuse r
          (mgetD s.acc.stops key Status.revoked)).runReady.pfcAll) ∧
      (v.stillOpen r a.handle.toNat = true → mget s.acc.stops key = none → ∃ w : State,
        exec (.rdmaReadChunk key) s = .next (w.perform r).runReady.pfcAll ∧ w = { v with acc := { v.acc with
          rdma := mapIf (fun y => y.key = key) (fun y => { y with off := y.off + c, left := y.left - c }) v.acc.rdma } })) ∧
  (∀ s : State, ∃ t : State, exec .queueSample s = .next t ∧ t.now = max s.now (s.qos.sampledAt + 500) ∧
    t.qos.sampledAt = t.now ∧ t.qos.egr = s.qos.egr ∧ t.qos.acq = s.qos.acq ∧
    ∀ q, q < 64 → ((s.qos.acq.filter fun x => x.tenant = q) = [] → ∀ n, mgetD s.qos.hist (32 * q) 0 = n → n < 0xFFFFFFFF →
      mgetD t.qos.hist (32 * q) 0 = n + 1))

/-- R56 to R59, R46, R395: without the frame timer a commit point does nothing; else, while nothing awaits a free boundary, no
frame is skipped, the execution plane is free and the fronds are ready, the chosen call is committed to a window that opens
at the next boundary; with no eligible call none is. R9: at a strict overrun the call whose window closes ends with
CALL_FAULT, DETAIL 1; where no window closes, or in shared mode, nothing happens. -/
def Obligations.CommitPointsOpenWindows : Prop :=
  (∀ s : State, s.pwr.timer = false → exec .commitPoint s = .next s) ∧
  (∀ s : State, s.pwr.timer = true →
    let v := (s.toTime (s.frameStart + 1800)).testCalls
    v.heldForFree = false → v.fld R.PWR_STATUS_LEVEL ≤ v.frame % 8 → v.planeFree = true → v.frondsReady = true →
    (∀ c tag, (if v.strict then v.strictChoice else v.sharedChoice) = some (c, tag) →
      ∃ t : State, exec .commitPoint s = .next t ∧
        t.ftm.windows = v.ftm.windows ++ [⟨c.key, c.tenant, v.frame + 1, v.framesFor c, 0⟩] ∧
        (∀ x ∈ t.seq.calls, x.key = c.key → x.committed = true) ∧
        (∀ x ∈ v.seq.calls, x.key ≠ c.key → x ∈ t.seq.calls) ∧ t.regs = v.regs ∧ t.ecc = v.ecc ∧
        (v.strict = false → t.ftm.prio = (c.tenant + 1) % 64)) ∧
    ((if v.strict then v.strictChoice else v.sharedChoice) = none → exec .commitPoint s = .next v)) ∧
  (∀ s : State, s.pwr.timer = true →
    let v := (s.toTime (s.frameStart + 1800)).testCalls
    v.heldForFree = false → v.fld R.PWR_STATUS_LEVEL ≤ v.frame % 8 → v.planeFree = false ∨ v.frondsReady = false →
    exec .commitPoint s = .next v) ∧
  (∀ s : State, s.closing = none ∨ s.strict = false → exec .strictOverrun s = .next s) ∧
  (∀ (s : State) (w : Window) (c : CallRec), s.closing = some (w, c) → s.strict = true →
    s.rotaOwner (s.frame + 1) ≠ some w.tenant → s.endsBy w c = false →
    ∃ t : State, t = { s with now := max s.now (s.frameStart + 1920) } ∧
      exec .strictOverrun s = .next (((t.endWindow Status.callFault 1 0).count
        (R.FTM_TS_FRAMES_FORCED_ENDS.at (0x20 * w.tenant))).raise 13 11))

/-! ### Plans and calls (chapter 5) -/

/-- R107 to R111, R13: PLAN_LOAD in the tenant's range starts an index afresh at offset 0 or adds to a LOADING one, and the
image then holds its chunk; PLAN_COMMIT is accepted and its checks follow; a commit whose image passes them makes the plan
RESIDENT under the next generation and answers with its handle and hash; PLAN_UNLOAD empties an index that no call is bound
to; a CALL that passes its checks in order is accepted and enters the call queue behind the others, bound to its slots; one
whose plan is not RESIDENT ends with CALL_FAULT, DETAIL 11. -/
def Obligations.PlansAreLoadedAndCalled : Prop :=
  (∀ (p : Pkt) (i : BitVec 16) (off : BitVec 32) (c : List Byte) (s u : State) (r : Req),
    s.runs p (.planLoad i off c) = some (u, r) → u.ownsPlan r.tenant i.toNat = true →
    let old : Plan := (u.plan i.toNat).getD ⟨1, r.tenant, [], [], 0, 0⟩
    let loading : Prop := ∃ pl, u.plan i.toNat = some pl ∧ pl.st = 1
    (¬loading → off = 0 → u.planCalls i.toNat = [] →
      let more := (⟨1, r.tenant, Mem.write [] 0 c, addSpan [] 0 c.length, 0, 0⟩ : Plan).pages
      more ≤ u.fld (R.SEQ_TCALL_PLAN_PAGES.at (0x10 * r.tenant)) -
        (u.planPages r.tenant - (if old.tenant = r.tenant then old.pages else 0)) →
      more ≤ 512 - (u.allPages - old.pages) →
      ∃ (t : State) (pl : Plan), exec (.planLoad p i off c) s = .next (t.respond r (mkAns r.op Status.ok)).runReady ∧
        t = { u with seq := { u.seq with plans := mset u.seq.plans i.toNat pl } } ∧ pl.st = 1 ∧ pl.tenant = r.tenant ∧
        pl.spans = [(0, c.length)] ∧ pl.image.read 0 c.length = c ∧ ∀ b, c.length ≤ b → pl.image.byte b = 0) ∧
    (∀ pl, u.plan i.toNat = some pl → pl.st = 1 →
      let q := { pl with image := pl.image.write off.toNat c, spans := addSpan pl.spans off.toNat (off.toNat + c.length) }
      q.pages - pl.pages ≤ u.fld (R.SEQ_TCALL_PLAN_PAGES.at (0x10 * r.tenant)) - u.planPages r.tenant →
      q.pages - pl.pages ≤ 512 - u.allPages →
      exec (.planLoad p i off c) s = .next (({ u with seq := { u.seq with
        plans := mset u.seq.plans i.toNat q } } : State).respond r (mkAns r.op Status.ok)).runReady ∧
      q.image.read off.toNat c.length = c ∧
      ∀ b, ¬(off.toNat ≤ b ∧ b < off.toNat + c.length) → q.image.byte b = pl.image.byte b)) ∧
  (∀ (p : Pkt) (i al : BitVec 16) (len crc : BitVec 32) (s u : State) (r : Req),
    s.runs p (.planCommit i al len crc) = some (u, r) → u.ownsPlan r.tenant i.toNat = true →
    ∃ t : State, exec (.planCommit p i al len crc) s = .next t.runReady ∧ t.seq = { u.seq with commits := u.seq.commits ++
        [⟨i.toNat, { r with accepted := true }, len.toNat, al.toNat, crc.toNat⟩] } ∧ t.sends r.acceptance ∧ t.ecc = u.ecc) ∧
  (∀ (i : Nat) (s : State) (c : Commit) (pl : Plan), s.seq.commits.find? (fun c => c.index = i) = some c →
    let last := mgetD s.seq.alive c.req.tenant 0
    (c.alive % 65536 = (last + 1) % 65536 → s.plan i = some pl → pl.st = 1 → pl.spans = [(0, c.len)] →
      (crc32c (pl.image.read 0 c.len)).toNat = c.crc → commitFail pl c.len true = none →
      let hash := Config.sha384 (pl.image.read 0 c.len)
      ∃ t : State, exec (.planCommitComplete i) s = .next (t.respond c.req (mkAns c.req.op Status.ok
          (planHandle (s.nextPlanGen i) c.req.tenant i) (bvBytes 48 hash))) ∧
        t.plan i = some { pl with st := 2, tenant := c.req.tenant, len := c.len, hash := hash } ∧
        mgetD t.seq.gens i 0 = s.nextPlanGen i ∧ mgetD t.seq.alive c.req.tenant 0 = c.alive % 65536 ∧
        t.seq.commits = s.seq.commits.erase c ∧ (∀ j, j ≠ i → t.plan j = s.plan j) ∧ t.seq.calls = s.seq.calls) ∧
    (c.alive % 65536 ≠ (last + 1) % 65536 → ∃ t : State, exec (.planCommitComplete i) s = .next (t.respond c.req
        (mkAns c.req.op Status.conflict ((last + 1) % 65536))) ∧ t.seq.plans = s.seq.plans ∧ t.seq.alive = s.seq.alive)) ∧
  (∀ (p : Pkt) (i : BitVec 16) (s u : State) (r : Req), s.runs p (.planUnload i) = some (u, r) →
    u.ownsPlan r.tenant i.toNat = true → (∀ pl, u.plan i.toNat = some pl → pl.tenant = r.tenant) →
    (u.planCalls i.toNat = [] → ∃ t : State, exec (.planUnload p i) s = .next (t.respond r (mkAns r.op Status.ok)).runReady ∧
      t = { u with seq := { u.seq with plans := t.seq.plans } } ∧ t.plan i.toNat = none ∧
      ∀ j, j ≠ i.toNat → t.plan j = u.plan j) ∧
    (u.planCalls i.toNat ≠ [] → exec (.planUnload p i) s =
      .next (u.respond r (mkAns r.op Status.retryAfter (u.planHint i.toNat))).runReady)) ∧
  (∀ (p : Pkt) (c : CallBody) (s u : State) (r : Req), s.runs p (.call c) = some (u, r) →
    let i := bitsOf c.plan.toNat 0 10
    (u.plan i = none → exec (.call p c) s = .next (u.respond r (callAns c Status.callFault 11 0 0)).runReady) ∧
    (∀ (pl : Plan) (v : State) (bs : List Bind), u.plan i = some pl → pl.st = 2 → pl.tenant = r.tenant →
      c.plan.toNat = planHandle (mgetD u.seq.gens i 0) r.tenant i →
      let h := headerOf pl.image
      let slots := numbered c.slots
      c.nslots.toNat = h.slots → c.nscalars.toNat = h.scalars →
      firstFail slots (fun k x => slotShape (slotDesc pl.image k) x) = none →
      (c.joint = true → firstFail slots (fun k x => u.jointOk r c pl k x) = none) →
      u.checkSlots r c pl.image slots = (v, .ok bs) →
      firstFail (numbered bs) (fun k b => v.slotPlace pl.image k b) = none → v.bindsRetired bs = false →
      h.fronds ≤ v.available → v.seq.calls.length < 4096 →
      v.callsOf r.tenant < v.fld (R.SEQ_TCALL_MAX_QUEUED.at (0x10 * r.tenant)) →
      ∃ (t : State) (x : CallRec), exec (.call p c) s = .next t.runReady ∧ t.seq.calls = v.seq.calls ++ [x] ∧
        x.key = v.acc.nextKey ∧ x.req = { r with accepted := true, checked := true } ∧ x.tenant = r.tenant ∧ x.plan = i ∧
        x.callId = c.callId.toNat ∧ x.binds = bs ∧ x.scalars = c.scalars ∧ x.locked = false ∧ x.committed = false ∧
        t.sends r.acceptance ∧ t.ecc.mem = v.ecc.mem ∧ t.seq.run = v.seq.run ∧ t.xlt = v.xlt))

/-! ### Synchronisation objects (chapter 9) -/

/-- R189 to R198, Tables 9.2 and 9.3: an operation on an object of its tenant's range, at the device that holds it, that is
not FAULTED, of the type that the operation serves and with no waiter, gives the object the words of Table 9.2, leaves every
other object, and answers with its status word and result words; where WAIT was asked and the condition is not met it is
registered behind the other waiters instead. INIT answers every waiter with REVOKED and sets the object. A wait that reaches
its time answers OK with MET 0. -/
def Obligations.SyncRowsActOnOneObject : Prop :=
  (∀ (p : Pkt) (x : SyncArgs), ∀ row ∈ ([(.syncRead p x, 1), (.waitFor p x, 2), (.cAdd p x, 3), (.cCas p x, 4),
      (.bArrive p x, 5), (.sAcquire p x, 6), (.sRelease p x, 7), (.tTake p x, 8), (.tServe p x, 9), (.mPut p x, 10),
      (.mGet p x, 11), (.fUpdate p x, 12)] : List (Instr × BitVec 8)),
    ∀ (s u : State) (r : Req), s.runs p (.sync row.2 x) = some (u, r) →
    let n := x.obj.toNat
    let sop := row.2.toNat
    u.taking (setOfObj n) = false → u.holds (setOfObj n) = true → u.ownsObj r.tenant n = true →
    (u.obj n).faulted = false →
    (sopType sop = 8 ∨ sopType sop = (u.obj n).typ ∨ sopType sop = 7 ∧ (u.obj n).typ ≠ 0) →
    (sopChecksCrc sop = true → (u.obj n).badCrc = false) → (∀ w ∈ u.syn.waiters, w.obj ≠ n) →
    let y := (u.obj n).apply sop x.a false
    let waits := x.wait = true ∧ sopMayWait sop = true ∧ y.2.status = Status.ok ∧ y.2.met = false
    (¬waits → ∃ v : State, exec row.1 s = .next (v.syncAnswer r n (y.1 ≠ u.obj n) y.2).runReady ∧ v.obj n = y.1 ∧
      (∀ m, m ≠ n → v.obj m = u.obj m) ∧ v.syn.waiters = u.syn.waiters ∧
      v = { u with syn := v.syn, regs := v.regs, par := v.par }) ∧
    (waits → u.waiterRoom r.tenant = true → u.standby (setOfObj n) = false →
      ∃ (t : State) (w : SyncWaiter), exec row.1 s = .next t.runReady ∧ t.obj n = y.1 ∧
        (∀ m, m ≠ n → t.obj m = u.obj m) ∧ t.syn.waiters = u.syn.waiters ++ [w] ∧ w.obj = n ∧ w.sop = sop ∧
        w.req = { r with accepted := true, bound := none } ∧ w.a = q8 x.a ∧
        w.due = (if x.timeout = 0 then none else some (u.now + x.timeout.toNat * 500)) ∧ t.sends r.acceptance ∧
        t.ecc = u.ecc)) ∧
  (∀ (p : Pkt) (x : SyncArgs) (s u : State) (r : Req), s.runs p (.sync 16 x) = some (u, r) →
    let n := x.obj.toNat
    u.taking (setOfObj n) = false → u.holds (setOfObj n) = true → u.ownsObj r.tenant n = true →
    (initOk x.a = true → ∃ v : State, exec (.init p x) s = .next (v.syncAnswer r n true (resOk true [])).runReady ∧
      v.obj n = initObj x.a ∧ (∀ m, m ≠ n → v.obj m = u.obj m) ∧
      v.syn.waiters = u.syn.waiters.filter (fun w => w.obj ≠ n) ∧ v.ecc = u.ecc) ∧
    (initOk x.a = false → exec (.init p x) s = .next (u.respond r (mkAns r.op Status.noRights)).runReady)) ∧
  (∀ (n h : Nat) (id : BitVec 48) (s : State) (w : SyncWaiter) (d : Nat),
    s.syn.waiters.find? (fun w => w.obj = n && w.req.holder = h && w.req.reqId = id) = some w → w.due = some d →
    s.holds (setOfObj n) = true → ∃ v : State, v = { s with now := max s.now d, regs := v.regs } ∧
      exec (.syncWaitTimeout n h id) s = .next (v.endWait w ⟨Status.ok, false, q8 ((s.obj n).timeoutWords w)⟩) ∧
      (v.endWait w ⟨Status.ok, false, q8 ((s.obj n).timeoutWords w)⟩).syn.waiters = s.syn.waiters.erase w ∧
      ∀ m, (v.endWait w ⟨Status.ok, false, q8 ((s.obj n).timeoutWords w)⟩).obj m = s.obj m)

/-- Tables 9.1 to 9.3: what the types promise. A counter adds modulo 2^64 and swaps only on equality; a barrier's arrivals stay
below its expected count, and its generation rises exactly when the last one comes; a semaphore never falls below zero nor
wraps, and what is acquired leaves it; tickets are served in turn and never beyond the next to be taken; a mailbox gives back
the payload put into it, once; flags are cleared, then set, bit by bit. -/
def Obligations.SyncObjectsKeepTheirPromises : Prop :=
  (∀ (o : SyncObj) (a : List Word64) (w : Bool), o.w.length = 8 →
    ((o.apply 3 a w).1.word 0).toNat = ((o.word 0).toNat + (a.getD 0 0).toNat) % 2 ^ 64 ∧
    (o.apply 4 a w).1.word 0 = (if o.word 0 = a.getD 0 0 then a.getD 1 0 else o.word 0) ∧
    ((o.apply 4 a w).2.met = true ↔ o.word 0 = a.getD 0 0) ∧
    ((o.word 1).toNat < (o.word 2).toNat →
      ((o.apply 5 a w).1.word 1).toNat < ((o.apply 5 a w).1.word 2).toNat ∧
      ((o.apply 5 a w).2.met = true ↔ (o.word 1).toNat + 1 = (o.word 2).toNat) ∧
      (o.apply 5 a w).1.word 0 = (if (o.word 1).toNat + 1 = (o.word 2).toNat then o.word 0 + 1 else o.word 0)) ∧
    ((o.apply 6 a w).2.met = true → ((o.apply 6 a w).1.word 0).toNat + (a.getD 0 0).toNat = (o.word 0).toNat) ∧
    ((o.apply 6 a w).2.met = false → (o.apply 6 a w).1 = o ∧ (w = true ∨ (o.word 0).toNat < (a.getD 0 0).toNat)) ∧
    ((o.apply 7 a w).2.met = true → ((o.apply 7 a w).1.word 0).toNat = (o.word 0).toNat + (a.getD 0 0).toNat) ∧
    ((o.apply 7 a w).2.met = false → (o.apply 7 a w).1 = o ∧ (o.apply 7 a w).2.status = Status.conflict ∧
      2 ^ 64 ≤ (o.word 0).toNat + (a.getD 0 0).toNat) ∧
    ((o.apply 8 a w).2.q.getD 0 0 = o.word 0 ∧ (o.apply 8 a w).1.word 0 = o.word 0 + 1 ∧
      (o.apply 8 a w).1.word 1 = o.word 1) ∧
    ((o.apply 9 a w).2.met = true → ((o.apply 9 a w).1.word 0 - (o.apply 9 a w).1.word 1).toNat + 1 =
      (o.word 0 - o.word 1).toNat) ∧
    ((o.apply 9 a w).2.met = false → (o.apply 9 a w).1 = o ∧ o.word 0 = o.word 1) ∧
    (∀ k, k < 64 → ((o.apply 12 a w).1.word 0).getLsbD k =
      ((a.getD 0 0).getLsbD k || ((o.word 0).getLsbD k && !(a.getD 1 0).getLsbD k)))) ∧
  (∀ (s : State) (n : Nat) (a b : List Word64) (w v : Bool), (s.obj n).typ = 5 → (s.obj n).faulted = false →
    (s.obj n).full = false →
    let x := s.syncOp n 10 a w
    let y := x.1.syncOp n 11 b v
    x.2.met = true ∧ (x.1.syncOp n 10 b w).2.met = false ∧ y.2.met = true ∧ y.2.status = Status.ok ∧ y.2.q = q8 a ∧
    (y.1.obj n).full = false ∧ (y.1.syncOp n 11 b v).2.met = false)

/-! ### Coherence (chapter 7) -/

/-- R148 to R159, Tables 7.4 and 12.3: RD_S, RD_X and UPG of a free line make the requester its owner and are granted the line's
data; where other agents hold the line they snoop them first, and RD_NA snoops another owner and else returns its bytes
with no entry; a blocked line's requests wait behind the others. COH_JOIN makes its holder a member and COH_LEAVE takes it
and what it owned out. WB by the owner writes the line home and frees its entry; of another member it changes nothing. -/
def Obligations.CoherentRequestsFollowTheirLine : Prop :=
  (∀ (p : Pkt) (a : Addr), ∀ row ∈ ([(.rdS p a, .rdS a, .rdS, 1), (.rdX p a, .rdX a, .rdX, 2), (.upg p a, .upg a, .rdX, 2)] :
      List (Instr × ReqOp × TxnKind × Nat)), ∀ (s u v : State) (r : Req) (e : Extent) (way : Nat),
    s.runs p row.2.1 = some (u, r) → u.isRevoked r.holder = false →
    let i := a.handle.toNat % 2 ^ 18
    let line := (e.start * 65536 + a.offset.toNat / 128 * 128) / 128
    let k := u.dir.nextTxn % 2 ^ 32
    u.extent i = some e → u.holds (setOfIndex i) = true → u.recallDir i = 0 → u.blocked line = false →
    u.txnsFull r.tenant = false → (∀ t ∈ u.dir.txns, t.num ≠ k) → u.dentry line = none → u.dirWays e.tenant ≠ [] →
    u.dirWay e.tenant line = some (way, none) →
    let d : DirEntry := ⟨line, i, way, true, false, e.tenant, e.gen, [r.holder], []⟩
    ((u.openTxn row.2.2.1 line i (some { r with checked := true })).2.setEntry d).readRange i e (line * 128) 128 [] = (v, .ok) →
    ∃ (t : State) (x : Txn) (at_ : Nat), exec row.1 s = .next t.runReady ∧ t.dentry line = some d ∧ t.blocked line = true ∧
      t.txn k = some x ∧ x.snoops = [] ∧ x.grant = some (mkAns row.2.1 Status.ok 0
        (grantBody row.2.2.2 k (v.ecc.mem.read (line * 128) 128)), at_, 1) ∧ t.ecc = v.ecc) ∧
  (∀ (p : Pkt) (a : Addr), ∀ row ∈ ([(.rdS p a, .rdS a, 0), (.rdX p a, .rdX a, 1), (.upg p a, .upg a, 1),
      (.rdNa p a, .rdNa a, 2)] : List (Instr × ReqOp × Nat)), ∀ (s u : State) (r : Req) (e : Extent) (d : DirEntry),
    s.runs p row.2.1 = some (u, r) → u.isRevoked r.holder = false →
    let i := a.handle.toNat % 2 ^ 18
    let line := (e.start * 65536 + (cohRange row.2.1 a).1) / 128
    let k := u.dir.nextTxn % 2 ^ 32
    let others := (u.named d).filter (· ≠ r.holder)
    u.extent i = some e → u.recallDir i = 0 → u.txnsFull r.tenant = false → (∀ t ∈ u.dir.txns, t.num ≠ k) →
    u.dentry line = some d → (d.coarse = true ∨ ∀ h ∈ d.ptrs, u.isMember h = true) → u.blocked line = false → others ≠ [] →
    (row.2.2 ≠ 1 → d.owned = true) → (row.2.2 = 0 → d.holds r.holder = false) →
    ∃ (t : State) (x : Txn), exec row.1 s = .next t.runReady ∧ t.txn k = some x ∧ x.line = line ∧
      x.snoops.map (·.agent) = others ∧ (∀ y ∈ x.snoops, y.code = row.2.2) ∧ x.grant = none ∧ t.dir.entries = u.dir.entries ∧
      t.ecc = u.ecc) ∧
  (∀ (p : Pkt) (a : Addr) (s u v : State) (r : Req) (e : Extent), s.runs p (.rdNa a) = some (u, r) →
    u.isRevoked r.holder = false →
    let i := a.handle.toNat % 2 ^ 18
    let x := e.start * 65536 + a.offset.toNat
    let n := bitsOf a.length.toNat 0 7 + 1
    u.extent i = some e → u.recallDir i = 0 → u.blocked (x / 128) = false →
    (∀ d, u.dentry (x / 128) = some d → d.owned = false ∧ (d.coarse = true ∨ ∀ h ∈ d.ptrs, u.isMember h = true)) →
    u.readRange i e x n [] = (v, .ok) →
    exec (.rdNa p a) s = .next (v.respond { r with checked := true } (mkAns (.rdNa a) Status.ok 0
      (grantBody 3 0 (v.ecc.mem.read x n)))).runReady) ∧
  (∀ (p : Pkt) (a : Addr), ∀ row ∈ ([(.rdS p a, .rdS a), (.rdX p a, .rdX a), (.upg p a, .upg a), (.rdNa p a, .rdNa a)] :
      List (Instr × ReqOp)), ∀ (s u : State) (r : Req) (e : Extent) (t : Txn), s.runs p row.2 = some (u, r) →
    u.isRevoked r.holder = false → u.extent (a.handle.toNat % 2 ^ 18) = some e → u.recallDir (a.handle.toNat % 2 ^ 18) = 0 →
    let line := (e.start * 65536 + (cohRange row.2 a).1) / 128
    u.dir.txns.find? (fun t => t.line = line) = some t → t.retried = false → r.waitFrom = none →
    (u.dir.waiters.filter fun w => w.line = line).length < u.fld R.DIR_CFG_MAX_WAITERS →
    u.tableFull 65536 u.dir.waiters.length (u.dir.waiters.filter fun w => w.req.tenant = r.tenant).length r.tenant = false →
    ∃ y : State, exec row.1 s = .next y.runReady ∧ y = { u with dir := { u.dir with waiters := u.dir.waiters ++
      [⟨line, { r with checked := true, waitFrom := some u.now }, u.now⟩] } }) ∧
  (∀ (p : Pkt) (c : BitVec 16) (s u : State) (r : Req), s.runs p (.cohJoin c) = some (u, r) → u.member r.holder = none →
    16 ≤ c.toNat → u.standby (if u.holds 0 then 0 else 1) = false →
    ∃ v : State, exec (.cohJoin p c) s = .next (v.respond r (mkAns (.cohJoin c) Status.ok)).runReady ∧
      v.member r.holder = some ⟨r.tenant, r.conn, c.toNat, 0, u.now, if u.holds 0 then 0 else 1⟩ ∧
      (∀ h, h ≠ r.holder → v.member h = u.member h) ∧ v.dir.entries = u.dir.entries ∧ v.ecc = u.ecc) ∧
  (∀ (p : Pkt) (s u : State) (r : Req) (m : Member), s.runs p .cohLeave = some (u, r) → u.member r.holder = some m →
    m.state = 0 → ∃ v : State, exec (.cohLeave p) s = .next (v.respond r (mkAns .cohLeave Status.ok)).runReady ∧
      v.member r.holder = none ∧ (∀ h, h ≠ r.holder → v.member h = u.member h) ∧
      ((∀ t ∈ u.dir.txns, (∀ x ∈ t.snoops, x.agent ≠ r.holder) ∧ (t.grant.isSome = true → ∀ q, t.req = some q → q.holder ≠ r.holder)) →
        (∀ d ∈ v.dir.entries, v.ownEntry d = true → d.owned = true → r.holder ∉ d.ptrs) ∧ v.dir.txns = u.dir.txns ∧
        v.ecc = u.ecc)) ∧
  (∀ (p : Pkt) (a : Addr) (d : List Byte) (s u : State) (r : Req) (e : Extent), s.runs p (.wb a d) = some (u, r) →
    u.wbFails r a = none → u.isRevoked r.holder = false →
    let i := a.handle.toNat % 2 ^ 18
    let line := (e.start * 65536 + a.offset.toNat) / 128
    u.extent i = some e →
    (∀ x, u.dentry line = some x → x.owned = true → r.holder ∈ x.ptrs → (∀ t ∈ u.dir.txns, t.line ≠ line) →
      e.prot ≠ 3 → u.ecc.sram = [] → (line * 128 + 128 ≤ poolEnd ∨ awayBase ≤ line * 128) →
      (∀ g, (poolEnd ≤ g * 64 ∨ u.parityGranule g = true) → mget u.ecc.errs g = none) →
      ∃ t : State, exec (.wb p a d) s = .next t.runReady ∧ t.ecc.mem.read (line * 128) 128 = d.take 128 ∧
        (∀ b < poolEnd, ¬(line * 128 ≤ b ∧ b < line * 128 + 128) → t.ecc.mem.byte b = u.ecc.mem.byte b) ∧
        t.dentry line = none) ∧
    ((∀ x, u.dentry line = some x → r.holder ∉ x.ptrs) → (∀ x ∈ u.dir.victims, x.line ≠ line) → u.isMember r.holder = true →
      exec (.wb p a d) s = .next (u.newKey.2.respondLine i r (mkAns (.wb a (d.take 128)) Status.ok)).runReady))

/-- R151, R154, R155, R158, R163 to R165: an ACK of the requester closes its transaction, and the lines' waiters that nothing
blocks start; a snoop reply resolves its agent's snoop, with the owner's data written home first; unanswered grants and
snoops are repeated twice, then their agent's membership is revoked; a waiter's limit answers BUSY_LINE; the sweep visits a
revoked agent's entries one by one and ends with REVOKED raised and reported; DIR_KICK revokes a membership; DIR_REVOKED
gives its oldest record and drops it. -/
def Obligations.DirectoryRepliesAndTimers : Prop :=
  (∀ (p : Pkt) (txn : BitVec 32) (s u : State) (x : Conn) (t : Txn) (r : Req) (g : Ans × Nat × Nat),
    s.takeReply p 4 = (u, some x) → u.txn txn.toNat = some t → t.grant = some g → t.req = some r → r.holder = x.holder →
    exec (.ack p txn) s = .next (u.closeTxn t).runReady ∧
    (∀ w ∈ (u.closeTxn t).dir.waiters, w.line = t.line → (u.closeTxn t).blocked w.line = true) ∧
    ((∀ d, u.dentry t.line = some d → d.coarse = true ∨ ∀ h ∈ d.ptrs, u.isMember h = true) → (u.closeTxn t).ecc = u.ecc)) ∧
  (∀ (p : Pkt) (txn : BitVec 32) (s u : State) (x : Conn), s.takeReply p 4 = (u, some x) → u.txn txn.toNat = none →
    exec (.rspClean p txn) s = .next u.runReady ∧ exec (.ack p txn) s = .next u.runReady ∧
    exec (.rspMiss p txn) s = .next (u.count R.DIR_CROSS_STALE_MISS).runReady ∧
    exec (.rspMissWb p txn) s = .next (u.count R.DIR_CROSS_STALE_MISS).runReady) ∧
  (∀ (p : Pkt) (txn : BitVec 32) (s u : State) (x : Conn) (t : Txn) (y : Snoop),
    s.takeReply p 4 = (u, some x) → u.txn txn.toNat = some t →
    t.snoops.find? (fun y => y.agent = x.holder && y.sent) = some y →
    exec (.rspClean p txn) s = .next (u.resolveSnoop t x.holder y.gotWb).runReady ∧
    (∃ v : State, v = { u with regs := v.regs } ∧
      v.fld R.DIR_CROSS_STALE_MISS = min (u.fld R.DIR_CROSS_STALE_MISS + 1) (2 ^ R.DIR_CROSS_STALE_MISS.w - 1) ∧
      exec (.rspMiss p txn) s = .next (v.resolveSnoop t x.holder true).runReady ∧
      (y.gotWb = true → exec (.rspMissWb p txn) s = .next (v.resolveSnoop t x.holder true).runReady) ∧
      (y.gotWb = false → exec (.rspMissWb p txn) s = .next (v.setTxn { t with
        snoops := mapIf (fun z => z.agent = x.holder) (fun z => { z with needWb := true }) t.snoops }).runReady))) ∧
  (∀ (p : Pkt) (txn : BitVec 32) (d : List Byte) (s u : State) (x : Conn) (t : Txn) (y : Snoop),
    s.takeReply p 132 = (u, some x) → u.txn txn.toNat = some t →
    t.snoops.find? (fun y => y.agent = x.holder && y.sent) = some y →
    (y.gotWb = true → exec (.rspDirty p txn d) s = .next (u.resolveSnoop t x.holder true).runReady) ∧
    (∀ e, u.extent t.index = some e → e.prot ≠ 3 → u.ecc.sram = [] → y.gotWb = false →
      (t.line * 128 + 128 ≤ poolEnd ∨ awayBase ≤ t.line * 128) →
      (∀ g, (poolEnd ≤ g * 64 ∨ u.parityGranule g = true) → mget u.ecc.errs g = none) → ∃ v : State,
      exec (.rspDirty p txn d) s = .next (v.resolveSnoop t x.holder false).runReady ∧
      v.ecc.mem.read (t.line * 128) 128 = fitBytes 128 d ∧
      (∀ b < poolEnd, ¬(t.line * 128 ≤ b ∧ b < t.line * 128 + 128) → v.ecc.mem.byte b = u.ecc.mem.byte b) ∧
      v.dir = u.dir)) ∧
  (∀ (k : Nat) (s : State) (t : Txn) (a : Ans) (at_ n : Nat) (r : Req), s.txn k = some t → t.grant = some (a, at_, n) →
    t.req = some r →
    let held := s.parked.any fun p => p.req = r
    (held = true → exec (.grantResend k) s = .next s.runReady) ∧
    (held = false → n < 3 → r.via = .ipt → r.chunk = none → r.op.cohOp = true → a.status = Status.ok →
      (s.conn r.conn).isSome = true →
      ∃ v : State, exec (.grantResend k) s = .next v.runReady ∧
        (r.accepted = false → v.sends (r.answer a)) ∧
        v.now = max s.now (at_ + 4000 * n) ∧ v.ecc = s.ecc ∧ v.dir.entries = s.dir.entries ∧
        (∃ t', v.txn k = some t' ∧ t'.grant = some (a, at_, n + 1))) ∧
    (held = false → 3 ≤ n → exec (.grantResend k) s = .next (({ s with now := max s.now (at_ + 4000 * n) } : State).revokeMember r.holder
      1).runReady)) ∧
  (∀ (k agent : Nat) (s : State) (t : Txn) (x : Snoop), s.txn k = some t →
    t.snoops.find? (fun x => x.agent = agent) = some x →
    (x.needWb = true → exec (.snoopRetry k agent) s = .next (({ s with
      now := max s.now (x.firstAt + 12000) } : State).revokeMember agent 0).runReady) ∧
    (x.needWb = false → x.tries < 2 → ∃ v : State, exec (.snoopRetry k agent) s = .next v.runReady ∧
      (∀ w ∈ v.dir.waiters, w.line ≠ t.line) ∧ (v.word 0x15020).getLsbD 9 = true ∧
      (∃ t' b, v.txn k = some t' ∧ t'.retried = true ∧ (t'.snoops.find? fun x => x.agent = agent) =
        some { x with tries := x.tries + 1, sent := b }) ∧ v.ecc = s.ecc) ∧
    (x.needWb = false → 2 ≤ x.tries → exec (.snoopRetry k agent) s = .next (({ s with
      now := max s.now (x.firstAt + 4000 * (x.tries + 1)) } : State).revokeMember agent 0).runReady)) ∧
  (∀ (line : Nat) (s : State) (w : Waiter), s.dir.waiters.find? (fun w => w.line = line) = some w →
    ∃ v : State, v = { s with
        now := max s.now (w.since + s.fld R.DIR_CFG_WAIT_LIMIT_US * 500)
        dir := { s.dir with waiters := s.dir.waiters.erase w } } ∧
      exec (.waitLimitExpire line) s = .next (v.busyWait w.req (s.fld R.DIR_CFG_BUSY_HINT_US)).runReady) ∧
  (∀ (agent : Nat) (s : State) (m : Member), s.member agent = some m → m.state = 1 →
    (∀ d, s.sweepTodo agent = some d → exec (.sweepVisit agent) s = .next (s.sweepEntry agent d).runReady ∧
      (d.owned = true → (s.sweepEntry agent d).dentry d.line = none) ∧
      (d.owned = false → d.ptrs.filter (· ≠ agent) ≠ [] → s.dentry d.line = some d → ∃ d', (s.sweepEntry agent d).dentry d.line = some d' ∧
        d'.ptrs = d.ptrs.filter (· ≠ agent))) ∧
    (s.sweepTodo agent = none → ∃ t : State, exec (.sweepDone agent) s = .next t.runReady ∧
      t.member agent = some { m with state := 2 } ∧ (∀ x ∈ t.dir.lostLines, x.1 ≠ agent) ∧
      (t.word 0x15020).getLsbD 11 = true ∧ t.ecc = s.ecc)) ∧
  (∀ (src : RegSrc) (w : Word64) (s : State), w.toNat < 4096 → s.pageLocked 21 = false → s.clockStopped 21 = false →
    ∃ v : State, exec (.dirKick src w) s = .next (v.revokeMember w.toNat 2).runReady ∧ v = { s with regs := v.regs } ∧
      (∀ m, s.member w.toNat = some m → m.state = 0 →
        (v.revokeMember w.toNat 2).member w.toNat = some { m with state := 1, since := s.now } ∧
        ((v.revokeMember w.toNat 2).word 0x15020).getLsbD 8 = true)) ∧
  (∀ (n a t c : Nat) (l : List (Nat × Nat × Nat)) (s : State), s.dir.revoked = (a, t, c) :: l →
    exec (.dirRevokedRead (.core n)) s = .next { s with
      dir := { s.dir with revoked := l }
      out := s.out ++ [.busRead (.core n) 0x15120 (BitVec.ofNat 64 (a + t * 2 ^ 12 + c * 2 ^ 18 + 2 ^ 63))] })

/-! ### KV-cache and embedding services (chapter 8) -/

/-- R169 to R179, Tables 8.1 and 8.2: KV_ALLOC stages the lowest FREE block of an arena, or with none that of the least recent
unpinned entry; KV_FREE frees one that its holder staged; PUBLISH enters a staged block under its key with version 1 unless
the key has one; REPUBLISH and UNPUBLISH act on the stated version alone, and a block that leaves the index is RETIRED while
pinned; LOOKUP pins what it finds; UNPIN, a pin's end and PFX_RECLAIM give blocks back. -/
def Obligations.BlocksFollowTheirStates : Prop :=
  (∀ (p : Pkt) (h : BitVec 32) (s u : State) (r : Req) (a : Nat), s.runs p (.kvAlloc h) = some (u, r) →
    let i := h.toNat % 2 ^ 18
    let used := (u.pfx.blocks.filter fun b => arenaOfBlock b.1 = a).length
    u.arenaOf i = some a →
    (∀ b, used < u.arenaBlocks a → ((List.range (min (u.arenaBlocks a) (used + 1))).find? fun b =>
        (u.block (a * 2 ^ 24 + b)).st = 0) = some b →
      ∃ v : State, exec (.kvAlloc p h) s = .next (v.kvAnswer r (setOfIndex i) i (mkAns (.kvAlloc h) Status.ok
          (a * 2 ^ 24 + b))).runReady ∧ v.block (a * 2 ^ 24 + b) = ⟨1, r.holder⟩ ∧
        (∀ c, c ≠ a * 2 ^ 24 + b → v.block c = u.block c) ∧ v.pfx.entries = u.pfx.entries ∧ v.ecc = u.ecc) ∧
    (∀ e, u.arenaBlocks a ≤ used → u.leastRecent (fun e => arenaOfBlock e.block = a) = some e → u.ownBlock e.block = true →
      ∃ v : State, exec (.kvAlloc p h) s = .next (v.kvAnswer r (setOfIndex i) i (mkAns (.kvAlloc h) Status.ok
          e.block)).runReady ∧ v.block e.block = ⟨1, r.holder⟩ ∧ v.pfx.entries = u.pfx.entries.erase e ∧ v.ecc = u.ecc) ∧
    (u.arenaBlocks a ≤ used → u.leastRecent (fun e => arenaOfBlock e.block = a) = none →
      exec (.kvAlloc p h) s = .next (u.respond r (mkAns (.kvAlloc h) Status.retryAfter
        (u.pinHint fun b => arenaOfBlock b = a))).runReady)) ∧
  (∀ (p : Pkt) (h b : BitVec 32) (s u : State) (r : Req) (a : Nat), s.runs p (.kvFree h b) = some (u, r) →
    u.arenaOf (h.toNat % 2 ^ 18) = some a → arenaOfBlock b.toNat = a → u.stagedBy b.toNat r.holder = true →
    ∃ v : State, exec (.kvFree p h b) s = .next (v.respond r (mkAns (.kvFree h b) Status.ok)).runReady ∧
      v.block b.toNat = ⟨0, 0⟩ ∧ (∀ c, c ≠ b.toNat → v.block c = u.block c) ∧ v.pfx.entries = u.pfx.entries ∧ v.ecc = u.ecc) ∧
  (∀ (p : Pkt) (h b : BitVec 32) (key : BitVec 128) (s u : State) (r : Req) (a : Nat),
    s.runs p (.publish h b key) = some (u, r) →
    let i := h.toNat % 2 ^ 18
    let k := setOfIndex i
    u.arenaOf i = some a → arenaOfBlock b.toNat = a → u.stagedBy b.toNat r.holder = true → u.ownBlock b.toNat = true →
    u.fld (R.PFX_TSETS_SET_COUNT.at (0x10 * r.tenant)) ≠ 0 →
    (u.findKey r.tenant key = none →
      (u.pfx.entries.filter fun e => e.tenant = r.tenant && u.keySet r.tenant e.key = u.keySet r.tenant key).length < 8 →
      ∃ v : State, exec (.publish p h b key) s = .next (v.kvAnswer r k i (mkAns (.publish h b key) Status.ok (2 ^ 32))).runReady ∧
        v.findKey r.tenant key = some ⟨r.tenant, key, b.toNat, 1, u.pfx.stamp + 1⟩ ∧ v.block b.toNat = ⟨2, 0⟩ ∧
        (∀ c, c ≠ b.toNat → v.block c = u.block c) ∧ v.pfx.pins = u.pfx.pins ∧ v.ecc = u.ecc) ∧
    (∀ e, u.findKey r.tenant key = some e →
      ∃ v : State, exec (.publish p h b key) s = .next (v.kvAnswer r k i (mkAns (.publish h b key) Status.exists_
          (e.block + e.version * 2 ^ 32))).runReady ∧ v.block b.toNat = ⟨0, 0⟩ ∧ v.pfx.entries = u.pfx.entries ∧
        v.ecc = u.ecc)) ∧
  (∀ (p : Pkt) (h b : BitVec 32) (key : BitVec 128) (ver : BitVec 32) (s u : State) (r : Req) (a : Nat) (e : PfxEntry),
    s.runs p (.republish h b key ver) = some (u, r) →
    let i := h.toNat % 2 ^ 18
    u.arenaOf i = some a → arenaOfBlock b.toNat = a → u.stagedBy b.toNat r.holder = true → u.ownBlock b.toNat = true →
    u.fld (R.PFX_TSETS_SET_COUNT.at (0x10 * r.tenant)) ≠ 0 → u.findKey r.tenant key = some e →
    (e.version = ver.toNat → e.block ≠ b.toNat →
      let n := if ver.toNat = 0xFFFFFFFF then 1 else ver.toNat + 1
      ∃ v : State, exec (.republish p h b key ver) s = .next (v.kvAnswer r (setOfIndex i) i
          (mkAns (.republish h b key ver) Status.ok (n * 2 ^ 32))).runReady ∧
        v.findKey r.tenant key = some ⟨r.tenant, key, b.toNat, n, u.pfx.stamp + 1⟩ ∧ v.block b.toNat = ⟨2, 0⟩ ∧
        v.block e.block = ⟨if u.pinned e.block then 3 else 0, 0⟩ ∧ v.ecc = u.ecc) ∧
    (e.version ≠ ver.toNat → exec (.republish p h b key ver) s = .next (u.respond r
      (mkAns (.republish h b key ver) Status.conflict e.version)).runReady)) ∧
  (∀ (p : Pkt) (key : BitVec 128) (ver : BitVec 32) (s u : State) (r : Req), s.runs p (.unpublish key ver) = some (u, r) →
    (∀ e, u.findKey r.tenant key = some e → u.taking (u.setOfBlock e.block) = false → e.version = ver.toNat →
      ∃ v : State, exec (.unpublish p key ver) s = .next (v.kvAnswer r (u.setOfBlock e.block)
          (u.arenaIndex (arenaOfBlock e.block)) (mkAns (.unpublish key ver) Status.ok)).runReady ∧
        v.pfx.entries = u.pfx.entries.erase e ∧ v.block e.block = ⟨if u.pinned e.block then 3 else 0, 0⟩ ∧ v.ecc = u.ecc) ∧
    (u.findKey r.tenant key = none → exec (.unpublish p key ver) s =
      .next (u.respond r (mkAns (.unpublish key ver) Status.conflict)).runReady)) ∧
  (∀ (p : Pkt) (key : BitVec 128) (s u : State) (r : Req), s.runs p (.lookup key) = some (u, r) →
    let miss := (u.respond r (mkAns (.lookup key) Status.ok 0 (lookupBody false 0 0 0 0 0))).runReady
    let sets := u.fld (R.PFX_TSETS_SET_COUNT.at (0x10 * r.tenant))
    (u.findKey r.tenant key = none ∨ sets = 0 → exec (.lookup p key) s = .next miss) ∧
    (∀ e x, u.findKey r.tenant key = some e → u.extent (u.arenaIndex (arenaOfBlock e.block)) = some x →
      x.state ≠ .opened → exec (.lookup p key) s = .next miss) ∧
    (∀ e x, u.findKey r.tenant key = some e → u.extent (u.arenaIndex (arenaOfBlock e.block)) = some x →
      sets ≠ 0 → x.state = .opened → u.taking (u.setOfBlock e.block) = false →
      covers (u.rightsOf r.holder (u.arenaIndex (arenaOfBlock e.block)) x) rRead = true → u.heldPins.length < 1048576 →
      u.pinsOf r.tenant < u.fld (R.PFX_TSETS_MAX_PINS.at (0x10 * r.tenant)) →
      ∃ v : State, exec (.lookup p key) s = .next (v.respond r (mkAns (.lookup key) Status.ok 0 (lookupBody true
          (handleOf x.gen (u.arenaIndex (arenaOfBlock e.block))) e.block e.version
          (e.block % 2 ^ 24 * u.arenaUnits (arenaOfBlock e.block) * 65536) 2000))).runReady ∧
        ⟨r.holder, e.block, u.now + 1000000⟩ ∈ v.pfx.pins ∧ v.pfx.blocks = u.pfx.blocks ∧ v.ecc = u.ecc)) ∧
  (∀ (p : Pkt) (b : BitVec 32) (s u : State) (r : Req), s.runs p (.unpin b) = some (u, r) →
    ∃ v : State, exec (.unpin p b) s = .next (v.respond r (mkAns (.unpin b) Status.ok)).runReady ∧
      v.pfx.pins = u.pfx.pins.filter (fun x => !(x.holder = r.holder && x.block = b.toNat)) ∧
      ((u.block b.toNat).st ≠ 3 → v.pfx.blocks = u.pfx.blocks) ∧
      ((u.block b.toNat).st = 3 → v.pinned b.toNat = false → v.pfx.pins ≠ u.pfx.pins → v.block b.toNat = ⟨0, 0⟩) ∧
      v.ecc = u.ecc) ∧
  (∀ (h b : Nat) (s : State) (x : Pin), s.pfx.pins.find? (fun x => x.holder = h && x.block = b) = some x →
    ∃ v : State, exec (.pinExpire h b) s = .next v ∧ v.now = max s.now x.ends ∧
      v.pfx.pins = s.pfx.pins.filter (fun x => !(x.holder = h && x.block = b)) ∧ v.ecc = s.ecc ∧
      ((s.block b).st = 3 → v.pinned b = false → v.block b = ⟨0, 0⟩)) ∧
  (∀ (src : RegSrc) (w : Word64) (s : State), ∃ v : State, exec (.pfxReclaim src w) s = .next v ∧
    (∀ b, v.block b ≠ ⟨1, (s.storeReg src 0x16118 (w ||| BitVec.ofNat 64 (2 ^ 63))).fld R.PFX_RECLAIM_HOLDER⟩) ∧
    v.pfx.entries = s.pfx.entries ∧ v.pfx.pins = s.pfx.pins ∧ v.ecc = s.ecc)

/-- R184 to R186, R188: RING_REDUCE and RING_ROUTE at their root are accepted and send every other device of their list its
stage, a root that heads its list beginning its own (the layout of the messages is the model's: entry 58); a reduction whose members all delivered writes the combined
elements that no chunk has written yet to its destination and nothing else; one that a member ended, or that one did not
answer in time, leaves with that status, counted and raised. A status that Table 0.4 does not list ends nothing. -/
def Obligations.RingOperatorsCombineTheirParts : Prop :=
  (∀ (p : Pkt) (l sa d : Addr) (el bag : BitVec 32) (mx sc ez : Bool) (s u v1 v : State) (r : Req),
    s.runs p (.ringReduce l el mx sc ez bag sa d) = some (u, r) →
    let i := l.handle.toNat % 2 ^ 18
    let e := (u.extent i).getD emptyExtent
    let n := bitsOf l.length.toNat 0 8 + 1
    let j := sa.handle.toNat % 2 ^ 18
    let g := (u.extent j).getD emptyExtent
    let m := 4 * ceilDiv (el.toNat + 1) bag.toNat
    let scales := if sc then some (wordsOf (m / 4) (v.ecc.mem.read (g.addr sa.offset.toNat) m)) else none
    u.opDone.newKey.2.readRange i e (e.addr l.offset.toNat) (16 * n) [] = (v1, .ok) →
    (if sc then v1.readRange j g (g.addr sa.offset.toNat) m [] else (v1, .ok)) = (v, .ok) →
    ∃ (t : State) (x : RingOp), exec (.ringReduce p l el mx sc ez bag sa d) s = .next (t.firstParts x).runReady ∧
      ((x.members.headD (u.devIndex, 0, 0)).1 ≠ u.devIndex ∨ x.members.length = 1 → t.firstParts x = t) ∧
      t.pfx.ring = u.pfx.ring ++ [x] ∧ x.members = (v1.records (e.addr l.offset.toNat) 16 n).map ringEntry ∧
      x.req = { r with accepted := true, checked := true } ∧ x.started = u.now ∧ t.sends r.acceptance ∧ t.ecc = v.ecc ∧
      ∀ m ∈ numbered x.members, m.2.1 ≠ u.devIndex →
        .ringStage m.2.1 r.tenant 0 m.1 (ringWords x.key ([m.2.2.1, m.2.2.2, el.toNat + 1, if mx then 1 else 0,
            if ez then 1 else 0, bag.toNat, (((x.members ++ [(u.devIndex, 0, 0)])[m.1 + 1]?).getD (0, 0, 0)).1,
            if m.1 + 1 = x.members.length then 1 else 0, if sc then 1 else 0] ++
          if m.1 + 1 = x.members.length then scales.getD [] else [])) ∈ t.out) ∧
  (∀ (p : Pkt) (q d : Addr) (s u v1 v : State) (r : Req), s.runs p (.ringRoute q d) = some (u, r) →
    let i := q.handle.toNat % 2 ^ 18
    let j := d.handle.toNat % 2 ^ 18
    let e := (u.extent i).getD emptyExtent
    let f := (u.extent j).getD emptyExtent
    let n := bitsOf q.length.toNat 0 20 + 1
    let m := bitsOf d.length.toNat 0 8 + 1
    u.opDone.newKey.2.readRange i e (e.addr q.offset.toNat) (8 * n) [] = (v1, .ok) →
    v1.readRange j f (f.addr d.offset.toNat) (32 * m) [] = (v, .ok) →
    let table := (v.records (f.addr d.offset.toNat) 32 m).map routeEntry
    let ptrs := (v1.records (e.addr q.offset.toNat) 8 n).map leNat
    ∃ (t : State) (x : RingOp), exec (.ringRoute p q d) s = .next t.runReady ∧ t.pfx.ring = u.pfx.ring ++ [x] ∧
      x.members = table.map (fun y => (y.dev, y.handle, y.off)) ∧
      x.req = { r with accepted := true, checked := true } ∧ t.sends r.acceptance ∧ t.ecc = v.ecc ∧
      ∀ y ∈ firstEntries table, y.2.dev ≠ u.devIndex → .ringStage y.2.dev r.tenant 1 y.1
        (ringWords x.key ([y.2.handle, y.2.off, y.2.cap, y.2.countOff] ++ routedTo ptrs y.2)) ∈ t.out) ∧
  (∀ (key pos : Nat) (parts : List (List Word64)) (s v1 v2 v : State) (x : RingOp) (ps : List (List Nat)) (bs sc : List Byte)
      (l sa d : Addr) (el bag : BitVec 32) (mx scl ez : Bool), s.findRing key = some x → x.ending = none → x.busy = false →
    x.chunks = [] → s.ecc.sram = [] → x.req.op = .ringReduce l el mx scl ez bag sa d →
    let y := { x with ending := some (Status.ok, pos, parts) }
    let w := y.work [] false
    (s.setRing y).partsOfList y (el.toNat + 1) 0 x.members parts w = (v1, .ok ps) → v1.ringScales y w = (v2, .ok sc) →
    let all := combineElems mx (ps.headD []) (ps.drop 1)
    all.length = el.toNat + 1 →
    let out := (finishElems ⟨el.toNat + 1, mx, scl, ez, bag.toNat⟩ (wordsOf (sc.length / 4) sc) 0 all).drop x.done
    let z := v2.ringDest y x.done out
    let wr : Writer := ⟨key, false, none, z.e.ownReads (z.e.addr z.off) z.bs.length⟩
    out ≠ [] → z.e.prot ≠ 3 → v2.firstShut z.e z.gs = none →
    v2.writeShort z.gs (v2.writeNeeds z.i z.e z.gs wr).eraseDups false = false → v2.ringReads y w [z] = (v, .ok bs) →
    v.mapsAtHand z.gs (z.e.addr z.off) z.bs.length →
    z.bs = out.flatMap (leBytes 4) ∧ z.off = d.offset.toNat + 4 * x.done ∧ z.i = d.handle.toNat % 2 ^ 18 ∧
    ∃ t u : State, exec (.ringOpComplete key Status.ok pos parts) s = .next t.runReady ∧
      v.changedTo t (z.e.addr z.off) z.bs ∧ (∀ y ∈ t.pfx.ring, y.key ≠ key) ∧
      t = u.finish key x.req (mkAns x.req.op Status.ok) z.e.mirroredMode (setOfIndex z.i)) ∧
  (∀ (key status pos : Nat) (parts : List (List Word64)) (s : State) (x : RingOp) (q d : Addr), s.findRing key = some x →
    x.ending = none → x.busy = false → x.chunks = [] → x.req.op = .ringRoute q d → x.req.chunk = none → s.ecc.sram = [] →
    status ≠ Status.ok → status ≤ 0x0F → s.acksOf key = 0 →
    let t := ({ s with pfx := { s.pfx with ring := s.pfx.ring.filter fun y => y.key ≠ key } } : State).respond x.req
      (x.failure status ((parts.getD x.members.length []).headD 0).toNat pos)
    exec (.ringOpComplete key status pos parts) s = .next t.runReady ∧ (t.word 0x16020).getLsbD 10 = true) ∧
  (∀ (key status pos : Nat) (parts : List (List Word64)) (s : State),
    (0x0F < status → exec (.ringOpComplete key status pos parts) s = .next s) ∧
    (status ≤ 0x0F → s.findRing key = none → exec (.ringOpComplete key status pos parts) s = .next s.runReady)) ∧
  (∀ (key pos : Nat) (s : State) (x : RingOp), s.findRing key = some x → x.req.chunk = none → s.acksOf key = 0 →
    (∃ q d, x.req.op = .ringRoute q d) ∨ (∃ l el mx sc ez bag sa d, x.req.op = .ringReduce l el mx sc ez bag sa d) →
    let t := ({ s with
        now := max s.now (x.started + s.fld R.PFX_CFG_RING_TIMEOUT_US * 500)
        pfx := { s.pfx with ring := s.pfx.ring.filter fun y => y.key ≠ key } } : State).respond x.req
      (x.failure Status.retryAfter 4 pos)
    exec (.ringMemberTimeout key pos) s = .next t ∧ (t.word 0x16020).getLsbD 10 = true) ∧
  (∀ (x : RingOp) (status aux pos : Nat), (x.failure status aux pos).status = status ∧ (x.failure status aux pos).detail = pos ∧
    (status = Status.retryAfter ∨ status = Status.notReady ∨ status = Status.busyLine →
      (x.failure status aux pos).aux = max 1 (aux % 2 ^ 32)) ∧
    (status = Status.unmapped ∨ status = Status.poisoned → (x.failure status aux pos).aux = aux % 2 ^ 48 ∧
      (x.failure status aux pos).off = aux % 2 ^ 40))

/-! ### Stacks and data integrity (chapters 10 and 11) -/

/-- R216, R219 to R223, R398: a stack enters NAP once it is drained and nothing demands it, starts its exit on a demand and
ends it IN_SERVICE with NAP_CHANGE raised, and the reads that waited for it enter its queues; when training ends every
pseudo-channel of the stacks in TRAINING is in service with its read latency, or RETIRED with cause TRAINING, while frames run
at its next boundary; a retirement by fault takes effect at its boundary, one by command
at a free one, and what the retired pseudo-channel's queues held is gone; `SMC_RETIRE` queues its targets. -/
def Obligations.StacksNapTrainAndRetire : Prop :=
  (∀ (n : Nat) (s : State), s.frameStart ≤ mgetD s.smc.napAt n 0 → exec (.napEntryComplete n) s = .next s) ∧
  (∀ (n : Nat) (s : State), n < 8 → s.smc.stackSts.length = 8 → s.stackSt n = 2 → mgetD s.smc.napAt n 0 < s.frameStart →
    (n ∈ s.smc.demand → ∃ t : State, exec (.napEntryComplete n) s = .next t ∧ t = { s with smc := t.smc } ∧ t.stackSt n = 1 ∧
      t.smc.demand = s.smc.demand.erase n ∧
      (∀ e ∈ s.smc.heldReads, stackOfPc (pcOf (e.g * 64)) = n → e ∈ (t.pc (pcOf (e.g * 64))).rq) ∧
      ((∀ e ∈ s.smc.heldReads, stackOfPc (pcOf (e.g * 64)) ≠ n) → t.smc.pcs = s.smc.pcs)) ∧
    (n ∉ s.smc.demand → (∀ p ∈ pcsOf n, (s.pc p).wq = [] ∧ (s.pc p).rq = [] ∧ ∀ w ∈ s.smc.waits, w.at p = false) →
      ∃ t : State, exec (.napEntryComplete n) s = .next t ∧ t = { s with smc := t.smc, now := t.now, regs := t.regs } ∧
        t.stackSt n = 3 ∧ t.now = max s.now (s.frameStart + 100) ∧ (t.word (0x20020 + 0x1000 * n)).getLsbD 11 = true ∧
        (t.word 0x2020).getLsbD 9 = true ∧ ∀ p ∈ pcsOf n, (t.pc p).openRows = []) ∧
    (n ∉ s.smc.demand → (∃ p ∈ pcsOf n, (s.pc p).wq ≠ []) → exec (.napEntryComplete n) s = .next s)) ∧
  (∀ (n : Nat) (s : State), s.stackSt n = 3 → s.deep = false → n < s.smc.stackSts.length →
    (n ∈ s.smc.demand → ∃ t : State, exec (.napExitStart n) s = .next t ∧ t = { s with smc := t.smc } ∧ t.stackSt n = 4 ∧
      ∀ m, m ≠ n → t.stackSt m = s.stackSt m) ∧
    (n ∉ s.smc.demand → exec (.napExitStart n) s = .next s)) ∧
  (∀ (n : Nat) (lats : List (Nat × Nat)) (s : State),
    (n < 8 → s.smc.stackSts.length = 8 → s.stackSt n = 4 → s.napExitDue n = true → s.deep = false →
      ∃ u : State, exec (.napExitComplete n lats) s = .next u.replayWaits ∧ u.stackSt n = 1 ∧
        u.smc.demand = s.smc.demand.erase n ∧ (u.word (0x20020 + 0x1000 * n)).getLsbD 11 = true) ∧
    (s.napExitDue n = false → exec (.napExitComplete n lats) s = .next s.replayWaits)) ∧
  (∀ (lats : List (Nat × Nat)) (failed : List Nat) (ms : Nat) (s : State),
    (s.fld R.PWR_STATUS_PHASE < 2 → exec (.stackTrainingComplete lats failed ms) s = .next s) ∧
    (2 ≤ s.fld R.PWR_STATUS_PHASE → s.lmc.ppr = none → ∃ t : State, exec (.stackTrainingComplete lats failed ms) s = .next t ∧
      ∀ p, p < 512 → s.stackSt (p / 64) = 0 → (t.pc p).state ≠ 0 ∨ s.pwr.timer = true ∧ t.faultRetiring p = true) ∧
    (∀ p l, (s.pc p).state = 0 → lats.find? (fun e => e.1 = p) = some (p, l) →
      (p ∉ failed → l ≤ 96 → (s.trainPc lats failed p).pc p = { s.pc p with state := 1, rdLat := l } ∧
        ∀ q, q ≠ p → (s.trainPc lats failed p).pc q = s.pc q) ∧
      (p ∈ failed ∨ 96 < l → ((s.trainPc lats failed p).word ((0x20 + p / 64) * 0x1000 + 0x20)).getLsbD 10 = true ∧
        (s.pwr.timer = false → (s.trainPc lats failed p).pc p = { s.pc p with state := 2, cause := 1 }) ∧
        (s.pwr.timer = true → (s.trainPc lats failed p).faultRetiring p = true ∧ (s.trainPc lats failed p).smc.pcs = s.smc.pcs)))) ∧
  (∀ (p c cause : Nat) (s : State), p < 512 →
    (s.smc.retireNow.find? (fun e => e.1 = p) = some (p, cause) → s.now = s.frameStart →
      ∃ t : State, exec (.pcRetire p c) s = .next t.runReady ∧
      (t.pc p).state = 2 ∧ (t.pc p).cause = cause ∧ (t.pc p).wq = [] ∧ (t.pc p).rq = [] ∧
      (∀ e ∈ t.smc.retireNow, e.1 ≠ p) ∧ (t.word (0x20020 + 0x1000 * (p / 64))).getLsbD 8 = true) ∧
    (s.smc.retireNow.find? (fun e => e.1 = p) = none ∨ s.now ≠ s.frameStart →
      exec (.pcRetire p c) s = .next s.runReady)) ∧
  (∀ s : State, (s.now ≠ s.frameStart → exec .pcRetireCommandEffect s = .next s.runReady) ∧
    (∀ p, s.now = s.frameStart → s.smc.retireDue = [p] → s.pcRetired p = false → s.faultRetiring p = false →
      ∃ t : State, exec .pcRetireCommandEffect s = .next t.runReady ∧ (t.pc p).state = 2 ∧ (t.pc p).cause = 3 ∧
        t.smc.retireDue = [])) ∧
  (∀ (src : RegSrc) (n : Nat) (w : Word64) (s : State), n < 8 → s.clockStopped (32 + n) = false →
    ∃ t : State, exec (.smcRetire src n w) s = .next t.runReady ∧ t.smc.pcs = s.smc.pcs ∧ t.ecc = s.ecc ∧
      ∀ p ∈ (s.storeReg src (0x20110 + 0x1000 * n) (w ||| goBit)).retireTargets n,
        p ∈ t.smc.retireCmd ∨ s.pcRetired p = true ∨ s.faultRetiring p = true ∨ p ∈ s.smc.retireDue)

/-- R229, R230, R238 to R241, R247, R250, R251, R253: a scrubber visits each granule of its pseudo-channel once in a pass, in
ascending order, in a position that the slots, the rebuild and the re-key sweep have left, and reads none that a planned write waits for;
each rebuild step visits one group, in positions left idle, and the last raises REBUILD_DONE; a remap by register takes
effect only before the frame timer is set and while entries are left, and the log gives each new entry once; a general CRC unit computes over its range of management memory and compares with EXPECT. -/
def Obligations.ScrubRebuildRemapAndCrc : Prop :=
  (∀ p n, p < 512 → n < 2 ^ 25 → pcOf (scrubGranule p n * 64) = p ∧ ∀ m, n < m → m < 2 ^ 25 →
    scrubGranule p n < scrubGranule p m) ∧
  (∀ (p : Nat) (s : State), (s.scrubs p = false → exec (.scrubVisit p) s = .next s) ∧
    (s.scrubs p = true →
      let n := mgetD s.ecc.cursor p 0
      let g := scrubGranule p n
      let due := max s.now ((mget s.ecc.passAt p).getD s.now + n * s.scrubPeriod / 2 ^ 25)
      let planned := (s.pc p).planned.any fun c => c.write && c.g = g
      let reads := !(s.scrubSkips g) && !planned && !(s.ecc.remap.any fun x => x.1 = g)
      let waits := reads && ((s.idleAt p g due (s.onFallback p)).isNone || s.rekeyWants p || s.rebuildWants p)
      (waits = true → exec (.scrubVisit p) s = .next s) ∧
      (waits = false → ∃ t : State, exec (.scrubVisit p) s = .next t ∧ t.now = due ∧
        mget t.ecc.cursor p = some (if 2 ^ 25 ≤ n + 1 then 0 else n + 1) ∧
        (planned = true ∨ s.scrubSkips g = true →
          t.ecc.mem = s.ecc.mem ∧ t.ecc.errs = s.ecc.errs ∧ t.smc = s.smc ∧ t.out = s.out)))) ∧
  (∀ s : State, (s.ecc.rebuild = none ∨ s.fld R.PWR_STATUS_LEVEL = 8 → exec .rebuildStep s = .next s) ∧
    (∀ k, s.ecc.rebuild = some k → s.fld R.PWR_STATUS_LEVEL ≠ 8 →
      (rebuildRow s.parityExtents (k / 8) = none → exec .rebuildStep s = .next s.rebuildDone) ∧
      (∀ e row, rebuildRow s.parityExtents (k / 8) = some (e, row) →
        (s.rebuildGroup e row (k % 8) = none → exec .rebuildStep s = .next s) ∧
        (s.rebuildLost e row (k % 8) = [] →
          ((∀ m ∈ groupMembers (e.start * 65536) (e.len * 128) row (k % 8), s.isRebuilt (m / 64) = false) →
            s.rebuildGroup e row (k % 8) = some s) ∧
          (∀ ps n, e.parity = some (ps, n) →
            (∃ m ∈ groupMembers (e.start * 65536) (e.len * 128) row (k % 8), s.isRebuilt (m / 64) = true) →
            let p := parityAddr (ps * 65536) row (k % 8) / 64
            s.rebuildGroup e row (k % 8) = some (if s.pcRetired (pcOf (p * 64)) then s.groupLost p else s))) ∧
        (∀ g u v w p, s.rebuildMember e row (k % 8) = some g → s.rebuildPlaces (s.groupSources e g) = some u →
          u.groupWord e g = (v, some w) → e.parityOf g = some p →
          s.rebuildGroup e row (k % 8) = some { v.putParity p w with
            ecc := { (v.putParity p w).ecc with rebuilt := (v.putParity p w).ecc.rebuilt ++ [g] } } ∧
          (p * 64 < poolEnd → mget (v.putParity p w).ecc.words p = some w)) ∧
        (∀ g l, s.rebuildLost e row (k % 8) = g :: l → s.rebuildMember e row (k % 8) = none →
          s.rebuildGroup e row (k % 8) = some (s.poisonGroup e g)) ∧
        (∀ u, s.rebuildGroup e row (k % 8) = some u → u.parityTotal - (k + 1) / 8 = 0 →
          exec .rebuildStep s = .next u.rebuildDone) ∧
        (∀ u, s.rebuildGroup e row (k % 8) = some u → u.parityTotal - (k + 1) / 8 ≠ 0 → exec .rebuildStep s = .next
          { u with ecc := { u.ecc with rebuild := some (k + 1), rowsLeft := u.parityTotal - (k + 1) / 8 } })))) ∧
  (∀ s : State, s.rebuildDone.ecc.rebuild = none ∧ s.rebuildDone.ecc.rowsLeft = 0 ∧
    (s.rebuildDone.word 0x18020).getLsbD 11 = true ∧ s.rebuildDone.ecc.mem = s.ecc.mem) ∧
  (∀ (src : RegSrc) (w : Word64) (s : State),
    let v := s.storeReg src 0x18158 (w ||| BitVec.ofNat 64 (2 ^ 63))
    (s.fld R.FTM_REBASE_PL_LAT ≠ 0 → ∃ t : State, exec (.eccRemapAdd src w) s = .next t ∧ t.ecc = s.ecc) ∧
    (s.fld R.FTM_REBASE_PL_LAT = 0 → (∀ x ∈ s.ecc.remap, x.1 ≠ v.remapTarget) → s.remapUsed (pcOf (v.remapTarget * 64)) < 16 →
      ∃ (t : State) (b : Bool), exec (.eccRemapAdd src w) s = .next t ∧ t.ecc.remap = s.ecc.remap ++ [(v.remapTarget, b)] ∧
        ((∀ x, mget s.ecc.errs v.remapTarget = some x → x.n ≤ 4) → t.ecc.mem = s.ecc.mem) ∧
        (s.ecc.remapLog.length < 64 → t.ecc.remapLog = s.ecc.remapLog ++ [v.remapTarget]))) ∧
  (∀ (n g : Nat) (l : List Nat) (s : State), s.ecc.remapLog = g :: l →
    exec (.eccRemapLogRead (.core n)) s = .next { s with
      ecc := { s.ecc with remapLog := l }
      out := s.out ++ [.busRead (.core n) 0x18150 (BitVec.ofNat 64 (pcOf (g * 64) + bankOf (g * 64) * 2 ^ 9 +
        rowOf (g * 64) * 2 ^ 15 + colOf (g * 64) * 2 ^ 30 + 2 ^ 63))] }) ∧
  (∀ (src : RegSrc) (u : Nat) (w : Word64) (s : State), u < 16 →
    let d := 0x40 * u
    let v := s.storeReg src (0x19200 + d) w
    (u < 13 → exec (.crcGo src u w) s = .next v) ∧
    (13 ≤ u → v.fld (R.CRC_STAT_BUSY.at d) = 0 → mgmtBase ≤ v.fld (R.CRC_SRC_SRC.at d) →
      v.fld (R.CRC_SRC_SRC.at d) + v.fld (R.CRC_CTRL_LEN.at d) ≤ mgmtEnd →
      ∃ t : State, exec (.crcGo src u w) s = .next t ∧ t = { v with crc := t.crc, regs := t.regs } ∧
        t.fld (R.CRC_STAT_BUSY.at d) = 1 ∧ mget t.crc u = some ⟨v.fld (R.CRC_CTRL_ALG.at d),
          v.fld (R.CRC_CTRL_ALIVE_EN.at d) = 1, v.fld (R.CRC_SRC_SRC.at d), v.fld (R.CRC_CTRL_LEN.at d), v.word (0x19208 + d)⟩)) ∧
  (∀ (u : Nat) (s : State) (c : CrcUnit), u < 16 → mget s.crc u = some c →
    let res := crcAlg c.alg (s.lmc.mem.read c.src c.len)
    ∃ t : State, exec (.crcComputeDone u) s = .next t ∧ t = { s with crc := mdel s.crc u, regs := t.regs } ∧
      t.word (0x19210 + 0x40 * u) = BitVec.ofNat 64 res ∧ t.fld (R.CRC_STAT_BUSY.at (0x40 * u)) = 0 ∧
      (c.expect.toNat ≠ res → (t.word 0x19020).getLsbD 8 = true) ∧
      (c.aliveEn = true → c.expect.toNat = res →
        leNat ((s.lmc.mem.read c.src c.len).take 2) % 65536 = (s.fld (R.CRC_STAT_LAST_ALIVE.at (0x40 * u)) + 1) % 65536 →
        t.fld (R.CRC_STAT_LAST_ALIVE.at (0x40 * u)) = leNat ((s.lmc.mem.read c.src c.len).take 2) % 65536))

/-! ### Ports and transports (chapter 12) -/

/-- R254 to R258, R310, R438: a sub-port whose MAC address is 0 accepts nothing; an open one accepts frames to its own or the broadcast
address, with its VLAN tag or none, and with MACSEC only those whose tag its receive SAs pass, which raises their lowest
acceptable packet number; the rest is counted. ARP, neighbour solicitation and echo to its own addresses are answered, echo within
the control queue's rate; others are counted as unknown. A PFC frame pauses the priorities it names for their quanta; a change of the
link is raised; a discarded frame is counted by its cause; an MKA frame installs a transmit SA, a receive SA, both or none, as
free values say (log entry 74). -/
def Obligations.SubPortsAnswerTheirFrames : Prop :=
  (∀ (src : Src) (ip4 : BitVec 32) (ip6 : BitVec 128) (v6 : Bool) (data : List Byte) (s : State),
    let mac := BitVec.ofNat 48 (s.macOf src.port src.sub)
    ∀ row ∈ ([(.arpRequest src ip4, s.ownIp4 src ip4.toNat, false, .arpReply src ip4 mac),
        (.neighbourSolicitation src ip6, s.ownIp6 src ip6.toNat, false, .neighbourAdvert src ip6 mac),
        (.echoRequest src ip6 v6 data, if v6 then s.ownIp6 src ip6.toNat else s.ownIp4 src (ip6.toNat % 2 ^ 32), true,
          .echoReply src v6 data)] : List (Instr × Bool × Bool × OutPkt)),
      (∀ u : State, s.frameIn src = (u, true) → row.2.1 = true → row.2.2.1 = false ∨ u.controlBusy src = false →
        ∃ (t : State) (it : EgItem), exec row.1 s = .next t ∧ t = { u with qos := { u.qos with egr := u.qos.egr ++ [it] } } ∧
          it.pkt = row.2.2.2 ∧ it.tenant = none ∧ it.port = src.port ∧ it.sub = src.sub) ∧
      (∀ u : State, s.frameIn src = (u, true) → row.2.1 = false →
        exec row.1 s = .next (u.count (R.PRT_DROPS_UNKNOWN.at (0x1000 * src.port)))) ∧
      (∀ u : State, s.frameIn src = (u, false) → exec row.1 s = .next u)) ∧
  (∀ (src : Src) (target : BitVec 128) (v6 : Bool) (data : List Byte) (s u : State), s.frameIn src = (u, true) →
    (if v6 then s.ownIp6 src target.toNat else s.ownIp4 src (target.toNat % 2 ^ 32)) = true → u.controlBusy src = true →
    exec (.echoRequest src target v6 data) s = .next u) ∧
  (∀ (src : Src) (s : State),
    let sec := s.fld (R.PRT_CFG_MACSEC.at (0x1000 * src.port)) = 1
    let d := 0x1000 * src.port + 0x40 * src.sub
    (s.frameMine src = true ↔ (src.dmac.toNat = s.macOf src.port src.sub ∨ src.dmac = 0xFFFFFFFFFFFF) ∧
      (src.vlan = none ∨ ∃ v, src.vlan = some v ∧ s.fld (R.PRT_SPCFG_VLAN_EN.at d) = 1 ∧ s.fld (R.PRT_SPCFG_VLAN.at d) = v.toNat)) ∧
    (s.subOpen src.port src.sub = false → s.frameIn src = (s, false)) ∧
    (s.subOpen src.port src.sub = true → sec → s.secOk src = false →
      s.frameIn src = (s.count (R.PRT_DROPS_MACSEC.at (0x1000 * src.port)), false)) ∧
    (s.subOpen src.port src.sub = true → (sec ∧ s.secOk src = true ∨ ¬sec) → (¬sec ∧ src.sec.isSome = true ∨ s.frameMine src = false) →
      s.frameIn src = (s.count (R.PRT_DROPS_UNKNOWN.at (0x1000 * src.port)), false)) ∧
    (s.subOpen src.port src.sub = true → ¬sec → src.sec = none → s.frameMine src = true → s.frameIn src = (s, true)) ∧
    (∀ t, s.subOpen src.port src.sub = true → sec → src.sec = some t → s.secOk src = true → s.frameMine src = true →
      ∃ u : State, s.frameIn src = (u, true) ∧ u = { s with prt := u.prt } ∧ u.prt.subs = s.prt.subs ∧ u.prt.conns = s.prt.conns ∧
        ∀ a ∈ u.prt.rxSas, a.port = src.port → a.sci = t.sci → a.an = t.an → t.pn.toNat < a.next)) ∧
  (∀ (port sub : Nat) (en : BitVec 8) (q : List Nat) (s : State),
    (s.subOpen port sub = true → ∃ t : State, exec (.pfcFrame port sub en q) s = .next t ∧ t = { s with prt := t.prt } ∧
      ∀ i, i < 8 → mget (t.sub port sub).paused i =
        if en.getLsbD i ∧ (s.fld (R.PRT_CFG_PFC_MASK.at (0x1000 * port))).testBit i then
          (if q.getD i 0 % 65536 = 0 then none
            else some (s.now + ceilDiv (q.getD i 0 % 65536 * 256000) (s.lineRate port)))
        else mget (s.sub port sub).paused i) ∧
    (s.subOpen port sub = false → exec (.pfcFrame port sub en q) s = .next s)) ∧
  (∀ (port sub : Nat) (up : Bool) (s : State), s.portOn port = true → sub < s.subCount port →
    (s.fld (R.PRT_STATUS_LINK_UP.at (0x1000 * port))).testBit sub ≠ up → s.deep = false →
    ∃ t : State, exec (.linkChange port sub up) s = .next t ∧ (t.sub port sub).up = up ∧
      (t.word (0x28020 + 0x1000 * port)).getLsbD 8 = true ∧
      (t.fld (R.PRT_STATUS_LINK_UP.at (0x1000 * port))).testBit sub = up ∧ t.ecc = s.ecc) ∧
  (∀ (port sub cause : Nat) (s : State), exec (.frameDiscard port sub cause) s = .next (if s.portOn port then
    s.count ((if cause = 0 then R.PRT_DROPS_FCS else if cause = 2 then R.PRT_DROPS_MACSEC else R.PRT_DROPS_UNKNOWN).at
      (0x1000 * port)) else s)) ∧
  (∀ (port sub : Nat) (b : List Byte) (s : State),
    let free := Config.freeBits 1 s.freeCtr
    (s.subOpen port sub = false → exec (.mkaFrame port sub b) s = .next s) ∧
    (s.subOpen port sub = true →
    ∃ t : State, exec (.mkaFrame port sub b) s = .next t ∧ t = { s with prt := t.prt, freeCtr := s.freeCtr + 2 } ∧
      (free.getLsbD 0 = true → (t.sub port sub).txPn = 1 ∧ (t.sub port sub).txAn =
        some (match (s.sub port sub).txAn with | some a => (a + 1) % 4 | none => 0)) ∧
      (free.getLsbD 0 = false → t.prt.subs = s.prt.subs) ∧
      (free.getLsbD 1 = true → s.prt.rxSas = [] →
        t.prt.rxSas = [⟨port, Config.freeBits 1 (s.freeCtr + 1), free.extractLsb' 2 2, 1⟩]) ∧
      (free.getLsbD 1 = false → t.prt.rxSas = s.prt.rxSas)))

/-- R33 to R35, R39, R261, R263 to R277: a CONNECT that passes the checks of R263 opens a connection under a number not in use
for its holder's tenant, takes one admission token and is answered with it; CLOSE ends one; MSG_ACK ends the resending of
its MESSAGE, which its timer repeats until the connection closes; INVALIDATE drops the entries of its scope at once, the
ninth in progress is refused, and it completes when nothing older remains; FAULT_POP gives up to eight entries; LATENCY_TOL
stands for its tenant; queue pairs are created under a free number and destroyed; an undefined opcode is refused. -/
def Obligations.ConnectionsAndTheirRequests : Prop :=
  (∀ (src : Src) (seq : BitVec 32) (h : BitVec 16) (s0 s : State), s0.udpIn src s0.iptPort = (s, true) → s.inService = true →
    let w := s.hcfg h.toNat
    (s.tokensOf src.port).1 ≠ 0 → bitsOf w 0 1 = 1 → (bitsOf w 7 1 = 0 → src.ip = mgetD s.prt.haddr h.toNat 0) →
    (s.fld R.LMC_STATUS_LC = 4 → bitsOf w 8 1 = 1) → s.openOf h.toNat < bitsOf w 9 15 → s.prt.conns.length < 16384 →
    s.connsInUse.length < 16384 →
    ∃ (t : State) (c : Nat) (x : Conn), exec (.connect src seq h) s0 = .next t ∧ c < 16384 ∧ s.conn c = none ∧ c ∉ s.connsInUse ∧
      t.conn c = some x ∧ x.holder = h.toNat ∧ x.tenant = bitsOf w 1 6 ∧ x.src = src ∧ x.setup = (bitsOf w 7 1 = 1) ∧
      x.session = none ∧ (∀ k, k ≠ c → t.conn k = s.conn k) ∧ (t.tokensOf src.port).1 + 1 = (s.tokensOf src.port).1 ∧
      t.sends (.ipt 4 0x71 0 c seq 0 (s.fld R.PRT_IPT_CFG_CRED_REQ) (s.fld R.PRT_IPT_CFG_CRED_KIB) 0 [] none false src)) ∧
  (∀ (src : Src) (port : Nat) (s u : State),
    (s.frameIn src = (u, false) → s.udpIn src port = (u, false)) ∧
    (s.frameIn src = (u, true) → src.dport.toNat = port →
      (if src.dip.toNat / 2 ^ 32 = 0xFFFF then u.ownIp4 src (src.dip.toNat % 2 ^ 32) else u.ownIp6 src src.dip.toNat) = true →
      s.udpIn src port = (u, true)) ∧
    (s.frameIn src = (u, true) → src.dport.toNat ≠ port ∨
      (if src.dip.toNat / 2 ^ 32 = 0xFFFF then u.ownIp4 src (src.dip.toNat % 2 ^ 32) else u.ownIp6 src src.dip.toNat) = false →
      s.udpIn src port = (u.count (R.PRT_DROPS_UNKNOWN.at (0x1000 * src.port)), false))) ∧
  (∀ (p : Pkt) (n : Nat) (s u : State) (b : Bool), s.udpIn p.src s.iptPort = (u, b) → s.iptIn p n =
    if b = false then (u, false)
    else if p.ver = 1 ∧ p.len.toNat = n then (u, true)
    else (u.count (R.PRT_DROPS_UNKNOWN.at (0x1000 * p.src.port)), false)) ∧
  (∀ (src : Src) (c : BitVec 16) (s0 s : State) (x : Conn), s0.udpIn src s0.iptPort = (s, true) → s.conn c.toNat = some x →
    ∃ t : State, exec (.close src c) s0 = .next t ∧ t.conn c.toNat = none ∧ (∀ k, k ≠ c.toNat → t.conn k = s.conn k) ∧
      t.prt.qps = s.prt.qps ∧ t.ecc = s.ecc) ∧
  (∀ (p : Pkt) (a : BitVec 32) (s u : State) (x : Conn), s.takeReply p 4 = (u, some x) →
    ∃ t : State, exec (.msgAck p a) s = .next t ∧ t = { u with prt := t.prt } ∧
      t.conn p.conn.toNat = some { x with msgs := x.msgs.filter fun m => m.seq ≠ a }) ∧
  (∀ (c : Nat) (q : BitVec 32) (s : State) (x : Conn) (m : Msg), s.conn c = some x → x.msgs.find? (fun m => m.seq = q) = some m →
    (m.tries < s.fld R.PRT_IPT_CFG_DC_RETRIES → ∃ (t : State) (y : Conn), exec (.messageResend c q) s = .next t ∧
      t.sends (m.pkt.to x.src) ∧ t.now = max s.now (m.sentAt + s.fld R.PRT_IPT_CFG_RTO_US * 500) ∧ t.conn c = some y ∧
      (y.msgs.find? fun m => m.seq = q) = some { m with tries := m.tries + 1, sentAt := t.now }) ∧
    (s.fld R.PRT_IPT_CFG_DC_RETRIES ≤ m.tries → ∃ t : State, exec (.messageResend c q) s = .next t ∧ t.conn c = none ∧
      t.sends (.ipt 4 0x73 0 c 0 0 0 0 0 [] none false x.src))) ∧
  (∀ (port n d : Nat) (s : State), mget s.prt.tokens port = some (n, d) →
    ∃ t : State, exec (.admitTokenRefill port) s = .next t ∧ t = { s with prt := t.prt, now := max s.now (d + s.tokenGap) } ∧
      (n < s.fld R.PRT_ADMIT_RATE → (t.tokensOf port).1 = n + 1)) ∧
  (∀ (src : RegSrc) (w : Word64) (s : State),
    let h := s.fld R.PRT_HSEL_HOLDER
    let v := s.storeReg src 0x30120 w
    ((bitsOf (s.hcfg h) 0 1 = 1 ∧ bitsOf (v.hcfg h) 0 1 = 0) ∨ bitsOf (s.hcfg h) 1 6 ≠ bitsOf (v.hcfg h) 1 6 →
      ∃ t : State, exec (.prtHcfgWrite src w) s = .next t ∧ t.prt.hcfg = v.prt.hcfg ∧ ∀ e ∈ t.prt.conns, e.2.holder ≠ h) ∧
    (¬((bitsOf (s.hcfg h) 0 1 = 1 ∧ bitsOf (v.hcfg h) 0 1 = 0) ∨ bitsOf (s.hcfg h) 1 6 ≠ bitsOf (v.hcfg h) 1 6) →
      exec (.prtHcfgWrite src w) s = .next v)) ∧
  (∀ (p : Pkt) (us : BitVec 32) (s u : State) (r : Req), s.runs p (.latencyTol us) = some (u, r) →
    exec (.latencyTol p us) s = .next (({ u with prt := { u.prt with tol := mset u.prt.tol r.tenant us.toNat } } :
      State).respond r (mkAns (.latencyTol us) Status.ok)).runReady) ∧
  (∀ (p : Pkt) (q : QpArgs) (s u : State) (r : Req), s.runs p (.qpCreate q) = some (u, r) → QpOk q = true →
    u.openOf r.holder < bitsOf (u.hcfg r.holder) 9 15 → u.prt.qps.length < 8192 →
    ∃ (v : State) (n : Nat) (x : Qp), exec (.qpCreate p q) s = .next (v.respond r (mkAns (.qpCreate q) Status.ok n)).runReady ∧
      n < 2 ^ 24 ∧ u.qp n = none ∧ v.qp n = some x ∧ x.conn = r.conn ∧ x.holder = r.holder ∧ x.tenant = r.tenant ∧
      x.rxPsn = q.recvPsn.toNat ∧ x.txPsn = q.sendPsn.toNat ∧ x.error = false ∧ x.rate = u.lineRate r.src.port ∧
      ∀ k, k ≠ n → v.qp k = u.qp k) ∧
  (∀ (p : Pkt) (n : BitVec 24) (s u : State) (r : Req) (q : Qp), s.runs p (.qpDestroy n) = some (u, r) →
    u.qp n.toNat = some q → q.holder = r.holder ∨ u.privileged r = true →
    ∃ v : State, exec (.qpDestroy p n) s = .next (v.respond r (mkAns (.qpDestroy n) Status.ok)).runReady ∧
      (∀ y, v.qp n.toNat = some y → y.destroying = true) ∧ v.prt.conns = u.prt.conns ∧ v.ecc = u.ecc) ∧
  (∀ (p : Pkt) (sc : BitVec 8) (k : Bool) (val : BitVec 32) (s u : State) (r : Req),
    s.runs p (.invalidate sc k val) = some (u, r) →
    (8 ≤ u.xlt.invals.length → exec (.invalidate p sc k val) s =
      .next (u.respond r (mkAns (.invalidate sc k val) Status.retryAfter 1)).runReady) ∧
    (u.xlt.invals.length < 8 → k = false → ∃ (t : State) (x : Inval), exec (.invalidate p sc k val) s = .next t.runReady ∧
      t.xlt = { u.xlt with
        invals := u.xlt.invals ++ [x]
        tlb := u.xlt.tlb.filter fun b => !b.inScope sc.toNat val.toNat } ∧
      x.scope = sc.toNat ∧ x.value = val.toNat ∧ x.kill = false ∧ x.req = { r with accepted := true } ∧
      t.sends r.acceptance ∧ t.ecc = u.ecc)) ∧
  (∀ (key : Nat) (s : State) (x : Inval), s.xlt.invals.find? (fun x => x.key = key) = some x →
    let waits := s.pendingWork fun q => q.inScope x.scope x.value && q.ord < x.issuedBefore
    (waits = true → exec (.invalidateComplete key) s = .next s) ∧
    (waits = false → ∃ v : State, exec (.invalidateComplete key) s = .next (v.respond x.req (mkAns x.req.op Status.ok)) ∧
      v = { s with regs := v.regs, xlt := { s.xlt with invals := s.xlt.invals.filter fun z => z.key ≠ key } })) ∧
  (∀ (p : Pkt) (c : Bool) (s u : State) (r : Req), s.runs p (.faultPop c) = some (u, r) →
    let q := u.fq r.tenant
    ∃ v : State, exec (.faultPop p c) s = .next (v.respond r (mkAns (.faultPop c) Status.ok
        (((q.entries.take 8).flatMap FaultEntry.bytes).length / 32) ((q.entries.take 8).flatMap FaultEntry.bytes))).runReady ∧
      v.fq r.tenant = ⟨q.entries.drop 8, q.lost && !c, if c then 0 else q.overflow⟩ ∧
      (∀ t, t ≠ r.tenant → v.fq t = u.fq t) ∧ v = { u with xlt := { u.xlt with fq := v.xlt.fq } }) ∧
  (∀ (p : Pkt) (c : BitVec 8) (s u : State) (x : Conn), s.inService = true →
    s.takePkt p p.tail.length = (u, some x) → p.e2e = false → u.overCredit p.conn.toNat p.tail.length = false →
    (u.deep = false ∨ c = 0x62) → x.setup = false → u.bistOn = false →
    u.fld (R.QOS_PS_t1_P_RATE.at (psOff p.src.port x.tenant)) = 0 → (ReqOp.undefined c).cached = false →
    let v := u.newKey.2
    exec (.undefinedOpcode p c) s = .next ((v.respond (v.boundReq (reqOf p x (.undefined c) u.now u.acc.nextKey))
      (mkAns (.undefined c) Status.noRights)).runReady)) ∧
  (∀ (p : Pkt) (n : Nat) (s u : State), s.iptIn p n = (u, true) →
    (u.conn p.conn.toNat = none → s.takePkt p n = (u.sendReset p.src p.conn.toNat, none)) ∧
    (∀ x, u.conn p.conn.toNat = some x → x.encOk p = false →
      s.takePkt p n = (u.count (R.PRT_DROPS_MACSEC.at (0x1000 * p.src.port)), none)) ∧
    (∀ x, u.conn p.conn.toNat = some x → x.encOk p = true → s.takePkt p n = (u.setConn p.conn.toNat (x.took p), some (x.took p))) ∧
    (∀ x : Conn, x.session = none → (x.encOk p = !p.enc) ∧ x.took p = { x with src := p.src }))

/-- R257, R272 to R276, R124, R145: an RDMA READ of one chunk that begins returns its data and an RDMA WRITE writes its bytes
alone; an 8-byte atomic changes its word as CAS or FETCH_ADD does; a SEND of one whole IPT REQUEST is acknowledged and its request judged as though
it had come on the connection; the expected PSN moves past the packets; any other SEND ends the queue pair with NAK Invalid
Request. A congestion notification halves the rate, at most
once in CUT_US, and a timer raises it again; an ACK ends what it covers, a timeout or an RNR timer repeats it until the
retries are used up. -/
def Obligations.QueuePairsExecuteTheirMessages : Prop :=
  (∀ (p : QPkt) (rkey len : BitVec 32) (va : BitVec 64) (s u v : State) (r : Req), 0 < len.toNat →
    firstChunk va.toNat len.toNat = len.toNat →
    let op := ReqOp.read ⟨rkey, BitVec.ofNat 32 (len.toNat - 1), va⟩
    s.rdmaRuns p (64 + min len.toNat 4096) (packetCount (s.mtuOf p.qpn.toNat) len.toNat) op 0
      ⟨rkey.toNat, va.toNat, len.toNat, 1, 0, 1⟩ true = some (u, r) →
    let i := rkey.toNat % 2 ^ 18
    let e := (u.extent i).getD emptyExtent
    let x := e.addr va.toNat
    u.dirHolds r e (linesOf x len.toNat) = false → u.opDone.readRange i e x len.toNat [] = (v, .ok) →
    let w := v.fillLines i e (linesOf x len.toNat) (granulesOf x len.toNat)
    exec (.rdmaRead p rkey va len) s = .next ((w.respond r
      (mkAns op Status.ok 0 (v.ecc.mem.read x len.toNat))).runReady.pfcCheck p.src.port p.src.sub) ∧
    ((∀ l ∈ linesOf x len.toNat, (v.cline i e l).isSome = true ∨ v.effHint e (l / 512) = hintCold) → w = v)) ∧
  (∀ (p : QPkt) (rkey : BitVec 32) (va : BitVec 64) (d : List Byte) (s u v t0 : State) (r : Req) (key : Nat), 0 < d.length →
    firstChunk va.toNat d.length = d.length →
    let pk := packetCount (s.mtuOf p.qpn.toNat) d.length
    s.rdmaRuns p (64 * pk + d.length) pk (.write ⟨rkey, 0, va⟩ d) d.length ⟨rkey.toNat, va.toNat, d.length, 1, 0, 2⟩ false =
      some (u, r) →
    let i := rkey.toNat % 2 ^ 18
    let e := (u.extent i).getD emptyExtent
    let x := e.addr va.toNat
    let gs := granulesOf x d.length
    u.opDone.newKey = (key, t0) → e.prot ≠ 3 → u.dirHolds r e (linesOf x d.length) = false →
    u.opDone.firstShut e gs = none →
    t0.writeShort gs (t0.writeNeeds i e gs ⟨key, false, none, e.ownReads x d.length⟩) false = false →
    t0.writeReads i e gs (partialGranules x d.length) [] = (v, .ok) → v.mapsAtHand gs x d.length →
    ∃ t y : State, exec (.rdmaWrite p rkey va d) s = .next (t.runReady.pfcCheck p.src.port p.src.sub) ∧ v.changedTo t x d ∧
      t.dir = v.dir ∧ t.xlt = v.xlt ∧ t = y.finish key r (mkAns r.op Status.ok) e.mirroredMode (setOfIndex i)) ∧
  (∀ (p : QPkt) (rkey : BitVec 32) (va : BitVec 64) (a b : Word64),
    ∀ row ∈ ([(.atomicCmpswap p rkey va a b, .cas ⟨rkey, 1, va⟩ (leBytes 8 a.toNat) (leBytes 8 b.toNat)),
      (.atomicFetchadd p rkey va a, .fetchAdd ⟨rkey, 1, va⟩ (leBytes 8 a.toNat))] : List (Instr × ReqOp)),
    ∀ (s u v t0 : State) (r : Req) (key : Nat), va.toNat % 8 = 0 →
    s.rdmaRuns p 64 1 row.2 0 ⟨rkey.toNat, va.toNat, 8, 1, 0, 4⟩ true = some (u, r) →
    let i := rkey.toNat % 2 ^ 18
    let e := (u.extent i).getD emptyExtent
    let x := e.addr va.toNat
    let gs := granulesOf x 8
    u.opDone.newKey = (key, t0) → e.prot ≠ 3 → u.dirHolds r e (linesOf x 8) = false → u.opDone.firstShut e gs = none →
    t0.writeShort gs (t0.writeNeeds i e gs ⟨key, true, none, gs⟩) false = false →
    t0.writeReads i e gs gs [] none true = (v, .ok) → v.mapsAtHand gs x 8 →
    let old := v.ecc.mem.read x 8
    let ans := mkAns row.2 Status.ok 0 old
    (∀ new, row.2.newValue old = some new → ∃ t z : State,
      exec row.1 s = .next (t.runReady.pfcCheck p.src.port p.src.sub) ∧ v.changedTo t x new ∧ t.dir = v.dir ∧
      t.xlt = v.xlt ∧ t = z.finish key r ans e.mirroredMode (setOfIndex i)) ∧
    (row.2.newValue old = none → exec row.1 s = .next ((((v.fillLines i e (linesOf x 8) gs).mirrorRange i e x 0 1 r ans
      key).finish key r ans e.mirroredMode (setOfIndex i)).runReady.pfcCheck p.src.port p.src.sub))) ∧
  (∀ (q : QPkt) (p : Pkt) (op : ReqOp) (s t : State) (x : Qp),
    let len := (op.wire p.tail).length
    s.roceTakes q (64 + sendLen p len) (fun x => s.overCredit x.conn len) = some (t, x) →
    let n := q.qpn.toNat
    let pk := packetCount (s.mtuOf n) (sendLen p len)
    (∀ c : Conn, 32 + len ≤ 8192 → p.ver = 1 → p.len.toNat = len → t.conn x.conn = some c → c.encOk p = true → p.e2e = false →
      ∃ (u : State) (r : Req), exec (.send q p true op) s = .next ((u.admitReq c.setup r).runReady.pfcCheck q.src.port q.src.sub) ∧
        r.via = .send n ∧ r.op = op.trim ∧ r.conn = x.conn % 2 ^ 16 ∧ r.holder = c.holder ∧ r.tenant = c.tenant ∧ r.seq = p.seq ∧
        r.reqId = p.reqId ∧ r.src = q.src ∧ u.sends (.roceAck q.src n ((q.psn.toNat + pk - 1) % 2 ^ 24)) ∧
        (∃ y, u.qp n = some y ∧ y.rxPsn = (x.rxPsn + pk) % 2 ^ 24) ∧ u.ecc = s.ecc) ∧
    (32 + len ≤ 8192 → p.ver = 1 → p.len.toNat = len → t.conn x.conn = none →
      ∃ u : State, exec (.send q p true op) s = .next (u.runReady.pfcCheck q.src.port q.src.sub) ∧
        u.sends (.roceAck q.src n ((q.psn.toNat + pk - 1) % 2 ^ 24)) ∧ u.ecc = s.ecc) ∧
    (∀ isReq : Bool, isReq = false ∨ 8192 < 32 + len ∨ p.ver ≠ 1 ∨ p.len.toNat ≠ len →
      ∃ u : State, exec (.send q p isReq op) s = .next (u.runReady.pfcCheck q.src.port q.src.sub) ∧
        u.sends (.roceNak q.src n q.psn.toNat 2) ∧ (∃ y, u.qp n = some y ∧ y.error = true) ∧ u.ecc = s.ecc)) ∧
  (∀ (n : BitVec 24) (s : State) (q : Qp), s.qp n.toNat = some q →
    (s.subOpen q.port q.sub = false → exec (.cnpReceive n) s = .next s ∧
      ∀ (psn : BitVec 24) (kind : Nat), exec (.rocev2Ack n psn kind) s = .next s) ∧
    (s.subOpen q.port q.sub = true → (∀ t, q.cutAt = some t → t + s.fld R.PRT_RCE_CFG_CUT_US * 500 ≤ s.now) → ∃ t : State,
      exec (.cnpReceive n) s = .next t ∧ t = { s with prt := t.prt } ∧ t.qp n.toNat = some { q with
        rate := max 1000 (q.rate / 2), cutAt := some s.now, riseAt := s.now + s.fld R.PRT_RCE_CFG_RISE_US * 500 }) ∧
    (∀ t, q.cutAt = some t → s.now < t + s.fld R.PRT_RCE_CFG_CUT_US * 500 → exec (.cnpReceive n) s = .next s) ∧
    (∃ (t : State) (y : Qp), exec (.rateRise n) s = .next t ∧ t = { s with prt := t.prt, now := max s.now q.riseAt } ∧
      t.qp n.toNat = some y ∧ y.rate ≤ s.lineRate q.port ∧
      (q.rate ≤ s.lineRate q.port → q.rate ≤ y.rate)) ∧
    (∀ psn : BitVec 24, s.subOpen q.port q.sub = true → q.error = false → ∃ t : State, exec (.rocev2Ack n psn 0) s = .next t ∧ t = { s with prt := t.prt } ∧
      t.qp n.toNat = some { q with
        unacked := q.unacked.filter fun m => !psnLe m.1 psn.toNat, tried := 0, rnrTried := 0, rnrWait := false }) ∧
    (q.error = false → q.unacked ≠ [] → q.tried < q.retries → ∃ t : State, exec (.localAckTimeout n) s = .next t ∧
      t.qp n.toNat = some { q with tried := q.tried + 1 } ∧ (∀ m ∈ q.unacked, match m.2 with | .send .. => t.sends m.2 | _ => True) ∧ t.ecc = s.ecc) ∧
    (q.error = false → q.unacked ≠ [] → q.retries ≤ q.tried → ∃ t : State, exec (.localAckTimeout n) s = .next t ∧
      t.qp n.toNat = some { q with error := true, unacked := [], rnrWait := false }) ∧
    (q.error = false → q.rnrWait = true → q.rnrTried < q.rnr → ∃ t : State, exec (.rnrTimerExpire n) s = .next t ∧
      t.qp n.toNat = some { q with rnrTried := q.rnrTried + 1, rnrWait := false } ∧ (∀ m ∈ q.unacked, match m.2 with | .send .. => t.sends m.2 | _ => True) ∧
      t.ecc = s.ecc))

/-! ### Ring links and routing (chapter 13) -/

/-- R278 to R285, R287 to R291, R302: on an UP link a good cell with the expected SEQ is accepted, and the first other one is
answered with a NAK; a head cell for another device waits for its next hop, its cells before its tail; a LINK cell's ACK frees what it covers, its freed counts are taken over, and its request retrains or
resets the link, of two equal requests that of the end with the higher station ID leading; errors beyond the limits of 10 ms take it DOWN. NAKs, LINK cells and replays are sent at their times, the oldest unacknowledged cell first; after
2 × REPLAY_MAX replays the link goes DOWN. Training from DOWN sends this end's identity and ends UP, with the neighbour's checked, or MISCABLED; retraining
keeps the cells and replays them within 12 µs; failing drops them, shows LINK_UP 0 and raises LINK_DOWN; a retrain or reset that this end
starts is asked for in a LINK cell. -/
def Obligations.LinksFollowTheirStates : Prop :=
  (∀ (n : Nat) (c : Cell) (s : State),
    let l := s.link n
    let u := s.fecIn n c.fec
    (8 < n ∨ l.st ≠ 2 → exec (.cellReceive n c) s = .next s) ∧
    (n ≤ 8 → l.st = 2 → u.pcsFails n = true → ∃ t : State, exec (.cellReceive n c) s = .next t ∧ (t.link n).st = 0 ∧
      (t.link n).replay = [] ∧ (t.word (0x31020 + 0x1000 * n)).getLsbD 8 = true) ∧
    (n ≤ 8 → l.st = 2 → u.pcsFails n = false → l.ctl = [] → c.good = true → c.seq = l.rxSeq →
      ∃ t : State, exec (.cellReceive n c) s = .next t ∧ t = { s with net := t.net, regs := t.regs } ∧
        (t.link n).st = 2 ∧ (t.link n).rxSeq = (l.rxSeq + 1) % 4096 ∧ (t.link n).nakAt = none ∧
        (c.vc = 8 → mgetD (t.link n).freed 8 0 = mgetD l.freed 8 0 + 1) ∧
        (c.vc < 8 → c.head = true → c.tail = true → (routeHdr c.payload).dst = s.devIndex → t.net.inbox = s.net.inbox ++
          [(n, c.vc, { routeHdr c.payload with cells := 0 }, (c.payload.drop 16).take (routeHdr c.payload).bytes)]) ∧
        (∀ d v, n < 8 → c.vc < 8 → c.head = true → (routeHdr c.payload).dst ≠ s.devIndex → s.passing n c.vc = none →
          s.nextHop s.devIndex (routeHdr c.payload).dst (routeHdr c.payload).cls ((s.dirOf n).map fun d => (oppDir d, c.vc)) =
            some (d, v) →
          t.net.queue = s.net.queue ++ [⟨s.portOfDir d, v, n, c.vc, routeHdr c.payload, [c.payload],
            if c.tail then 0 else max 1 (routeHdr c.payload).cells, false⟩])) ∧
    (n ≤ 8 → l.st = 2 → u.pcsFails n = false → c.good = false ∨ c.seq ≠ l.rxSeq →
      (l.nakAt.isSome = true →
        exec (.cellReceive n c) s = .next (if c.good then u else u.count (R.LNK_ERR_CRC_ERR.at (0x1000 * n)))) ∧
      (l.nakAt = none → ∃ t : State, exec (.cellReceive n c) s = .next t ∧
        t.out = s.out ++ [.linkCell n (s.linkCell n true)] ∧
        (t.link n).rxSeq = l.rxSeq ∧ (t.link n).nakAt = some s.now ∧ t.ecc = s.ecc))) ∧
  (∀ (n : Nat) (c : LinkCell) (s : State), n ≤ 8 →
    let l := s.link n
    let u := s.fecIn n c.fec
    (l.st = 2 → u.pcsFails n = true → ∃ t : State, exec (.linkCellReceive n c) s = .next t ∧ (t.link n).st = 0 ∧
      (t.link n).replay = []) ∧
    ((l.st = 2 → u.pcsFails n = false) →
      (c.good = false → exec (.linkCellReceive n c) s = .next (u.count (R.LNK_ERR_CRC_ERR.at (0x1000 * n)))) ∧
      (c.good = true → l.st = 2 → l.ctl = [] → c.nak = false → c.req = 0 →
        ∃ t : State, exec (.linkCellReceive n c) s = .next t ∧ t = { s with net := t.net, regs := t.regs } ∧ (t.link n).st = 2 ∧
          (t.link n).replay = (if (l.replay.any fun x => x.seq = c.ack % 4096) then
            (l.replay.dropWhile fun x => x.seq ≠ c.ack % 4096).drop 1 else l.replay) ∧
          ∀ v f, v < 9 → c.freed[v]? = some f →
            mgetD (t.link n).known v 0 = newestCount (mgetD l.known v 0) f 16) ∧
      (c.good = true → l.st = 2 → l.ctl = [] → c.nak = false → c.req = 1 →
        ∃ t : State, exec (.linkCellReceive n c) s = .next t ∧ (t.link n).st = 3 ∧ t.out = s.out ∧
          (t.word (0x31020 + 0x1000 * n)).getLsbD 9 = true) ∧
      (c.good = true → c.req = 1 → l.st = 3 → exec (.linkCellReceive n c) s = .next
        (if l.req = 1 ∧ (Config.station n).toNat < c.station.toNat then u.setLink n { u.link n with req := 0 } else u)) ∧
      (c.good = true → c.req = 2 → s.linkOn n = true → ¬(l.st = 1 ∧ l.req = 2) → (l.st = 2 → c.nak = false) →
        ∃ t : State, exec (.linkCellReceive n c) s = .next t ∧ (t.link n).st = 1 ∧ (t.link n).replay = [] ∧
          (t.link n).stepDown = 0 ∧ (t.link n).stepSpeed = 0 ∧ (t.link n).req = 0 ∧ .linkCell n (t.linkCell n false) ∈ t.out) ∧
      (c.good = true → c.req = 2 → s.linkOn n = false → l.st = 3 ∨ l.st = 2 ∧ c.nak = false →
        ∃ t : State, exec (.linkCellReceive n c) s = .next t ∧ (t.link n).st = 0 ∧ (t.link n).replay = []) ∧
      (c.good = true → c.req = 2 → l.st = 1 → l.req = 2 →
        ((Config.station n).toNat < c.station.toNat → ∃ t : State, exec (.linkCellReceive n c) s = .next t ∧
          (t.link n).st = 1 ∧ (t.link n).req = 0) ∧
        (c.station.toNat ≤ (Config.station n).toNat → exec (.linkCellReceive n c) s = .next u)))) ∧
  (∀ (n : Nat) (s : State),
    let l := s.link n
    (l.st ≠ 2 ∨ l.nakAt = none → exec (.nakRepeat n) s = .next s) ∧
    (∀ t0, l.st = 2 → l.nakAt = some t0 → ∃ t : State, exec (.nakRepeat n) s = .next t ∧
      t.out = s.out ++ [.linkCell n (s.linkCell n true)] ∧
      t.now = max s.now (t0 + s.ackTimeoutOf n) ∧ (t.link n).nakAt = some t.now ∧ t.regs = s.regs) ∧
    (l.st ≠ 2 → l.st ≠ 1 → exec (.linkCellPeriodic n) s = .next s) ∧
    (l.st = 2 ∨ l.st = 1 → ∃ t : State, exec (.linkCellPeriodic n) s = .next t ∧
      t.out = s.out ++ [.linkCell n (s.linkCell n l.nakAt.isSome)] ∧
      t.now = max s.now (l.lastLink + s.fld (R.LNK_CFG_LINK_PERIOD_US.at (0x1000 * n)) * 500) ∧
      (t.link n).lastLink = t.now ∧ t.regs = s.regs)) ∧
  (∀ (n : Nat) (nak : Bool) (s : State),
    let c := s.linkCell n nak
    c.word = 15 ∧ c.ack = (s.link n).ack ∧ c.nak = nak ∧ c.freed = (s.link n).freedAll ∧ c.credit = s.ownCredits n ∧
    (c.offerWidth, c.offerSpeed) = s.offer n ∧ c.station = Config.station n ∧ c.device = s.devIndex ∧ c.domain = s.fld R.RTE_CFG_DOMAIN ∧
    (∀ d, s.dirOf n = some d → c.dir = d) ∧ c.req = (if (s.link n).st = 1 then 0 else (s.link n).req) ∧ c.good = true) ∧
  (∀ (n : Nat) (s : State), n ≤ 8 →
    let l := s.link n
    let max2 := 2 * s.fld (R.LNK_CFG_REPLAY_MAX.at (0x1000 * n))
    let again := fun (t : State) (cs : List TxCell) => ∃ rets : List (Bool × Nat), rets.length = cs.length ∧
      (l.ackTold ≠ l.rxSeq → rets.head? = some (false, l.ack)) ∧
      t.out = s.out ++ (cs.zip rets).map fun x => .cell n (x.1.out x.2.1 x.2.2) true
    (l.st ≠ 2 ∨ l.replay = [] → exec (.replayTimeout n) s = .next s) ∧
    (∀ c r, l.st = 2 → l.replay = c :: r →
      (c.tries + 1 < max2 → ∃ t : State, exec (.replayTimeout n) s = .next t ∧ again t ({ c with tries := c.tries + 1 } :: r) ∧
        t.now = max s.now (l.ackAt + s.ackTimeoutOf n) ∧ (t.link n).replay = { c with tries := c.tries + 1 } :: r) ∧
      (max2 ≤ c.tries + 1 → ∃ t : State, exec (.replayTimeout n) s = .next t ∧ (t.link n).st = 0 ∧ (t.link n).replay = [])) ∧
    (∀ c r, l.st = 2 → l.replay = c :: r → 2 * c.tries = max2 → ∃ t : State, exec (.fastRetrain n) s = .next t ∧
      (t.link n).st = 3 ∧ (t.link n).req = 1 ∧ (t.link n).replay = l.replay ∧
      (t.word (0x31020 + 0x1000 * n)).getLsbD 9 = true ∧ t.out = s.out ++ [.linkCell n (t.linkCell n l.nakAt.isSome)]) ∧
    (l.replay = [] ∨ (∃ c r, l.replay = c :: r ∧ 2 * c.tries ≠ max2) → exec (.fastRetrain n) s = .next s) ∧
    (l.st ≠ 3 → exec (.fastRetrainComplete n) s = .next s) ∧
    (l.st = 3 → s.now ≤ l.since + 12 * 500 → l.replay = [] → l.ctl = [] → ∃ t : State, exec (.fastRetrainComplete n) s = .next t ∧
      t = { s with net := t.net, regs := t.regs } ∧ t.link n = { l with st := 2, req := 0 } ∧
      (n < 8 → t.fld (R.PRT_STATUS_LINK_UP.at (0x1000 * n)) = 1)) ∧
    (∀ c r, l.st = 3 → s.now ≤ l.since + 12 * 500 → l.ctl = [] → l.replay = c :: r → c.tries + 1 < max2 →
      ∃ t : State, exec (.fastRetrainComplete n) s = .next t ∧ (t.link n).st = 2 ∧ again t ({ c with tries := c.tries + 1 } :: r)) ∧
    (l.st = 3 → l.since + 12 * 500 < s.now → ∃ t : State, exec (.fastRetrainComplete n) s = .next t ∧ (t.link n).st = 0 ∧
      (t.link n).replay = []) ∧
    (l.st ≠ 3 → exec (.retrainTimeout n) s = .next s) ∧
    (l.st = 3 → ∃ t : State, exec (.retrainTimeout n) s = .next t ∧ (t.link n).st = 0 ∧ (t.link n).replay = [] ∧
      s.now ≤ t.now ∧ t.now ≤ max s.now (l.since + 12 * 500)) ∧
    (l.st ≠ 2 → exec (.pcsLinkDown n) s = .next s) ∧
    (l.st = 2 → ∃ t : State, exec (.pcsLinkDown n) s = .next t ∧ (t.link n).st = 0 ∧ (t.link n).replay = [] ∧
      (t.link n).rx = [] ∧ t.net.queue =
        (s.net.queue.filter (fun p => p.out ≠ n && !(p.inLink = n && p.left ≠ 0))).map
          (fun p => if p.inLink = n then { p with inVc := 9 } else p) ∧
      (t.word (0x31020 + 0x1000 * n)).getLsbD 8 = true ∧
      (n < 8 → t.fld (R.PRT_STATUS_LINK_UP.at (0x1000 * n)) = 0) ∧ t.ecc = s.ecc)) ∧
  (∀ (n : Nat) (s : State), n ≤ 8 →
    let l := s.link n
    let trains := fun (t : State) => t = { s with net := t.net, now := t.now, out := t.out } ∧
      t.link n = { resetLink with
        st := 1, since := t.now, lastLink := t.now, stepDown := l.stepDown, stepSpeed := l.stepSpeed, req := l.req } ∧
      t.out = s.out ++ [.linkCell n (t.linkCell n false)]
    (l.st ≠ 0 ∨ s.linkOn n = false → exec (.trainingStart n) s = .next s) ∧
    (l.st = 0 → s.linkOn n = true → ∃ t : State, exec (.trainingStart n) s = .next t ∧ trains t ∧
      t.now = if l.since = 0 then s.now else max s.now (l.since + 5000000)) ∧
    (l.st ≠ 4 ∨ s.linkOn n = false → exec (.miscabledRetry n) s = .next s) ∧
    (l.st = 4 → s.linkOn n = true → ∃ t : State, exec (.miscabledRetry n) s = .next t ∧ trains t ∧
      t.now = max s.now (l.since + 50000000)) ∧
    (l.st ≠ 1 → exec (.trainingTimeout n) s = .next s) ∧
    (l.st = 1 → ∃ t : State, exec (.trainingTimeout n) s = .next t ∧ (t.link n).st = 0 ∧
      t.now = max s.now (l.since + 60000000) ∧ t.out = s.out ∧ (t.link n).stepDown =
        if s.fld (R.LNK_CFG_AUTO_DEGRADE.at (0x1000 * n)) = 1 ∧ (s.offer n).1 < 2 then l.stepDown + 1 else l.stepDown) ∧
    ∀ c : LinkCell,
      (l.st ≠ 1 ∨ c.good = false → exec (.trainingComplete n c) s = .next s) ∧
      (l.st = 1 → c.good = true → s.identityOk n c = false → ∃ t : State, exec (.trainingComplete n c) s = .next t ∧
        (t.link n).st = 4 ∧ (t.word (0x31020 + 0x1000 * n)).getLsbD 10 = true ∧ t.out = s.out) ∧
      (l.st = 1 → c.good = true → s.identityOk n c = true → ∃ t : State, exec (.trainingComplete n c) s = .next t ∧
        (t.link n).st = 2 ∧ (t.link n).rxSeq = 0 ∧ (t.link n).stepDown = l.stepDown ∧
        (∀ v, v < 9 → mgetD (t.link n).cred v 0 = c.credit.getD v 0) ∧
        (n < 8 → t.fld (R.PRT_STATUS_LINK_UP.at (0x1000 * n)) = 1))) ∧
  (∀ (src : RegSrc) (n : Nat) (s : State), n ≤ 8 →
    let v := s.storeReg src (0x31108 + 0x1000 * n) 1
    let u := s.storeReg src (0x31108 + 0x1000 * n) 2
    let up := (u.link n).st = 2 ∨ (u.link n).st = 3
    ((v.link n).st ≠ 2 → exec (.lnkCtrlRetrain src n) s = .next v) ∧
    ((v.link n).st = 2 → ∃ t : State, exec (.lnkCtrlRetrain src n) s = .next t ∧ (t.link n).st = 3 ∧ (t.link n).req = 1 ∧
      (t.link n).replay = (v.link n).replay ∧ t.out = v.out ++ [.linkCell n (t.linkCell n (v.link n).nakAt.isSome)]) ∧
    ∃ t : State, exec (.lnkCtrlReset src n) s = .next t ∧ (t.link n).st = (if u.linkOn n then 1 else 0) ∧
      (t.link n).stepDown = 0 ∧ (t.link n).stepSpeed = 0 ∧ (t.link n).req = (if up then 2 else 0) ∧
      (up → ∃ x : LinkCell, .linkCell n x ∈ t.out ∧ x.req = 2) ∧ t.ecc = u.ecc)

/-- R292 to R298, R300, R301, R282, R285, R286: a message that a class reaches enters the queues as packets of at most 4,200 bytes that
together are the message, and one that none reaches is counted as unreachable; on an UP link a cell time goes to the control cells first, then to a
packet in progress, then to the head of a packet whose VC
has credit for all of it; at a link that is not UP a packet is discarded; a whole message is delivered once, and one that stays
incomplete is given up after REASM_US. A newer notice of a device's links is applied, a direction it reports down is out of
use at once and one that is up is used again after UP_HOLD_US; this device repeats its own notice every REFRESH_MS. -/
def Obligations.PacketsAndNoticesCrossTheRing : Prop :=
  (∀ (tn : Option Nat) (dst : Nat) (data : List Byte) (s : State),
    let bad := data = [] ∨ 16 < (packetsOf data).length ∨ dst = s.devIndex ∨ 256 ≤ dst
    (bad → exec (.packetInject tn dst data) s = .next s) ∧
    (¬bad → s.chooseClass tn dst = none → ∃ t : State, exec (.packetInject tn dst data) s = .next t ∧
      t.net.queue = s.net.queue ∧ (t.word 0x1B020).getLsbD 8 = true ∧ t.out = s.out) ∧
    ((packetsOf data).flatMap (fun d => d) = data ∧ ∀ d ∈ packetsOf data, d.length ≤ 4200) ∧
    (¬bad → (s.chooseClass tn dst).isSome = true → ∃ (t : State) (q : List NetPkt), exec (.packetInject tn dst data) s = .next t ∧
      t.net.queue = s.net.queue ++ q ∧ q.length = (packetsOf data).length ∧ t.out = s.out ∧
      t.net.msgId = (s.net.msgId + 1) % 2 ^ 32 ∧ ∀ (i : Nat) (p : NetPkt) (d : List Byte), q[i]? = some p →
        (packetsOf data)[i]? = some d → p.cells = packetCells p.hdr d ∧ p.hdr.bytes = d.length ∧ p.hdr.index = i ∧
        p.hdr.cells = ceilDiv (16 + d.length) 248 - 1 ∧ p.hdr.dst = dst ∧ p.hdr.src = s.devIndex ∧
        p.hdr.msgId = s.net.msgId ∧ p.inLink = 9 ∧ p.left = 0 ∧ p.started = false ∧
        (p.hdr.last = true ↔ i + 1 = (packetsOf data).length))) ∧
  (∀ (n vc : Nat) (s : State), (s.link n).st ≠ 2 →
    (s.net.queue.find? (fun p => p.out = n && p.vc = vc) = none → exec (.packetForward n vc) s = .next s) ∧
    (∀ p, s.net.queue.find? (fun p => p.out = n && p.vc = vc) = some p →
      ∃ t : State, exec (.packetForward n vc) s = .next t ∧ t.net.queue = s.net.queue.erase p ∧
        t.out = s.out ∧ t = { s with net := t.net, regs := t.regs } ∧
        (p.inLink ≤ 8 → p.inVc ≤ 8 → mgetD (t.link p.inLink).freed p.inVc 0 =
          mgetD (s.link p.inLink).freed p.inVc 0 + p.cells.length))) ∧
  (∀ (n vc : Nat) (s : State), (s.link n).st = 2 →
    let l := s.link n
    let w := s.setLink n { l with rot := (l.rot + 1) % 40 }
    (2048 ≤ l.replay.length → exec (.packetForward n vc) s = .next s) ∧
    (∀ b r, l.replay.length < 2048 → l.ctl = b :: r → l.credit 8 ≠ 0 → ∃ (t : State) (k : Bool) (ret : Nat),
      exec (.packetForward n vc) s = .next t ∧ t.net.queue = s.net.queue ∧
      .cell n ((⟨l.txSeq, 8, true, true, b, 0⟩ : TxCell).out k ret) false ∈ t.out) ∧
    (l.replay.length < 2048 → l.ctl = [] ∨ l.credit 8 = 0 →
      (w.nextOut n vc = none → exec (.packetForward n vc) s = .next w) ∧
      (∀ p b r, w.nextOut n vc = some p → p.cells = b :: r →
        let last : Bool := decide (r = [] ∧ p.left = 0)
        ∃ (t : State) (k : Bool) (ret : Nat), exec (.packetForward n vc) s = .next t ∧
          t.net.queue = (if last then s.net.queue.erase p
            else s.net.queue.replace p { p with cells := r, started := true }) ∧
          t.out = s.out ++ [.cell n ((⟨l.txSeq, p.vc, !p.started, last, b, 0⟩ : TxCell).out k ret) false] ∧
          (t.link n).replay = l.replay ++ [⟨l.txSeq, p.vc, !p.started, last, b, 0⟩])) ∧
    (∀ p, w.nextOut n vc = some p → p ∈ s.net.queue ∧ p.out = n ∧
      (p.started = true ∨ (∀ x ∈ s.net.queue, x.out = n → x.started = true → x.cells = [] ∧ x.vc ≠ p.vc) ∧
        p.cells.length + p.left ≤ l.credit p.vc)) ∧
    (∀ p, s.net.queue.find? (fun x => x.out = n && x.started && x.cells ≠ [] && x.vc = vc) = some p → w.nextOut n vc = some p) ∧
    (∀ p ∈ s.net.queue, p.out = n → p.vc < 8 → p.started = false → (∀ x ∈ s.net.queue, x.out = n → x = p) →
      p.cells.length + p.left ≤ l.credit p.vc → w.nextOut n vc = some p)) ∧
  (∀ (n : Nat) (h : RouteHdr) (data : List Byte) (s : State),
    let inn := s.net.inbox.find? fun p => p.1 = n && p.2.2.1 = h && p.2.2.2 = data
    let old := s.net.reasm.find? fun r => r.src = h.src && r.msgId = h.msgId
    (inn = none → exec (.packetArrive n h data) s = .next s) ∧
    (∀ p, inn = some p → old = none → s.net.reasm.length < 4096 → h.last = true → h.index = 0 → h.count = 0 →
      ∃ t : State, exec (.packetArrive n h data) s = .next t ∧ t = { s with net := t.net } ∧
        t.net.inbox = s.net.inbox.erase p ∧ t.net.delivered = s.net.delivered ++ [(h.src, data)] ∧
        t.net.reasm = s.net.reasm) ∧
    (∀ p, inn = some p → old = none → 4096 ≤ s.net.reasm.length → ∃ t : State, exec (.packetArrive n h data) s = .next t ∧
      t.net.inbox = s.net.inbox.erase p ∧ t.net.delivered = s.net.delivered ∧ t.net.reasm = s.net.reasm ∧
      (t.word 0x1B020).getLsbD 10 = true)) ∧
  (∀ (src id : Nat) (s : State),
    let old := s.net.reasm.find? fun r => r.src = src && r.msgId = id
    (old = none → exec (.reasmTimeout src id) s = .next s) ∧
    (∀ r, old = some r → ∃ t : State, exec (.reasmTimeout src id) s = .next t ∧
      t.net = { s.net with reasm := s.net.reasm.erase r } ∧ t.now = max s.now (r.at_ + s.fld R.RTE_CFG_REASM_US * 500) ∧
      t = { s with net := t.net, now := t.now, regs := t.regs })) ∧
  (∀ (n origin seq states : Nat) (s : State),
    ((s.link n).st ≠ 2 → exec (.linkStateNotice n origin seq states) s = .next s) ∧
    (∀ last, mget s.net.seqs origin = some last → (seq + 65536 - last) % 65536 = 0 ∨ 32768 ≤ (seq + 65536 - last) % 65536 →
      exec (.linkStateNotice n origin seq states) s = .next s) ∧
    ((s.link n).st = 2 → (∀ last, mget s.net.seqs origin = some last →
        0 < (seq + 65536 - last) % 65536 ∧ (seq + 65536 - last) % 65536 < 32768) →
      ∃ t : State, exec (.linkStateNotice n origin seq states) s = .next t ∧ mgetD t.net.lsdb origin 0 = states % 16 ∧
        mget t.net.seqs origin = some (seq % 65536) ∧
        (∀ d, d < 4 → states.testBit d = false → (mgetD t.net.usable origin 0).testBit d = false) ∧ t.ecc = s.ecc)) ∧
  (∀ s : State, ∃ t : State, exec .linkStateRefresh s = .next t ∧
    t.now = max s.now (s.net.noticeAt + s.fld R.RTE_CFG_REFRESH_MS * 1000 * 500) ∧ t.net.noticeAt = t.now ∧
    t.net.mySeq = (s.net.mySeq + 1) % 65536 ∧
    ∀ d, d < 4 → s.portOfDir d < 8 → (s.link (s.portOfDir d)).st = 2 → (s.link (s.portOfDir d)).ctl = [] → (s.link (s.portOfDir d)).credit 8 ≠ 0 →
      (s.link (s.portOfDir d)).replay.length < 2048 → ∃ (c : TxCell) (k : Bool) (r : Nat),
        .cell (s.portOfDir d) (c.out k r) false ∈ t.out ∧ c.vc = 8 ∧ c.payload = fitBytes 248
          (leBytes 1 s.devIndex ++ (leBytes 2 ((s.net.mySeq + 1) % 65536)).reverse ++ leBytes 1 s.ownStates)) ∧
  (∀ (device dir : Nat) (s : State),
    (dir < 4 → mget s.net.upAt (4 * device + dir) = none → exec (.linkUpHoldExpire device dir) s = .next s) ∧
    (∀ t0, dir < 4 → mget s.net.upAt (4 * device + dir) = some t0 → ∃ t : State,
      exec (.linkUpHoldExpire device dir) s = .next t ∧ (mgetD t.net.usable device 0).testBit dir = true ∧
      t = { s with net := t.net, now := max s.now (t0 + s.fld R.RTE_CFG_UP_HOLD_US * 500) }) ∧
    (dir = 4 → (s.link 8).st = 2 → s.par.alt = true → ∃ t : State, exec (.linkUpHoldExpire device dir) s = .next t ∧
      t.par.alt = false ∧ (t.word 0x1A020).getLsbD 10 = true ∧ t.net = s.net) ∧
    (dir = 4 → (s.link 8).st ≠ 2 ∨ s.par.alt = false → exec (.linkUpHoldExpire device dir) s = .next s))

/-! ### Lichen pairs (chapter 15) -/

/-- R320 to R338, R356, R266: the pair connection forms over its session and sends HELLO, and a HELLO makes each unheld set
SOLE at its own side or RESYNC at the other; ranges are reserved and released for the partner; a record of the set's term
that follows the last accepted one is applied whole, answered and renews the lease, and a damaged one is not; an answer ends
the records it covers and makes SOLE with a standby HOLDER; a message of a lower term is answered NOT_HOLDER; a mirrored
granule is stored in the copy; ten boundaries without an answer fence the holder and fourteen without a record start the
standby's takeover under the next term, with unprotected extents CLOSED; HANDOVER says why it is refused, or fences and
sends its final record; an unanswered request goes again every 20 µs, three times, and then its peer has failed. -/
def Obligations.PairsKeepTheirSets : Prop :=
  (∀ (ok : Bool) (peer : Nat) (s : State),
    let can := s.paired && s.pairPath && s.domId ≠ 0 && !s.par.formed
    exec (.peerSessionRetry true peer ok) s = exec (.pairConnectionForm ok) s ∧
    (s.domId = 0 ∨ s.par.peers.contains peer = true → exec (.peerSessionRetry false peer ok) s = .next s) ∧
    (s.domId ≠ 0 → s.par.peers.contains peer = false → exec (.peerSessionRetry false peer true) s =
      .next { s with par := { s.par with peers := peer :: s.par.peers } }) ∧
    (can = false → exec (.pairConnectionForm ok) s = .next s) ∧
    (can = true → exec (.pairConnectionForm false) s = .next ((s.count R.SEC_COUNTS_BIND_FAIL).raise 11 9)) ∧
    (can = true → ∃ t : State, exec (.pairConnectionForm true) s = .next t ∧ t.par.formed = true ∧
      t.par.alt = !s.symbiontUp ∧ .hello s.ownHello ∈ t.out ∧ t.ecc = s.ecc)) ∧
  (∀ (h : Hello) (s : State),
    (s.paired = false ∨ s.par.formed = false → exec (.pairHello h) s = .next s) ∧
    (s.paired = true → s.par.formed = true → (s.pset 0).st = 0 → (s.pset 1).st = 0 →
      ∃ t : State, exec (.pairHello h) s = .next t ∧ .hello s.ownHello ∈ t.out ∧ t.par.hello = some h ∧
        ∀ k, k < 2 →
          let st := if k = 0 then h.state0 else h.state1
          let term := if k = 0 then h.term0.toNat else h.term1.toNat
          let theirs := st = 1 ∨ st = 2 ∨ st = 6 ∨ (s.pset k).term < term
          (theirs → (t.pset k).st = 4 ∧ (t.pset k).term = term) ∧
          (¬theirs → (t.pset k).st = (if s.side = k then 1 else 4) ∧ (t.pset k).term = 1))) ∧
  (∀ (op k index start len : Nat) (term : BitVec 32) (s : State),
    (s.paired = false ∨ s.par.formed = false → exec (.pairRange op k term index start len) s = .next s) ∧
    (s.paired = true → s.par.formed = true →
      (op = 0 → s.rangeFree start len = false ∨ s.rangeOffered start len = true →
        exec (.pairRange op k term index start len) s = .next (s.emit (.pairAnswer 0x77 0 0 [xOverlap]))) ∧
      (op = 0 → s.rangeFree start len = true → s.rangeOffered start len = false → s.usedUnits + len ≤ poolUnits →
        exec (.pairRange op k term index start len) s = .next ({ s with par := { s.par with
          ranges := s.par.ranges ++ [(index, start, len)] } } |>.emit (.pairAnswer 0x77 0 0 [xOk]))) ∧
      (op ≠ 0 → ∃ t : State, exec (.pairRange op k term index start len) s = .next t ∧
        t.out = s.out ++ [.pairAnswer 0x77 0 0 [xOk]] ∧ t.par.ranges = s.par.ranges.filter (fun r => r.1 ≠ index) ∧
        ∀ a, start * 65536 ≤ a → a < (start + len) * 65536 → mget t.ecc.mem a = none))) ∧
  (∀ (r : Nat) (s : State), s.xlt.cmd = none →
    exec (.pairRangeAnswer r) s = .next s ∧ exec .xltCmdDone s = .next s.trailDone) ∧
  (∀ (s : State),
    (s.xlt.trail.find? (fun c => c.waitRecord.isNone) = none → s.trailDone = s) ∧
    (∀ c, s.xlt.trail.find? (fun c => c.waitRecord.isNone) = some c → s.trailDone.xlt = { s.xlt with trail := s.xlt.trail.erase c } ∧
      (s.trailDone.word 0x13020).getLsbD 8 = true ∧ s.trailDone.ecc = s.ecc)) ∧
  (∀ (r : Nat) (s : State) (c : XltCmd), s.xlt.cmd = some c →
    (c.waitRange = true → c.op ≠ 1 → exec (.pairRangeAnswer r) s = .next { s with
      par := { s.par with reqs := s.par.reqs.filter fun q => q.kind ≠ .range }
      xlt := { s.xlt with cmd := some { c with waitRange := false } } }) ∧
    (c.waitRange = true → c.op = 1 → r ≠ xOk → r ≠ xOverlap → ∃ t : State, exec (.pairRangeAnswer r) s = .next t ∧
      t.xlt.cmd = none ∧ t.xlt.extents = s.xlt.extents ∧ (t.word 0x13020).getLsbD 8 = true) ∧
    (c.waitRange = true ∨ c.waitRecord.isSome = true → exec .xltCmdDone s = .next s.trailDone) ∧
    (c.waitRange = false → c.waitRecord = none → ∃ t : State, exec .xltCmdDone s = .next t ∧ t.xlt.cmd = none ∧
      t.xlt.extents = s.xlt.extents ∧ (t.word 0x13020).getLsbD 8 = true ∧ t.ecc = s.ecc)) ∧
  (∀ (f : EpochFrag) (s : State), f.set < 2 →
    let k := f.set
    let p := s.pset k
    (s.paired = false ∨ s.par.formed = false → exec (.epoch f) s = .next s) ∧
    (s.paired = true → s.par.formed = true →
      (f.term.toNat < p.term → exec (.epoch f) s =
        .next ((s.count R.PAR_COUNTS_STALE_TERM).emit (.pairAnswer 0x79 Status.notHolder p.term []))) ∧
      (p.st = 4 ∨ p.st = 5 → f.term.toNat = p.term →
        (f.alive % 65536 = p.alive % 65536 → exec (.epoch f) s =
          .next ((if f.frag = f.nfrag then s.aliveReject 1 else s).emit (.pairAnswer 0x79 0 0 [k, p.alive % 65536, p.term]))) ∧
        (f.alive % 65536 = (p.alive + 1) % 65536 → f.nfrag = 0 → f.frag = 0 → p.frags = [] →
          let crc := recordCrc k f.handover f.base f.term.toNat f.epoch f.alive f.entries
          (f.crc.toNat ≠ crc → ∃ t : State, exec (.epoch f) s = .next t ∧ t.xlt = s.xlt ∧ t.par = s.par ∧ t.out = s.out ∧
            (t.word 0x19020).getLsbD 8 = true) ∧
          (∀ i h r, f.crc.toNat = crc → f.handover = false → f.entries = [.grant i h r] →
            ∃ t : State, exec (.epoch f) s = .next t ∧
              t.out = s.out ++ [.pairAnswer 0x79 0 0 [k, (p.alive + 1) % 65536, p.term]] ∧
              (t.pset k).alive = p.alive + 1 ∧ (t.pset k).renewal = s.frame ∧
              t.fld (R.CRC_STAT_LAST_ALIVE.at 0x40) = f.alive % 65536 ∧
              (t.pset k).st = (if p.st = 4 ∧ f.base = false then 5 else p.st) ∧
              mgetD t.xlt.grants (grantKey h i) 0 = r ∧
              (∀ x, x ≠ grantKey h i → mget t.xlt.grants x = mget s.xlt.grants x) ∧ t.ecc = s.ecc))))) ∧
  (∀ (k status alive : Nat) (term : BitVec 32) (s : State), k < 2 → s.pwr.resetAt = none →
    let p := s.pset k
    (status ≠ 0 → status ≠ Status.notHolder → status ≠ Status.conflict →
      exec (.epochAck k status alive term) s = .next s) ∧
    (status = Status.notHolder → p.st ≠ 1 → p.st ≠ 2 → p.st ≠ 3 →
      exec (.epochAck k status alive term) s = .next (s.count R.PAR_COUNTS_STALE_TERM)) ∧
    (status = Status.conflict → ∃ t : State, exec (.epochAck k status alive term) s = .next t ∧ t.pset k = p ∧
      ∀ r ∈ p.unacked, (r.alive + 65536 - alive % 65536) % 65536 < 32768 → s.fragOf k r 0 ∈ t.out) ∧
    (∀ r, status = 0 → p.unacked.find? (fun r => r.alive % 65536 = alive % 65536) = some r → s.parked = [] →
      ∃ t : State, exec (.epochAck k status alive term) s = .next t ∧
        (t.pset k).unacked = p.unacked.filter (fun x => r.alive < x.alive) ∧
        (p.st = 2 → t.pset k = { p with
          renewal := max p.renewal r.frame, unacked := p.unacked.filter (fun x => r.alive < x.alive) }) ∧
        (p.st = 1 → (t.pset k).st = if p.unacked.any (fun x => x.alive ≤ r.alive && !x.base) then 2 else 1) ∧
        (p.st = 3 → (t.pset k).st = if p.unacked.any (fun x => x.alive ≤ r.alive && x.handover) then 5 else 3) ∧
        t.ecc = s.ecc)) ∧
  (∀ (k kind off : Nat) (term : BitVec 32) (data : List Byte) (s : State), k < 2 → s.paired = true → s.par.formed = true →
    (term.toNat < (s.pset k).term → exec (.mirror k kind term off data none) s =
        .next ((s.count R.PAR_COUNTS_STALE_TERM).emit (.pairAnswer 0x7A Status.notHolder (s.pset k).term [])) ∧
      exec (.pairRead k term off 1) s =
        .next ((s.count R.PAR_COUNTS_STALE_TERM).emit (.pairAnswer 0x7B Status.notHolder (s.pset k).term []))) ∧
    (∀ i e, (s.pset k).term ≤ term.toNat → (s.pset k).st = 4 ∨ (s.pset k).st = 5 → off % 64 = 0 → data.length = 64 →
      s.copyAt k off = some (i, e) → s.mapsAtHand [off / 64] off 64 →
      ∃ t : State, exec (.mirror k kind term off data none) s = .next t ∧
        t.out = s.out ++ [.pairAnswer 0x7A 0 0 []] ∧ t.ecc.mem.read off 64 = data ∧
        (∀ b < poolEnd, ¬(off ≤ b ∧ b < off + 64) → t.ecc.mem.byte b = s.ecc.mem.byte b) ∧ t.xlt = s.xlt ∧ t.par = s.par) ∧
    ((s.pset k).term ≤ term.toNat → s.copyAt k (off / 64 * 64) = none →
      exec (.pairRead k term off 1) s = .next (s.emit (.pairData Status.poisoned []))) ∧
    (∀ i e u bs, (s.pset k).term ≤ term.toNat → s.copyAt k (off / 64 * 64) = some (i, e) →
      s.readGranule e (off / 64) [] = (u, .data bs) →
      exec (.pairRead k term off 1) s = .next (u.emit (.pairData 0 bs)))) ∧
  (∀ (key status : Nat) (term : BitVec 32) (data : List Byte) (words : List (List Byte)) (s : State),
    (s.peerReq key = none → exec (.mirrorAck key status term) s = .next s.runReady ∧
      exec (.pairReadAnswer key status data) s = .next s.runReady ∧ exec (.rpUpdateAck key) s = .next s.runReady ∧
      exec (.rpReadAnswer key words) s = .next s.runReady ∧ exec (.peerRetransmit key) s = .next s.runReady) ∧
    (∀ q park put, s.peerReq key = some q →
      (∀ k kd tm o d r, q.kind = .mirror park → q.msg = .mirror k kd tm o d r → status ≠ Status.notHolder →
        exec (.mirrorAck key status term) s = .next (((s.takeReq key).unpark park).mirrorDrain).runReady) ∧
      (q.kind = .read park → exec (.pairReadAnswer key status data) s =
        .next ((s.takeReq key).fetched park (q.off / 64) (if status = 0 then some (fitBytes 64 data, false) else none)).runReady) ∧
      (q.kind = .rpUpdate park put →
        exec (.rpUpdateAck key) s = .next ((s.takeReq key).ringTakes park put).runReady) ∧
      (q.kind = .rpRead park → words.length ≠ 4 →
        exec (.rpReadAnswer key words) s = .next ((s.takeReq key).fetched park (q.off / 64) none).runReady) ∧
      (q.kind = .rpRead park → words.length = 4 → s.fld R.PAR_RPG_RP_EN = 1 → s.parityArea.1 ≤ q.off / 64 →
        q.off / 64 < s.parityArea.1 + s.parityArea.2 → ∃ t : State, exec (.rpReadAnswer key words) s = .next t.runReady ∧
          t.parityWord (q.off / 64) = words.foldl (fun a w => xorBytes a (fitBytes 72 w)) (List.replicate 72 0) ∧
          t.peerReq key = none ∧ t = { s with par := t.par }))) ∧
  (∀ (peer off : Nat) (delta : List Byte) (s : State),
    (∃ t : State, exec (.rpUpdate peer off delta) s = .next t ∧ t.out = s.out ++ [.pairAnswer 0x7C 0 0 []] ∧
      t.parityWord (off / 64) = xorBytes (s.parityWord (off / 64)) (fitBytes 72 delta) ∧
      (∀ g, g ≠ off / 64 → t.parityWord g = s.parityWord g) ∧ t.ecc = s.ecc) ∧
    exec (.rpRead peer off true) s = .next (s.emit (.rpWord 0 (s.parityWord (off / 64)))) ∧
    (s.extentAt (off / 64 * 64) = none →
      exec (.rpRead peer off false) s = .next (s.emit (.rpWord 0 (List.replicate 72 0))))) ∧
  (∀ (key : Nat) (s : State) (q : PeerReq), s.peerReq key = some q →
    (s.par.unsent.contains key = true → exec (.peerRetransmit key) s =
      .next (({ s with now := max s.now (q.sentAt + 10000) } : State).mirrorDrain).runReady) ∧
    (q.tries < 3 → s.par.unsent.contains key = false → (∀ k a, q.kind ≠ .epoch k a) →
      ∃ t : State, exec (.peerRetransmit key) s = .next t.runReady ∧
      t.out = s.out ++ [q.msg] ∧ t.now = max s.now (q.sentAt + 10000) ∧
      t.peerReq key = some { q with tries := q.tries + 1, sentAt := t.now } ∧ t.ecc = s.ecc) ∧
    (3 ≤ q.tries → s.par.unsent.contains key = false → q.peer = partnerPeer → (∀ x ∈ s.par.reqs, x.peer = partnerPeer → x.kind = .hello) → s.xlt.cmd = none →
      ∃ t : State, exec (.peerRetransmit key) s = .next t.runReady ∧ t.par.formed = false ∧ t.par.resync = [] ∧
        ∀ x ∈ t.par.reqs, x.peer ≠ partnerPeer) ∧
    (3 ≤ q.tries → s.par.unsent.contains key = false → q.peer ≠ partnerPeer →
      (∀ x ∈ s.par.reqs, x.peer = q.peer → ∀ park put, x.kind ≠ .rpUpdate park put ∧ x.kind ≠ .rpRead park) →
      ∃ t : State, exec (.peerRetransmit key) s = .next t.runReady ∧ t.par.peers = s.par.peers.filter (· ≠ q.peer) ∧
        (∀ x ∈ t.par.reqs, x.peer ≠ q.peer) ∧ ∀ j, (List.range 5).find? (fun j => s.rpMember j = q.peer) = some j →
          s.fld R.PAR_RPG_RP_EN = 1 → (t.fld R.PAR_RPG_LOST).testBit j = true)) ∧
  (∀ (k : Nat) (s : State), k < 2 →
    let p := s.pset k
    (s.paired = true → p.st = 2 → p.renewal + 10 ≤ s.frame → ∃ t : State, exec (.leaseFence k) s = .next t ∧
      (t.pset k).st = 3 ∧ (t.pset k).filling = false ∧ (t.word 0x1A020).getLsbD 9 = true) ∧
    (s.paired = false ∨ p.st ≠ 2 ∨ s.frame < p.renewal + 10 → exec (.leaseFence k) s = .next s) ∧
    (s.paired = true → p.st = 5 → p.renewal + 14 ≤ s.frame → mwf s.xlt.extents = true → ∃ t : State,
      exec (.takeoverStart k) s = .next t ∧ (t.pset k).st = 6 ∧ (t.pset k).term = nextTerm p.term ∧
      (∀ i e, s.extent i = some e → setOfIndex i = k → e.prot = 0 ∨ e.prot = 1 → s.par.lostExtents.contains i = false →
        t.extent i = some { e with state := .closed, parity := none }) ∧
      (∀ i e, s.extent i = some e → ¬(setOfIndex i = k ∧ (e.prot = 0 ∨ e.prot = 1)) → t.extent i = some e) ∧
      t.ecc = s.ecc) ∧
    (s.paired = false ∨ p.st ≠ 5 ∨ s.frame < p.renewal + 14 → exec (.takeoverStart k) s = .next s) ∧
    (s.taking k = true → ∃ t : State, exec (.takeoverComplete k) s = .next t ∧ (t.word 0x1A020).getLsbD 8 = true ∧
      (t.pset k).holdUntil.isSome = true ∧
      (s.syn.waiters = [] → s.pfx.entries = [] → (t.pset k).st = 1 ∧ (t.pset k).renewal = s.frame)) ∧
    (s.taking k = false → exec (.takeoverComplete k) s = .next s) ∧
    (p.holdUntil = none → exec (.replayHoldExpire k) s = .next s) ∧
    (∀ t0, p.holdUntil = some t0 → ∃ t : State, exec (.replayHoldExpire k) s = .next t ∧ t.now = max s.now t0 ∧
      t.pset k = { p with holdUntil := none } ∧ t.acc.replay = s.acc.replay.map (fun e =>
        if e.partner && e.set = k then { e with partner := false, expires := some t.now } else e) ∧ t.ecc = s.ecc) ∧
    (mgetD s.par.resync k [] = [] → exec (.resyncCopy k) s = .next s) ∧
    (∀ g l, mgetD s.par.resync k [] = g :: l →
      (s.fld R.PWR_STATUS_LEVEL = 8 ∨ s.par.formed = false ∨ s.par.unsent ≠ [] → exec (.resyncCopy k) s = .next s) ∧
      (s.fld R.PWR_STATUS_LEVEL ≠ 8 → s.par.formed = true → s.par.unsent = [] → ∃ t : State, exec (.resyncCopy k) s = .next t ∧
        mgetD t.par.resync k [] = l ∧ (l = [] → (t.word 0x1A020).getLsbD 11 = true))) ∧
    (p.st = 4 → p.renewal + 14 ≤ s.frame → ∃ t : State, exec (.resyncTimeout k) s = .next t ∧ (t.pset k).st = 0 ∧
      (t.pset k).term = 0 ∧ (∀ e ∈ t.xlt.extents, setOfIndex e.1 ≠ k) ∧
      (∀ i, setOfIndex i ≠ k → t.extent i = s.extent i) ∧ t.ecc = s.ecc) ∧
    (p.st ≠ 4 ∨ s.frame < p.renewal + 14 → exec (.resyncTimeout k) s = .next s)) ∧
  (∀ (holder : Nat) (s : State),
    (s.par.heldNotify.find? (fun h => h.1 = holder) = none → exec (.heldNotifyDiscard holder) s = .next s) ∧
    (∀ h, s.par.heldNotify.find? (fun h => h.1 = holder) = some h → ∃ t : State,
      exec (.heldNotifyDiscard holder) s = .next t ∧ t.now = max s.now h.2.1 ∧
      t = { s with now := t.now, par := { s.par with
        heldNotify := s.par.heldNotify.filter fun y => !(y.1 = holder && y.2.1 ≤ t.now) } })) ∧
  (∀ (src : RegSrc) (w : Word64) (s : State),
    let v := s.storeReg src 0x1A110 (w ||| 0x8000000000000000)
    let k := v.fld R.PAR_CTRL_SET
    let bare := v.xlt.extents.any fun e => setOfIndex e.1 = k && e.2.state = .opened && (e.2.prot = 0 || e.2.prot = 1)
    ((v.pset k).st ≠ 2 ∨ v.paired = false → exec (.handover src w) s = .next (v.setFld R.PAR_STATUS_HO_RESULT 1)) ∧
    ((v.pset k).st = 2 → v.paired = true → v.par.formed = false →
      exec (.handover src w) s = .next (v.setFld R.PAR_STATUS_HO_RESULT 3)) ∧
    ((v.pset k).st = 2 → v.paired = true → v.par.formed = true → v.fld R.PAR_CTRL_FORCE ≠ 1 → bare = true →
      exec (.handover src w) s = .next (v.setFld R.PAR_STATUS_HO_RESULT 2)) ∧
    ((v.pset k).st = 2 → v.paired = true → v.par.formed = true → v.fld R.PAR_CTRL_FORCE = 1 ∨ bare = false →
      ∃ t : State, exec (.handover src w) s = .next t ∧ (t.pset k).st = 3 ∧ (t.word 0x1A020).getLsbD 9 = true ∧
        ∃ r ∈ (t.pset k).unacked, r.handover = true ∧ t.fragOf k r 0 ∈ t.out))

/-! ### Keys, consent, sessions and debug (chapter 16) -/

/-- R348 to R361, Tables 16.2 to 16.8: an SPDM message is answered in the responder's order on every transport, KEY_EXCHANGE
opens a session that FINISH completes and END_SESSION or a missed heartbeat ends; a tenant command acts for the tenant of
its session's key and is refused on the management path; KEY_SET admits a tenant under a fresh key, a rotation switches at
its boundary, and its sweep ends with PREVIOUS gone and REKEY_DONE; consents are registered after their verification and
withdrawn; RETIRE empties a tenant; a session binds to the connection of its own holder; debug opens only from LOCKED with
its own key, and closes by time or RELOCK. -/
def Obligations.KeysConsentsAndSessions : Prop :=
  -- SPDM on the management transports
  (∀ tr ∈ ([(.i3c, 1), (.mgmt, 2)] : List (SpdmVia × Nat)), ∀ s : State, s.mgmtUp = true →
    let v := tr.1
    let n := tr.2
    let say := fun (s : State) (b : List Byte) => s.emit (.spdm n (b.getD 1 0).toNat (b.map (·.toNat)))
    exec (.getVersion v) s = .next (say (s.setSpdmAt n 1) [0x12, 4, 0, 0, 0, 1, 0, 0x12]) ∧
    (1 ≤ s.spdmAt n →
      exec (.getCapabilities v) s = .next (say (s.setSpdmAt n (max 2 (s.spdmAt n))) [0x12, 0x61, 0, 0])) ∧
    (2 ≤ s.spdmAt n → exec (.negotiateAlgorithms v) s = .next (say (s.setSpdmAt n 3) [0x12, 0x63, 0, 0])) ∧
    (s.spdmAt n < 1 → exec (.getCapabilities v) s = .next (say s [0x12, 0x7F, 4, 0])) ∧
    (s.spdmAt n < 2 → exec (.negotiateAlgorithms v) s = .next (say s [0x12, 0x7F, 4, 0])) ∧
    (s.spdmAt n < 3 → ∀ (i : Nat) (sg : Bool) (nn : BitVec 256) (x : KeyExArg) (k : BitVec 32) (ok : Bool),
      ∀ row ∈ ([.getDigests v, .getCertificate v i, .challenge v i nn, .getMeasurements v i sg, .keyExchange v x,
        .finish v k ok, .heartbeat v k, .keyUpdate v k, .endSession v k] : List Instr),
        exec row s = .next (say s [0x12, 0x7F, 4, 0])) ∧
    (3 ≤ s.spdmAt n →
      exec (.getDigests v) s = .next (say s [0x12, 1, 0, if s.domId = 0 then 1 else 3]) ∧
      (∀ i, exec (.getCertificate v i) s = .next (say s (if i < 2 then [0x12, 2, BitVec.ofNat 8 i, 0] else [0x12, 0x7F, 1, 0]))) ∧
      (∀ i nn, exec (.challenge v i nn) s = .next (say s (if i < 2 then [0x12, 3, BitVec.ofNat 8 i, 0] else [0x12, 0x7F, 1, 0]))) ∧
      (∀ i sg, 1 ≤ i → i ≤ 5 →
        exec (.getMeasurements v i sg) s = .next (say s.tick ([0x12, 0x60, 0, 0, 1] ++ s.measurement i))) ∧
      (∀ sg, exec (.getMeasurements v 0 sg) s = .next (say s [0x12, 0x60, 5, 0])) ∧
      (∀ x : KeyExArg, x.mutualAuth = true → x.ok = false → exec (.keyExchange v x) s = .next (say s [0x12, 0x7F, 1, 0])) ∧
      (∀ x : KeyExArg, (x.mutualAuth = true → x.ok = true) → s.sec.sessions.length < 1024 →
        ∃ (t : State) (k : Nat), exec (.keyExchange v x) s = .next (say t ([0x12, 0x64, 0, 0] ++ leBytes 4 k)) ∧
          s.session k = none ∧ k < 2 ^ 32 ∧
          t.session k = some ⟨if x.mutualAuth then some x.digest else none, n, 0, false, 0⟩ ∧
          (∀ j, j ≠ k → t.session j = s.session j) ∧ t.ecc = s.ecc) ∧
      (∀ (k : BitVec 32) (x : Session), s.session k.toNat = some x → x.up = false → x.via = n →
        exec (.finish v k true) s = .next (say (s.setSession k.toNat { x with up := true }) [0x12, 0x65, 0, 0]) ∧
        ∃ t : State, exec (.finish v k false) s = .next (say t [0x12, 0x7F, 6, 0]) ∧ t.session k.toNat = none) ∧
      (∀ (k : BitVec 32) (ok : Bool), s.session k.toNat = none →
        exec (.finish v k ok) s = .next (say s [0x12, 0x7F, 2, 0]) ∧ exec (.heartbeat v k) s = .next (say s [0x12, 0x7F, 2, 0]) ∧
        exec (.keyUpdate v k) s = .next (say s [0x12, 0x7F, 2, 0]) ∧
        exec (.endSession v k) s = .next (say s [0x12, 0x7F, 2, 0])) ∧
      (∀ (k : BitVec 32) (x : Session), s.session k.toNat = some x → x.up = true →
        exec (.heartbeat v k) s = .next (say s [0x12, 0x68, 0, 0]) ∧
        exec (.keyUpdate v k) s =
          .next (say (s.setSession k.toNat { x with updates := x.updates + 1 }) [0x12, 0x69, 0, 0]) ∧
        ∃ t : State, exec (.endSession v k) s = .next (say t [0x12, 0x6A, 0, 0]) ∧ t.session k.toNat = none ∧
          (∀ j, j ≠ k.toNat → t.session j = s.session j) ∧ ∀ e ∈ t.prt.conns, e.2.session ≠ some k.toNat))) ∧
  -- SPDM over IPT
  (∀ (p : Pkt) (i : Nat) (sg : Bool) (nn : BitVec 256) (x : KeyExArg) (k : BitVec 32) (ok : Bool),
    ∀ row ∈ ([(.getVersion (.ipt p), .getVersion), (.getCapabilities (.ipt p), .getCapabilities),
        (.negotiateAlgorithms (.ipt p), .negotiateAlgorithms), (.getDigests (.ipt p), .getDigests),
        (.getCertificate (.ipt p) i, .getCertificate i), (.challenge (.ipt p) i nn, .challenge i nn),
        (.getMeasurements (.ipt p) i sg, .getMeasurements i sg), (.keyExchange (.ipt p) x, .keyExchange x),
        (.finish (.ipt p) k ok, .finish k ok), (.heartbeat (.ipt p) k, .heartbeat k), (.keyUpdate (.ipt p) k, .keyUpdate k),
        (.endSession (.ipt p) k, .endSession k)] : List (Instr × SpdmMsg)),
    ∀ (s u : State) (r : Req), s.runs p (.spdm row.2) = some (u, r) →
      exec row.1 s = exec (.spdm p row.2) s ∧
      exec row.1 s = .next (((u.spdmAnswer 0 (16 + r.conn) r.conn row.2).1.respond r (mkAns r.op 0 0
        (u.spdmAnswer 0 (16 + r.conn) r.conn row.2).2)).runReady)) ∧
  (∀ (p : Pkt) (c : BitVec 8) (s u : State) (r : Req), s.runs p (.spdm (.spdm c)) = some (u, r) →
    exec (.spdm p (.spdm c)) s = .next ((u.respond r (mkAns r.op 0 0
      (if u.spdmAt (16 + r.conn) < 3 then [0x12, 0x7F, 4, 0] else [0x12, 0x7F, 7, 0]))).runReady)) ∧
  -- tenant commands
  (∀ (c : TenantCmd) (k : KeyArg) (d : Consent) (id : BitVec 64) (s : State), c.mgmtPath = true → s.mgmtUp = true →
    ∀ row ∈ ([(.keySet c k, 1), (.keyRotate c k, 2), (.keyStatus c, 3), (.consentRegister c d, 0x10),
      (.consentWithdraw c id, 0x11)] : List (Instr × Nat)),
      exec row.1 s = .next (s.emit (.spdm 2 row.2 [0xC0, row.2, Status.noRights, 0, 0, 0, 0, 0]))) ∧
  (∀ (c : TenantCmd) (k : KeyArg) (s u : State) (r : Req) (x : Session) (t : Nat), c.mgmtPath = false →
    u.liveSession c.session.toNat = some x → u.sessionTenant x = some t →
    (s.runs c.pkt (.spdm (.keySet c.session k)) = some (u, r) →
      (KeyUsable k = false → exec (.keySet c k) s =
        .next (((u.count R.SEC_COUNTS_UNWRAP_FAIL).tenantAns r 1 Status.noRights).runReady)) ∧
      (KeyUsable k = true → (u.tenant t).st ≠ 1 → exec (.keySet c k) s = .next ((u.tenantAns r 1 Status.conflict).runReady)) ∧
      (KeyUsable k = true → (u.tenant t).st = 1 → ∃ v : State,
        exec (.keySet c k) s = .next ((v.tenantAns r 1 0 0 [0]).runReady) ∧ v.admitted t = true ∧ (v.tenant t).curGen = 0 ∧
        (v.tenant t).prev = none ∧ (v.tenant t).cur = u.acc.nextKey ∧ (∀ j, j ≠ t → v.tenant j = u.tenant j) ∧
        v.ecc = u.ecc)) ∧
    (s.runs c.pkt (.spdm (.keyRotate c.session k)) = some (u, r) →
      ((u.tenant t).st ≠ 2 → exec (.keyRotate c k) s = .next ((u.tenantAns r 2 Status.conflict).runReady)) ∧
      ((u.tenant t).st = 2 → (u.tenant t).sweep = none → (u.tenant t).switchAt = none → KeyUsable k = true →
        ∃ v : State, exec (.keyRotate c k) s = .next v.runReady ∧ (t, r) ∈ v.sec.rotating ∧ v.qos = u.qos ∧
          v.tenant t = { u.tenant t with switchAt := some (u.frame + 1, u.acc.nextKey) } ∧
          (∀ j, j ≠ t → v.tenant j = u.tenant j))) ∧
    (s.runs c.pkt (.spdm (.keyStatus c.session)) = some (u, r) →
      exec (.keyStatus c) s = .next ((u.tenantAns r 3 0 0
        ([BitVec.ofNat 8 (u.tenant t).st, BitVec.ofNat 8 (u.tenant t).curGen, if (u.tenant t).prev.isSome then 1 else 0] ++
          List.replicate 5 0 ++ leBytes 8 (if (u.tenant t).sweep.isSome then u.sweepLeft t else 0))).runReady))) ∧
  (∀ (c : TenantCmd) (d : Consent) (id : BitVec 64) (s u : State) (r : Req) (x : Session) (t : Nat), c.mgmtPath = false →
    u.liveSession c.session.toNat = some x → u.sessionTenant x = some t →
    (s.runs c.pkt (.spdm (.consentRegister c.session d)) = some (u, r) →
      (u.consentOk t d = true → ∃ v : State, exec (.consentRegister c d) s = .next v.runReady ∧
        v.sec.verifying = u.sec.verifying ++ [(u.acc.nextKey, r, d)] ∧ v.sec.consents = u.sec.consents ∧ v.qos = u.qos) ∧
      (u.consentOk t d = false → exec (.consentRegister c d) s = .next
        ((((u.count R.SEC_COUNTS_CONSENT_FAIL).raise 11 11).tenantAns r 0x10 Status.noRights).runReady))) ∧
    (s.runs c.pkt (.spdm (.consentWithdraw c.session id)) = some (u, r) → u.seq.calls = [] →
      exec (.consentWithdraw c id) s = .next ((({ u with sec := { u.sec with
        consents := u.sec.consents.filter fun c => !(c.grantor = t && c.consentId = id) } } : State).tenantAns r 0x11 0).runReady))) ∧
  (∀ (key : Nat) (s : State), s.sec.verifying.find? (fun v => v.1 = key) = none → exec (.consentVerifyDone key) s = .next s) ∧
  (∀ (key : Nat) (s : State) (v : Nat × Req × Consent), s.sec.verifying.find? (fun v => v.1 = key) = some v →
    let u : State := { s with sec := { s.sec with verifying := s.sec.verifying.filter fun v => v.1 ≠ key } }
    let good := v.2.2.sigOk && s.consentOk v.2.2.grantor v.2.2
    (good = true → exec (.consentVerifyDone key) s = .next
      (({ u with sec := { u.sec with consents := s.sec.consents ++ [v.2.2] } } : State).tenantAns v.2.1 0x10 0)) ∧
    (good = false → exec (.consentVerifyDone key) s = .next
      (((u.count R.SEC_COUNTS_CONSENT_FAIL).raise 11 11).tenantAns v.2.1 0x10 Status.noRights))) ∧
  -- rotation and sweep
  (∀ s : State, s.sec.rotating = [] → ∃ u : State, exec .keyRotationEffect s = .next u ∧ u = { s with sec := u.sec } ∧
    ∀ t, (∀ f n, (s.tenant t).switchAt = some (f, n) → f ≤ s.frame → u.tenant t = { s.tenant t with
        cur := n, curGen := ((s.tenant t).curGen + 1) % 4, prev := some ((s.tenant t).cur, (s.tenant t).curGen)
        switchAt := none, sweep := some [], rotations := (s.tenant t).rotations + 1 }) ∧
      ((s.tenant t).switchAt = none ∨ (∃ f n, (s.tenant t).switchAt = some (f, n) ∧ s.frame < f) →
        u.tenant t = s.tenant t)) ∧
  (∀ (t : Nat) (s : State),
    ((s.tenant t).sweep = none ∨ s.fld R.PWR_STATUS_LEVEL = 8 → exec (.rekeySweep t) s = .next s) ∧
    (∀ ptrs, (s.tenant t).sweep = some ptrs → s.fld R.PWR_STATUS_LEVEL ≠ 8 →
      let due := max s.now (ceilDiv s.sec.rekeyAt 2000)
      let left := fun (g : Nat) => mgetD ptrs (pcOf (g * 64)) 0 ≤ g && s.sweepable g
      let placed := fun (g : Nat) => mgetD ptrs (pcOf (g * 64)) 0 ≤ g && s.sweepable g &&
        (s.ecc.remap.any (fun x => x.1 = g) || (s.rekeyPlaces g due).isSome)
      let more := s.sweepNext t fun g => !s.pcRetired (pcOf (g * 64))
      (∀ g, s.sweepNext t placed = some g → ∃ u : State, exec (.rekeySweep t) s = .next u ∧
        (u.tenant t).sweep = some (mset ptrs (pcOf (g * 64)) (g + 1)) ∧ u.now = due ∧ u.xlt.extents = s.xlt.extents) ∧
      (s.sweepNext t placed = none → (s.sweepNext t left).isSome = true → exec (.rekeySweep t) s = .next s) ∧
      (s.sweepNext t placed = none → s.sweepNext t left = none → more.isSome = true →
        exec (.rekeySweep t) s = .next (s.setTenant t { s.tenant t with sweep := some [] })) ∧
      (s.sweepNext t placed = none → s.sweepNext t left = none → more = none →
        ∃ u : State, exec (.rekeySweep t) s = .next u ∧ u.tenant t = { s.tenant t with sweep := none, prev := none } ∧
          (u.word 0xB020).getLsbD 8 = true ∧ u.ecc = s.ecc))) ∧
  -- register commands of SEC
  (∀ (src : RegSrc) (t : Nat) (w : Word64) (s : State), t < 64 →
    let w1 := w ||| BitVec.ofNat 64 (2 ^ 61)
    let w2 := w ||| BitVec.ofNat 64 (2 ^ 62)
    let v := s.storeReg src (0xB400 + 0x10 * t) w1
    let u := s.storeReg src (0xB400 + 0x10 * t) w2
    (w.getLsbD 62 = false → v.fld (R.SEC_TCFG_AUTOKEY.at (0x10 * t)) = 0 → exec (.secRotate src t w) s =
      .next (recordClamp v 11 (fieldNo (R.SEC_TCFG_ROTATE.at (0x10 * t))) kState (srcCode src) w1 0)) ∧
    (w.getLsbD 62 = false → v.fld (R.SEC_TCFG_AUTOKEY.at (0x10 * t)) = 1 → (v.tenant t).sweep = none →
      (v.tenant t).switchAt = none → (v.tenant t).st = 2 → ∃ x : State, exec (.secRotate src t w) s = .next x ∧
        x.tenant t = { v.tenant t with switchAt := some (v.frame + 1, v.acc.nextKey) } ∧ x.regs = v.regs ∧ x.ecc = v.ecc) ∧
    (w.getLsbD 61 = false → (u.tenant t).st ≠ 2 →
      exec (.secRetire src t w) s = .next (u.setTenant t { u.tenant t with retireResult := 2 })) ∧
    (w.getLsbD 61 = false → (u.tenant t).st = 2 → u.retirable t = false →
      exec (.secRetire src t w) s = .next (u.setTenant t { u.tenant t with retireResult := 1 })) ∧
    (w.getLsbD 61 = false → (u.tenant t).st = 2 → u.retirable t = true → ∃ x : State, exec (.secRetire src t w) s = .next x ∧
      x.tenant t = emptyTenant ∧ x.idOf t = 0 ∧ (∀ c ∈ x.sec.consents, c.caller ≠ t ∧ c.grantor ≠ t) ∧
      (∀ e ∈ x.prt.conns, e.2.tenant ≠ t) ∧ (∀ j, j ≠ t → x.tenant j = u.tenant j) ∧ x.ecc = u.ecc)) ∧
  -- sessions and debug
  (∀ (p : Pkt) (n : BitVec 32) (s u : State) (r : Req), s.runs p (.sessionBind n) = some (u, r) →
    let want := if u.holderPriv r.holder then u.opId else u.idOf r.tenant
    let ok := match u.liveSession n.toNat with | some x => x.digest = some want && want ≠ 0 | none => false
    (∀ x, ok = true → u.conn r.conn = some x → x.setup = false → exec (.sessionBind p n) s =
      .next (((u.setConn r.conn { x with session := some n.toNat, setup := false, txPn := 1, rxHigh := 0, rxSeen := [] }).respond
        r (mkAns r.op 0)).runReady)) ∧
    (ok = false → exec (.sessionBind p n) s = .next
      ((((((u.count R.SEC_COUNTS_BIND_FAIL).raise 11 9).unqueueConn r.conn).refuse r Status.noRights).sayClose r.conn).removeConn
        r.conn).runReady)) ∧
  (∀ (n : BitVec 32) (s : State),
    (s.liveSession n.toNat = none → exec (.heartbeatMiss n) s = .next s) ∧
    (∀ x, s.liveSession n.toNat = some x → ∃ t : State, exec (.heartbeatMiss n) s = .next t ∧ t.session n.toNat = none ∧
      (∀ e ∈ t.prt.conns, e.2.session ≠ some n.toNat) ∧ t.ecc = s.ecc)) ∧
  (∀ (key : BitVec 384) (sig : Bool) (s : State),
    let u : State := { s with sec := { s.sec with nonces := s.sec.nonces + 1 } }
    (s.sec.debug ≠ 1 → sig = true → key = s.dbgId → exec (.debugUnlock key sig) s = .next u) ∧
    (¬(sig = true ∧ key = s.dbgId) → exec (.debugUnlock key sig) s = .next (u.count R.SEC_COUNTS_UNLOCK_FAIL)) ∧
    (s.sec.debug = 1 → sig = true → key = s.dbgId → ∃ t : State, exec (.debugUnlock key sig) s = .next t ∧ t.sec.debug = 2 ∧
      t.sec.unlocks = s.sec.unlocks + 1 ∧ (t.word 0xB020).getLsbD 10 = true ∧
      t.sec.openUntil = s.now + s.fld R.SEC_CFG_DBG_MIN * minuteCycles)) ∧
  (∀ (src : RegSrc) (s : State),
    (s.sec.debug ≠ 2 → exec .debugTimeout s = .next s) ∧
    (s.sec.debug = 2 → ∃ t : State, exec .debugTimeout s = .next t ∧ t.sec.debug = 1 ∧ t.now = max s.now s.sec.openUntil ∧
      (t.word 0xB020).getLsbD 10 = true) ∧
    let v := s.storeReg src 0xB118 1
    (v.sec.debug ≠ 2 → exec (.relock src) s = .next v) ∧
    (v.sec.debug = 2 → ∃ t : State, exec (.relock src) s = .next t ∧ t.sec.debug = 1 ∧ (t.word 0xB020).getLsbD 10 = true))

/-! ### Lumyan (chapter 17) -/

/-- R366 to R376, R379, R392: a kick restarts a core's watchdog, a period without one enters stage 1 and the next resets the
device; the event controller delivers or offers the deliverable source of the highest PRIO, which becomes active until its
EOI and starts its group's hold-off; nothing is delivered while the gate is closed; a software source is set; a core in WFI
resumes for an enabled pending source. A sample stores every reading, a critical point forces level 8 and one of 125 °C turns
every rail off; PLDM reads back the samples; an uncorrectable error of management memory is counted, raised and logged;
UART bytes are taken in MANUFACTURE and RMA alone. -/
def Obligations.WatchdogsEventsAndSensors : Prop :=
  (∀ (src : RegSrc) (c : Nat) (s : State), c < 4 →
    let v := s.storeReg src (0x3110 + 8 * c) (s.word (0x3110 + 8 * c) ||| BitVec.ofNat 64 (2 ^ 63))
    (∃ t : State, exec (.wdtKick src c) s = .next t ∧ t = { v with lmc := t.lmc, regs := t.regs } ∧
      mget t.lmc.kicked c = some v.now ∧ t.fld (R.LMC_WDT_STAGE.at (8 * c)) = 0) ∧
    (mget s.lmc.kicked c = none → exec (.wdtExpire c) s = .next s) ∧
    (∀ t0, mget s.lmc.kicked c = some t0 →
      let e := t0 + s.fld (R.LMC_WDT_PERIOD_MS.at (8 * c)) * 500000
      (s.fld (R.LMC_WDT_STAGE.at (8 * c)) = 0 → ∃ t : State, exec (.wdtExpire c) s = .next t ∧ t.now = max s.now e ∧
        t.fld (R.LMC_WDT_STAGE.at (8 * c)) = 1 ∧ 512 + c ∈ t.lmc.pend ∧ (t.word 0x3020).getLsbD 8 = true ∧
        mget t.lmc.kicked c = some e ∧ t.ecc = s.ecc) ∧
      (s.fld (R.LMC_WDT_STAGE.at (8 * c)) ≠ 0 → ∃ t : State, exec (.wdtExpire c) s = .next t ∧
        State.restarts { s with now := max s.now e } t 4))) ∧
  (∀ (c m : Nat) (s : State),
    (∀ n, s.evcChoose c m = some n → n < 1024 ∧ s.deliverable c n = true ∧ s.srcFld R.EVC_SRC_MODE n = m ∧
      ∀ k, k < 1024 → s.deliverable c k = true → s.srcFld R.EVC_SRC_MODE k = m →
        s.srcFld R.EVC_SRC_PRIO k ≤ s.srcFld R.EVC_SRC_PRIO n) ∧
    (s.evcChoose c m = none → ∀ k, k < 1024 → s.srcFld R.EVC_SRC_MODE k = m → s.deliverable c k = false) ∧
    (s.fld R.EVC_GATE_CLOSED ≠ 0 → s.evcChoose c m = none)) ∧
  (∀ (c : Nat) (s : State), c < 4 →
    let takes := s.coreSt c = 1 ∧ mgetD s.lmc.mie c 1 = 1 ∧ s.coreFld R.EVC_CORE_MASK c ≠ 1
    (¬takes ∨ s.evcChoose c 0 = none → exec (.evcNativeDelivery c) s = .next s) ∧
    (∀ n, takes → s.evcChoose c 0 = some n → ∃ t : State, exec (.evcNativeDelivery c) s = .next t ∧
      t.out = s.out ++ [.trap c n (s.coreFld R.EVC_CORE_VBASE c * 16 + 16 * n)] ∧ t.evcActive n = true ∧
      t.lmc.pend = s.lmc.pend.erase n ∧ t.deliverable c n = false ∧ mget t.lmc.holdoff (s.srcFld R.EVC_SRC_GROUP n) =
        some (s.now + 5 * s.fld (R.EVC_HOLDOFF_UNITS.at (8 * s.srcFld R.EVC_SRC_GROUP n)))) ∧
    (s.evcChoose c 1 = none → ∀ n, exec (.evcClaim (.core n) c) s = .next (s.emit (.busRead (.core n) (0x4208 + 0x20 * c) 0))) ∧
    (∀ k n, s.evcChoose c 1 = some n → ∃ t : State, exec (.evcClaim (.core k) c) s = .next t ∧
      t.out = s.out ++ [.busRead (.core k) (0x4208 + 0x20 * c) (BitVec.ofNat 64 (n + 2 ^ 63))] ∧ t.evcActive n = true ∧
      t.deliverable c n = false ∧ t.regs = s.regs)) ∧
  (∀ (src : RegSrc) (c : Nat) (w : Word64) (s : State), c < 4 →
    let v := s.storeReg src (0x4210 + 0x20 * c) w
    let n := w.toNat % 1024
    (v.srcFld R.EVC_SRC_CORE n ≠ c → exec (.evcEoi src c w) s = .next v) ∧
    (v.srcFld R.EVC_SRC_CORE n = c → ∃ t : State, exec (.evcEoi src c w) s = .next t ∧ t = { v with lmc := t.lmc } ∧
      t.lmc.act = v.lmc.act.erase n ∧ (v.lmc.act.count n ≤ 1 → levelSource n = true → v.lineOf n = true →
        t.evcPending n = true))) ∧
  (∀ (src : RegSrc) (w : Word64) (s : State),
    let v := s.storeReg src 0x4108 w
    (w.toNat % 1024 < 768 → exec (.evcSwset src w) s = .next v) ∧
    (768 ≤ w.toNat % 1024 → ∃ t : State, exec (.evcSwset src w) s = .next t ∧ t = { v with lmc := t.lmc } ∧
      w.toNat % 1024 ∈ t.lmc.pend) ∧
    exec (.evcGateWrite src w) s = .next (s.storeReg src 0x4100 w)) ∧
  (∀ (g : Nat) (s : State),
    (mget s.lmc.holdoff g = none → exec (.evcHoldoffExpire g) s = .next s) ∧
    (∀ t0, mget s.lmc.holdoff g = some t0 → exec (.evcHoldoffExpire g) s = .next { s with
      now := max s.now t0, lmc := { s.lmc with holdoff := mdel s.lmc.holdoff g } })) ∧
  (∀ (c : Nat) (s : State), c < 4 →
    let due := ∃ n, n < 1024 ∧ s.srcFld R.EVC_SRC_CORE n = c ∧ s.srcFld R.EVC_SRC_ENABLE n = 1 ∧ s.evcPending n = true
    (s.coreSt c = 2 → due → ∃ t : State, exec (.wfiWake c) s = .next t ∧ t.coreSt c = 1 ∧
      (∀ k, k < 4 → k ≠ c → t.coreSt k = s.coreSt k) ∧ t = { s with regs := t.regs }) ∧
    (s.coreSt c ≠ 2 ∨ ¬due → exec (.wfiWake c) s = .next s)) ∧
  (∀ (points : List Int) (mv : List Nat) (s : State),
    (s.powered = false → exec (.thmSample points mv) s = .next s) ∧
    (s.powered = true → (∀ i, i < 48 → points.getD i 0 < 1000) → ∃ t : State, exec (.thmSample points mv) s = .next t ∧
      t.ecc = s.ecc ∧ (∀ m, m < 16 → t.fld ((R.THM_VM_MV.at (8 * (m / 4))).up (16 * (m % 4))) = mv.getD m 0 % 2 ^ 16) ∧
      ((∃ i, i < 48 ∧ (8 * s.fld R.THM_CFG_CRIT_C : Int) ≤ points.getD i 0) →
        t.thm.critical = true ∧ t.fld R.PWR_STATUS_LEVEL = 8) ∧
      (s.pldmUp = true → ∀ i, i < 48 → -32768 ≤ points.getD i 0 →
        exec (.getSensorReading (i + 1)) t = .next (t.emit (.pldm (i + 1) [points.getD i 0])))) ∧
    (s.powered = true → (∃ i, i < 48 ∧ 1000 ≤ points.getD i 0) → ∃ t : State, exec (.thmSample points mv) s = .next t ∧
      t.pwr.on = false ∧ t.pwr.latched = true ∧ t.pwr.tripN = true ∧ t.fld R.PWR_RESET_CAUSE_CAUSE = 7)) ∧
  (∀ (v i p : Nat) (s : State),
    (s.pwr.on = false → exec (.thmInputSample v i p) s = .next s) ∧
    (s.pwr.on = true → ∃ t : State, exec (.thmInputSample v i p) s = .next t ∧ t = { s with regs := t.regs, thm := t.thm } ∧
      t.fld R.THM_INPUT_VIN_MV = v % 2 ^ 16 ∧ t.fld R.THM_INPUT_IIN_MA = i % 2 ^ 16 ∧
      t.fld R.THM_INPUT_PIN_DW = p % 2 ^ 16 ∧ t.thm.pin = (p % 2 ^ 16 :: s.thm.pin).take 10 ∧
      (4000 ≤ v → v ≤ 6000 → t.fld R.PWR_RAILS_VIN_WARN = 0))) ∧
  (∀ (id : Nat) (s : State),
    (s.pldmUp = false → exec (.getSensorReading id) s = .next s ∧ exec (.getSensorThresholds id) s = .next s) ∧
    (s.pldmUp = true →
      exec (.getSensorReading 65) s = .next (s.emit (.pldm 65 [s.fld R.THM_INPUT_VIN_MV])) ∧
      (1 ≤ id → id ≤ 48 → exec (.getSensorThresholds id) s =
        .next (s.emit (.pldm id [8 * s.fld R.THM_CFG_WARN_C, 8 * s.fld R.THM_CFG_CRIT_C]))) ∧
      (64 < id → exec (.getSensorThresholds id) s = .next (s.emit (.pldm id []))))) ∧
  (∀ (core addr : Nat) (s : State),
    (s.powered = false ∨ addr < mgmtBase ∨ mgmtEnd ≤ addr → exec (.memUe core addr) s = .next s) ∧
    (s.powered = true → mgmtBase ≤ addr → addr < mgmtEnd → ∃ t : State, exec (.memUe core addr) s = .next t ∧
      t.fld R.LMC_STATUS_MEM_UE = min (s.fld R.LMC_STATUS_MEM_UE + 1) 65535 ∧ (t.word 0x3020).getLsbD 11 = true ∧
      522 ∈ t.lmc.pend ∧ .accessFault (core % 4) addr ∈ t.out ∧
      t.fld R.LMC_LOG_HEAD = (s.fld R.LMC_LOG_HEAD + 1) % 131072 ∧
      t.lmc.mem.read (logBase + 64 * s.fld R.LMC_LOG_HEAD + 8) 4 = [0x0A, 0x02, 3, BitVec.ofNat 8 (core % 4)])) ∧
  (∀ (b : Byte) (s : State),
    let takes := s.powered = true ∧ (s.lc = lcManufacture ∨ s.lc = lcRma)
    (takes → exec (.uartInput b) s = .next { s with lmc := { s.lmc with uart := s.lmc.uart ++ [b] } }) ∧
    (¬takes → exec (.uartInput b) s = .next s))

/-- R378, R380 to R387, R397: TLS connections take the role of their operator slot, and a Redfish action below its role is
answered 403; a good image is staged PENDING and any other 400; ACTIVATE resets into the PENDING image as a trial, CONFIRM in
time makes it ACTIVE, COMMIT raises the fused security version, and an unconfirmed trial resets; firmware commands, BIST and
repair from the in-band path store nothing and are recorded as clamps. The life-cycle state moves only along Table 17.8. BIST
runs on an idle device in the states that permit it, closes debug, and ends with its failures kept for reading and every
stored byte gone; a repair takes its stack out of service until it is done. -/
def Obligations.FirmwareLifeCycleAndRepair : Prop :=
  (∀ (d : BitVec 384) (s : State),
    let slot := s.lmc.slots.find? fun e => e.2.enabled && e.2.digest = d
    (s.mgmtPort = false ∨ s.freeTls = none ∨ slot = none → exec (.tlsConnect d) s = .next s) ∧
    (∀ n k o, s.mgmtPort = true → s.freeTls = some n → slot = some (k, o) →
      mget s.lmc.tls n = none ∧
      exec (.tlsConnect d) s = .next { s with lmc := { s.lmc with tls := mset s.lmc.tls n o.role } })) ∧
  (∀ (conn off slot role : Nat) (w : Word64) (d : BitVec 384) (en tok : Bool), ∀ row ∈ ([(.redfishRawRegister conn off none, 1),
      (.redfishRawRegister conn off (some w), 2), (.redfishReset conn, 1), (.operatorSlotChange conn slot d role en, 2),
      (.deploy conn, 2), (.hold conn, 2), (.serviceHoldRelease conn, 2), (.scrap (some conn) tok, 2)] : List (Instr × Nat)),
    ∀ s : State, s.settled →
      (s.mgmtPort = false ∨ mget s.lmc.tls conn = none → exec row.1 s = .next s) ∧
      (∀ r, s.mgmtPort = true → mget s.lmc.tls conn = some r → r < row.2 →
        exec row.1 s = .next (s.emit (.redfish 403 0)))) ∧
  (∀ (conn off slot role : Nat) (w : Word64) (d : BitVec 384) (en tok : Bool) (s : State) (r : Nat), s.mgmtPort = true →
    mget s.lmc.tls conn = some r →
    (1 ≤ r → offsetOk off = true → exec (.redfishRawRegister conn off none) s =
      .next (((s.regRead off).2.emit (.redfish 200 (s.regRead off).1)).runReady)) ∧
    (1 ≤ r → offsetOk off = true → findReg off = none → s.settled →
      exec (.redfishRawRegister conn off none) s = .next (s.emit (.redfish 200 0))) ∧
    (2 ≤ r → offsetOk off = true → exec (.redfishRawRegister conn off (some w)) s =
      .next (((s.regWrite (.core 0) off w true).emit (.redfish 200 0)).runReady)) ∧
    (1 ≤ r → s.paired = false → ∃ t : State, exec (.redfishReset conn) s = .next t ∧
      State.restarts (s.emit (.redfish 202 0)) t 2) ∧
    (2 ≤ r → exec (.operatorSlotChange conn slot d role en) s = .next (if slot < 8 ∧ role < 3 then
      { s with lmc := { s.lmc with slots := mset s.lmc.slots slot ⟨d, role, en⟩ } }.emit (.redfish 200 0)
      else s.emit (.redfish 400 0))) ∧
    (2 ≤ r → s.lc = 2 → ∃ t : State, exec (.deploy conn) s = .next t ∧ t.lc = 3 ∧ t.lmc.idsFixed = true ∧
      t.out = s.out ++ [.redfish 200 0]) ∧
    (2 ≤ r → s.lc ≠ 2 → exec (.deploy conn) s = .next (s.emit (.redfish 409 0))) ∧
    (2 ≤ r → s.lc = 3 → s.setHeld = false → ∃ t : State, exec (.hold conn) s = .next t ∧ t.lc = 4 ∧
      t.out = s.out ++ [.redfish 200 0]) ∧
    (2 ≤ r → s.lc ≠ 3 ∨ s.setHeld = true → exec (.hold conn) s = .next (s.emit (.redfish 409 0))) ∧
    (2 ≤ r → s.lc = 4 → ∃ t : State, exec (.serviceHoldRelease conn) s = .next t ∧ t.lc = 3 ∧
      t.out = s.out ++ [.redfish 200 0]) ∧
    (2 ≤ r → s.lc ≠ 4 → exec (.serviceHoldRelease conn) s = .next (s.emit (.redfish 409 0))) ∧
    (2 ≤ r → s.lc ≠ 6 → ∃ t : State, exec (.scrap (some conn) tok) s = .next t ∧ t.lc = 6 ∧ t.lmc.keyDead = true ∧
      t.out = s.out ++ [.redfish 200 0]) ∧
    (2 ≤ r → s.lc = 6 → exec (.scrap (some conn) tok) s = .next (s.emit (.redfish 409 0)))) ∧
  (∀ s : State, ∀ row ∈ ([(fun b => .provision b, s.lc = 1), (fun b => .rma b, s.lc = 3 ∨ s.lc = 4),
      (fun b => .scrap none b, s.lc = 5)] : List ((Bool → Instr) × Prop)),
    (s.mgmtPort = false → ∀ b, exec (row.1 b) s = .next s) ∧
    (s.mgmtPort = true → exec (row.1 false) s = .next (s.emit (.redfish 403 0))) ∧
    (s.mgmtPort = true → ¬row.2 → exec (row.1 true) s = .next (s.emit (.redfish 409 0))) ∧
    (s.mgmtPort = true → row.2 → ∃ t : State, exec (row.1 true) s = .next t ∧ t.out = s.out ++ [.redfish 200 0] ∧
      t.lc = (if s.lc = 1 then 2 else if s.lc = 5 then 6 else 5) ∧ (s.lc = 5 → t.lmc.keyDead = true) ∧
      (s.lc = 3 ∨ s.lc = 4 → t.lmc.slots = [] ∧ t.sec.consents = [] ∧ ∀ n, n < 64 → (t.tenant n).st = 0))) ∧
  (∀ s : State,
    (s.lc ≠ 0 → exec .manufacturePersonalisation s = .next s) ∧
    (s.lc = 0 → ∃ t : State, exec .manufacturePersonalisation s = .next t ∧ t.lc = 1 ∧ t.lmc.keyMade = true ∧
      t.ecc = s.ecc)) ∧
  (∀ (x : ImageArg) (s : State),
    let good := x.magicOk = true ∧ ImageArg.fits x = true ∧ x.keyOk = true ∧ x.sigOk = true ∧
      s.fld R.LMC_FW_FUSE_SVN ≤ x.svn % 256 ∧ x.crc64 = crc64 x.body ∧ x.hashOk = true
    let n := 1 - s.fld R.LMC_FW_ACTIVE
    let busy := s.lmc.trialAt.isSome = true ∨ s.slotSt 0 = slotPending ∨ s.slotSt 1 = slotPending
    (s.mgmtPort = false → exec (.imageStage x) s = .next s) ∧
    (s.mgmtPort = true → busy → exec (.imageStage x) s = .next (s.emit (.redfish 409 0))) ∧
    (s.mgmtPort = true → ¬busy → good → ∃ t : State, exec (.imageStage x) s = .next t ∧ t.slotSt n = slotPending ∧
      mget t.lmc.images n = some (imageOf x) ∧ mget t.lmc.images (1 - n) = mget s.lmc.images (1 - n) ∧
      (t.word 0x3020).getLsbD 9 = true ∧ t.out = s.out ++ [.redfish 200 0]) ∧
    (s.mgmtPort = true → ¬busy → ¬good → ∃ t : State, exec (.imageStage x) s = .next t ∧ t.slotSt n = slotInvalid ∧
      mget t.lmc.images n = none ∧ t.out = s.out ++ [.redfish 400 0]) ∧
    (s.powered = false ∨ s.lmc.inRecovery = false → exec (.recoveryImage x) s = .next s) ∧
    (s.powered = true → s.lmc.inRecovery = true → good → ∃ t : State, exec (.recoveryImage x) s = .next t ∧
      State.restarts s t 3 ∧ t.fld R.LMC_FW_BOOT_RESULT = 3 ∧ (s.lmc.trialAt = none → t.lmc.inRecovery = false)) ∧
    (s.powered = true → s.lmc.inRecovery = true → x.magicOk = false → exec (.recoveryImage x) s = .next s)) ∧
  (∀ (w : Word64) (adm : Bool) (s : State),
    let fw := fun (op : Nat) => BitVec.ofNat 64 (w.toNat / 8 % 2 ^ 60 * 8 + op + 2 ^ 63)
    (∀ row ∈ ([(.fwNop .inband w, R.LMC_FW_CMD_OP, fw 0), (.activate .inband w, R.LMC_FW_CMD_OP, fw 1),
        (.confirm .inband w, R.LMC_FW_CMD_OP, fw 2), (.commit .inband w adm, R.LMC_FW_CMD_OP, fw 3),
        (.bist .inband w adm, R.BST_CTRL_GO, w ||| BitVec.ofNat 64 (2 ^ 63)),
        (.ppr .inband w adm, R.BST_PPR_GO, w ||| BitVec.ofNat 64 (2 ^ 63))] : List (Instr × Fd × Word64)),
      exec row.1 s = .next (recordClamp s (row.2.1.off / 0x1000) (fieldNo row.2.1) kLocked 4 row.2.2 (s.word row.2.1.off))) ∧
    ∀ n : Nat,
      let v := fun (op : Nat) => s.storeReg (.core n) 0x3138 (fw op)
      exec (.fwNop (.core n) w) s = .next (v 0) ∧
      ((v 1).fld R.LMC_FW_CMD_OP = 1 → (v 1).slotSt 0 ≠ slotPending → (v 1).slotSt 1 ≠ slotPending →
        exec (.activate (.core n) w) s = .next (v 1)) ∧
      (∀ k m, (v 1).fld R.LMC_FW_CMD_OP = 1 → k < 2 → (v 1).slotSt k = slotPending → (v 1).slotSt (1 - k) ≠ slotPending →
        mget (v 1).lmc.images k = some m → (v 1).lmc.trialAt = none → (v 1).paired = false →
        ∃ t : State, exec (.activate (.core n) w) s = .next t ∧ State.restarts (v 1) t 3 ∧ t.fld R.LMC_FW_ACTIVE = k ∧
          t.slotSt k = slotTrial ∧ t.lmc.trialAt = some (v 1).now ∧ t.lmc.entry = m.entry) ∧
      ((v 2).fld R.LMC_FW_CMD_OP = 2 → (v 2).lmc.trialAt = none → exec (.confirm (.core n) w) s = .next (v 2)) ∧
      (∀ t0, (v 2).fld R.LMC_FW_CMD_OP = 2 → (v 2).lmc.trialAt = some t0 →
        let due := t0 + (v 2).fld R.LMC_FW_CFG_TRIAL_S * 500000000
        (due < (v 2).now → exec (.confirm (.core n) w) s = .next (v 2)) ∧
        ((v 2).now ≤ due → (v 2).lmc.former < 2 → ∃ t : State, exec (.confirm (.core n) w) s = .next t ∧
          t.lmc.trialAt = none ∧ t.slotSt (t.fld R.LMC_FW_ACTIVE) = slotActive ∧
          t = { v 2 with lmc := t.lmc, regs := t.regs })) ∧
      ((v 3).fld R.LMC_FW_CMD_OP = 3 → adm = false ∨ (v 3).slotSt ((v 3).fld R.LMC_FW_ACTIVE) ≠ slotActive →
        exec (.commit (.core n) w adm) s = .next (v 3)) ∧
      ((v 3).fld R.LMC_FW_CMD_OP = 3 → adm = true → (v 3).slotSt ((v 3).fld R.LMC_FW_ACTIVE) = slotActive →
        let f := max ((v 3).fld R.LMC_FW_FUSE_SVN) ((v 3).fld R.LMC_FW_SVN)
        ∃ t : State, exec (.commit (.core n) w adm) s = .next t ∧ t.fld R.LMC_FW_FUSE_SVN = f ∧
          (∀ k m, k < 2 → mget (v 3).lmc.images k = some m → m.svn < f → t.slotSt k = slotInvalid ∧ mget t.lmc.images k = none) ∧
          (∀ k m, k < 2 → mget (v 3).lmc.images k = some m → f ≤ m.svn → t.slotSt k = (v 3).slotSt k ∧
            mget t.lmc.images k = some m))) ∧
  (∀ s : State,
    (s.lmc.trialAt = none → exec .trialTimeout s = .next s) ∧
    (∀ t0, s.lmc.trialAt = some t0 → ∃ t : State, exec .trialTimeout s = .next t ∧
      State.restarts { s with now := max s.now (t0 + s.fld R.LMC_FW_CFG_TRIAL_S * 500000000) } t 3 ∧
      (s.lmc.activating = false → t.lmc.trialAt = none))) ∧
  (∀ (n : Nat) (w : Word64) (adm : Bool) (s : State),
    let v := s.storeReg (.core n) 0xA100 (w ||| BitVec.ofNat 64 (2 ^ 63))
    let may := v.lc = lcManufacture ∨ v.lc = lcRma ∨ (v.lc = lcHold ∧ adm = true)
    (v.fld R.BST_STATUS_STATE = 1 → exec (.bist (.core n) w adm) s = .next v) ∧
    (v.fld R.BST_STATUS_STATE ≠ 1 → ¬(may ∧ v.bistIdle = true) →
      exec (.bist (.core n) w adm) s = .next (v.setFld R.BST_STATUS_RESULT 3)) ∧
    (v.fld R.BST_STATUS_STATE ≠ 1 → may → v.bistIdle = true → ∃ t : State, exec (.bist (.core n) w adm) s = .next t ∧
      t.fld R.BST_STATUS_STATE = 1 ∧ t.lmc.fails = [] ∧ t.sec.debug = 0 ∧ t.ecc = v.ecc ∧
      (v.fld R.BST_CTRL_SRAM = 1 → t.acc.lines = [] ∧ t.seq.plans = [] ∧ t.seq.slab = [] ∧ t.seq.fronds = []))) ∧
  (∀ (fails : List Word64) (more : Nat) (s : State),
    (s.fld R.BST_STATUS_STATE ≠ 1 → exec (.bistDone fails more) s = .next s) ∧
    (s.fld R.BST_STATUS_STATE = 1 → ∃ t : State, exec (.bistDone fails more) s = .next t ∧ t.fld R.BST_STATUS_STATE = 0 ∧
      t.fld R.BST_STATUS_RESULT = (if fails.length + more = 0 then 1 else 2) ∧
      t.fld R.BST_STATUS_FAILS = min (fails.length + more) 0xFFFFFFFF ∧ t.ecc.mem = [] ∧ t.ecc.units = [] ∧ t.ecc.words = [] ∧
      t.lmc.fails = (fails.take 4096).map (fun w => w ||| BitVec.ofNat 64 (2 ^ 63)) ∧ (t.word 0xA020).getLsbD 8 = true)) ∧
  (∀ (n : Nat) (s : State),
    (s.lmc.fails = [] → exec (.bstFailRead (.core n)) s = .next (s.emit (.busRead (.core n) 0xA110 0))) ∧
    (∀ w l, s.lmc.fails = w :: l → exec (.bstFailRead (.core n)) s = .next { s with
      lmc := { s.lmc with fails := l }, out := s.out ++ [.busRead (.core n) 0xA110 w] })) ∧
  (∀ (n : Nat) (w : Word64) (adm : Bool) (s : State),
    let v := s.storeReg (.core n) 0xA118 (w ||| BitVec.ofNat 64 (2 ^ 63))
    let may := v.lc = lcHold ∧ adm = true ∧ v.lmc.ppr = none
    (¬may → exec (.ppr (.core n) w adm) s = .next v) ∧
    (may → ∃ t : State, exec (.ppr (.core n) w adm) s = .next t ∧ t.lmc.ppr = some (v.fld R.BST_PPR_PC) ∧
      (v.smc.stackSts.length = 8 → t.stackSt (stackOfPc (v.fld R.BST_PPR_PC)) = 5))) ∧
  (∀ (r : Nat) (s : State),
    (s.lmc.ppr = none → exec (.pprDone r) s = .next s) ∧
    (∀ p, s.lmc.ppr = some p → ∃ t : State, exec (.pprDone r) s = .next t ∧ t.lmc.ppr = none ∧
      t.fld R.BST_PPR_RESULT = (if r = 1 ∨ r = 2 then r else 3) ∧ (t.word 0xA020).getLsbD 9 = true ∧ t.ecc = s.ecc))

/-! ### Power and start-up (chapter 18) -/

/-- R388 to R402, R421, R422, R426: rails come up in order, the last one starts the four cores, a rail that fails turns every
rail off and is retried until the third failure, and so do an input fault and the loss of SYSCLK; the loss of a reference
clock takes its ports down; the power cap moves the throttle level one step at a time; DEEP ends 1.5 ms after its exit
began, with every stack out of self-refresh; releasing the last stack sets PL_LAT and starts the frame timer; SERVICE is
granted under the conditions of R398 alone; WAKE demands the sleeping stacks; a RESET needs its key, hands over first when
asked, and a full reset restarts at step 4 with its cause recorded; from the in-band path PWR_CTRL stores nothing. -/
def Obligations.PowerStatesAndResets : Prop :=
  (∀ (r : Nat) (s : State),
    let next := r < 8 ∧ s.pwr.on = true ∧ s.fld R.PWR_RAILS_PGOOD = 2 ^ r - 1
    (s.pwr.on = true ∨ s.pwr.latched = true ∨ s.pwr.inputBad = true ∨ s.pwr.attempts ≠ 0 ∨ s.pwr.sysclk = false →
      exec .powerUp s = .next s) ∧
    (s.pwr.on = false → s.pwr.latched = false → s.pwr.inputBad = false → s.pwr.attempts = 0 → s.pwr.sysclk = true →
      exec .powerUp s = .next { s with pwr := { s.pwr with on := true, step1 := s.now } }) ∧
    (¬next ∨ r ≠ 0 ∧ s.pwr.sysclk = false → exec (.railPowerGood r) s = .next s) ∧
    (next → r < 7 → r = 0 ∨ s.pwr.sysclk = true →
      exec (.railPowerGood r) s = .next (s.setFld R.PWR_RAILS_PGOOD (2 ^ (r + 1) - 1))) ∧
    (next → r = 7 → s.pwr.sysclk = true → ∃ t : State, exec (.railPowerGood r) s = .next t ∧ t.powered = true ∧
      t.pwr.attempts = 0 ∧ t.pwr.cleared = true ∧ t.pwr.faultN = false ∧
      t.fld R.PWR_STATUS_PHASE = (if t.lmc.inRecovery then 1 else 2) ∧
      ∀ c, c < 4 → t.coreSt c = 1 ∧ mget t.lmc.kicked c = some s.now) ∧
    (¬next → exec (.railTimeout r) s = .next s) ∧
    (next → ∃ t : State, exec (.railTimeout r) s = .next t ∧ s.turnsOff t ∧ t.pwr.attempts = s.pwr.attempts + 1 ∧
      t.pwr.latched = decide (3 ≤ s.pwr.attempts + 1) ∧ t.pwr.faultN = true ∧ (t.fld R.PWR_RAILS_FAILED).testBit r = true) ∧
    (s.pwr.on = true ∨ s.pwr.attempts = 0 ∨ s.pwr.latched = true ∨ s.pwr.inputBad = true → exec .railRetry s = .next s) ∧
    (s.pwr.on = false → s.pwr.attempts ≠ 0 → s.pwr.latched = false → s.pwr.inputBad = false →
      exec .railRetry s = .next { s with pwr := { s.pwr with on := true } })) ∧
  (∀ s : State,
    (s.pwr.on = false → exec .inputWarn s = .next s) ∧
    (s.pwr.on = true → ∃ t : State, exec .inputWarn s = .next t ∧ t = { s with regs := t.regs } ∧
      t.fld R.PWR_RAILS_VIN_WARN = 1 ∧ (t.word 0x2020).getLsbD 10 = true) ∧
    (s.pwr.inputBad = true → exec .inputFault s = .next s) ∧
    (s.pwr.inputBad = false → ∃ t : State, exec .inputFault s = .next t ∧ s.turnsOff t ∧ t.pwr.inputBad = true ∧
      t.pwr.faultN = true ∧ t.pwr.tripN = false ∧ (t.word 0x2020).getLsbD 10 = true ∧
      t.fld R.PWR_RESET_CAUSE_CAUSE = if s.pwr.on then 6 else s.fld R.PWR_RESET_CAUSE_CAUSE) ∧
    (s.pwr.inputBad = false → exec .inputRestore s = .next s) ∧
    (s.pwr.inputBad = true →
      let p := { s.pwr with inputBad := false, latched := false, attempts := 0 }
      exec .inputRestore s = .next { s with pwr := if s.pwr.sysclk then { p with on := true, step1 := s.now } else p }) ∧
    (s.pwr.sysclk = false → exec .sysclkLoss s = .next s) ∧
    (s.pwr.sysclk = true → s.pwr.on = false →
      exec .sysclkLoss s = .next { s with pwr := { s.pwr with sysclk := false } }) ∧
    (s.pwr.sysclk = true → s.pwr.on = true → ∃ t : State, exec .sysclkLoss s = .next t ∧ s.turnsOff t ∧
      t.pwr.sysclk = false ∧ t.fld R.PWR_RESET_CAUSE_CAUSE = 6) ∧
    (s.pwr.sysclk = true → exec .sysclkRestore s = .next s) ∧
    (s.pwr.sysclk = false →
      let p := { s.pwr with sysclk := true }
      exec .sysclkRestore s = .next { s with pwr :=
        if s.pwr.latched ∨ s.pwr.inputBad then p else { p with on := true, step1 := s.now } })) ∧
  (∀ (refb : Bool) (s : State), ∃ t : State, exec (.refclkLoss refb) s = .next t ∧ t.ecc = s.ecc ∧
    (refb = true → t.lmc.tls = []) ∧ (refb = false → s.linkOn 8 = true → (t.link 8).st = 0) ∧
    ∀ p, p ∈ (if refb then [4, 5, 6, 7] else [0, 1, 2, 3]) → (s.linkOn p = true → (t.link p).st = 0) ∧
      (s.portOn p = true → ∀ k, k < 4 → k < s.subCount p → (t.fld (R.PRT_STATUS_LINK_UP.at (0x1000 * p))).testBit k = false)) ∧
  (∀ s : State,
    let sum := s.thm.pin.sum
    let n := s.thm.pin.length
    let cap := s.fld R.PWR_CFG_CAP_W
    let low := cap - s.fld R.PWR_CFG_CAP_HYST_W
    let l := s.fld R.PWR_STATUS_LEVEL
    (s.powered = false → exec .powerCapEval s = .next s) ∧
    (s.powered = true → ∃ t : State, exec .powerCapEval s = .next t ∧ t = { s with regs := t.regs, pwr := t.pwr } ∧
      (s.thm.critical = true → t.fld R.PWR_STATUS_LEVEL = 8) ∧
      (s.thm.critical = false →
        (l < 7 → cap * 10 * n < sum → t.fld R.PWR_STATUS_LEVEL = l + 1 ∧ (l = 0 → (t.word 0x2020).getLsbD 8 = true)) ∧
        (l < 8 → sum < low * 10 * n → t.fld R.PWR_STATUS_LEVEL = l - 1) ∧
        (l ≤ 8 → low * 10 * n ≤ sum → sum ≤ cap * 10 * n → t.fld R.PWR_STATUS_LEVEL = l) ∧
        (l = 7 → cap * 10 * n < sum → t.fld R.PWR_STATUS_LEVEL = (if 9 ≤ s.pwr.at7 then 8 else 7) ∧
          t.pwr.at7 = s.pwr.at7 + 1) ∧
        (l = 8 → sum < low * 10 * n → t.fld R.PWR_STATUS_LEVEL = 7)))) ∧
  (∀ s : State,
    (s.deep = false ∨ s.pwr.deepExit.isSome = true → exec .deepExitStart s = .next s) ∧
    (s.deep = true → s.pwr.deepExit = none → ∃ t : State, exec .deepExitStart s = .next t ∧
      t = { s with smc := t.smc, pwr := { s.pwr with deepExit := some (s.now + 750000) } } ∧
      ∀ n, n < 8 → t.stackSt n = if s.stackSt n = 3 then 4 else s.stackSt n) ∧
    (s.regWait = [] → s.pwr.deepExit = none ∨ (∃ n, n < 8 ∧ (s.stackSt n = 3 ∨ s.stackSt n = 4)) →
      exec .deepExitComplete s = .next s) ∧
    (∀ t0, s.regWait = [] → s.pwr.deepExit = some t0 → (∀ n, n < 8 → s.stackSt n ≠ 3 ∧ s.stackSt n ≠ 4) →
      ∃ t : State, exec .deepExitComplete s = .next t ∧ t.deep = false ∧ t.fld R.PWR_STATUS_GATED = 0 ∧
        t.pwr.deepExit = none ∧ t.now = max s.now t0 ∧ (t.word 0x2020).getLsbD 9 = true ∧ t.ecc = s.ecc) ∧
    ∃ t : State, exec .wakeTimer s = .next t ∧ t = { s with lmc := t.lmc } ∧ 521 ∈ t.lmc.pend) ∧
  (∀ (n : Nat) (w : Word64) (s : State),
    let kept := 2 * s.fld R.PWR_CTRL_HANDOVER + 8 * s.fld R.PWR_CTRL_KEY
    let ws := BitVec.ofNat 64 (1 + kept)
    let ww := BitVec.ofNat 64 (4 + kept)
    let wr := w ||| BitVec.ofNat 64 (2 ^ 63)
    let a := s.storeReg (.core n) 0x2110 ws
    let b := s.storeReg (.core n) 0x2110 ww
    let c := s.storeReg (.core n) 0x2110 wr
    (∀ row ∈ ([(.service .inband, BitVec.ofNat 64 (1 + kept)), (.wake .inband, BitVec.ofNat 64 (4 + kept)),
        (.reset .inband w, wr)] : List (Instr × Word64)),
      exec row.1 s = .next (recordClamp s 2 (fieldNo R.PWR_CTRL_HANDOVER) kLocked 4 row.2 (s.word 0x2110))) ∧
    (a.canServe = false → exec (.service (.core n)) s =
      .next (recordClamp a 2 (fieldNo R.PWR_CTRL_SERVICE) kState (n % 4) ws (a.word 0x2110))) ∧
    (a.canServe = true → a.inService = true → exec (.service (.core n)) s = .next a) ∧
    (a.canServe = true → a.inService = false → ∃ t : State, exec (.service (.core n)) s = .next t ∧ t.inService = true ∧
      t.fld R.PWR_STATUS_READY = 1 ∧ (t.word 0x2020).getLsbD 11 = true ∧ t.ecc = a.ecc) ∧
    (b.deep = true → b.pwr.deepExit = none → ∃ t : State, exec (.wake (.core n)) s = .next t ∧
      t.pwr.deepExit = some (b.now + 750000)) ∧
    (b.deep = false → ∃ t : State, exec (.wake (.core n)) s = .next t ∧ t = { b with smc := t.smc, pwr := t.pwr } ∧
      (∀ k, k < 8 → b.stackSt k = 2 ∨ b.stackSt k = 3 → k ∈ t.smc.demand) ∧
      (b.fld R.PWR_STATUS_GATED = 1 → t.pwr.gateWake.isSome = true)) ∧
    (w.getLsbD 0 = false → w.getLsbD 2 = false → c.fld R.PWR_CTRL_KEY ≠ 0xA5C3 → exec (.reset (.core n) w) s =
      .next (recordClamp c 2 (fieldNo R.PWR_CTRL_RESET) kValue (n % 4) wr (c.word 0x2110))) ∧
    (w.getLsbD 0 = false → w.getLsbD 2 = false → c.fld R.PWR_CTRL_KEY = 0xA5C3 →
      c.fld R.PWR_CTRL_HANDOVER ≠ 1 ∨ c.paired = false →
      ∃ t : State, exec (.reset (.core n) w) s = .next t ∧ State.restarts c t 1)) ∧
  (∀ (cause : Nat) (s : State),
    (s.pwr.resetAt = none → exec .resetHandoverTimeout s = .next s) ∧
    (∀ c t0, s.pwr.resetAt = some (c, t0) → c < 16 → ∃ t : State, exec .resetHandoverTimeout s = .next t ∧
      State.restarts { s with now := max s.now t0 } t c) ∧
    (s.powered = false → exec (.fullReset cause) s = .next s) ∧
    (s.powered = true → ∃ t : State, exec (.fullReset cause) s = .next t ∧ State.restarts s t (cause % 8))) ∧
  (∀ (src : RegSrc) (w : Word64) (s : State),
    let v := s.storeReg src 0x2118 w
    let u := (List.range 8).foldl (fun s n => s.stackUp n) v
    (v.fld R.PWR_STATUS_PHASE < 2 → exec (.stacksOk src w) s = .next v) ∧
    (2 ≤ v.fld R.PWR_STATUS_PHASE → u.pwr.step8.isSome = true ∨ u.stacksDone = false →
      exec (.stacksOk src w) s = .next u) ∧
    (2 ≤ v.fld R.PWR_STATUS_PHASE → u.pwr.step8 = none → u.stacksDone = true → ∃ t : State,
      exec (.stacksOk src w) s = .next t ∧ t.pwr.timer = true ∧ t.pwr.step8 = some u.now ∧ t.frameStart = u.now ∧
      t.fld R.FTM_REBASE_PL_LAT = u.latNeeded % 256 ∧ t.fld R.PWR_STATUS_PHASE = 3 ∧ t.ecc = u.ecc)) ∧
  (∀ s : State,
    (s.pwr.step8 = none ∨ s.paired = false ∨ s.par.hello.isSome = true ∨ s.inService = true →
      exec .pairWaitTimeout s = .next s) ∧
    (∀ t0, s.pwr.step8 = some t0 → s.paired = true → s.par.hello = none → s.inService = false →
      let u := State.raise { s with now := max s.now (t0 + s.fld R.PWR_CFG2_PAIR_WAIT_MS * 500000) } 26 10
      (u.canServe = false → exec .pairWaitTimeout s = .next u) ∧
      (u.canServe = true → ∃ t : State, exec .pairWaitTimeout s = .next t ∧ t.inService = true ∧
        (t.word 0x1A020).getLsbD 10 = true ∧ t.now = u.now)))

/-! ### The memories -/

/-- Every memory and register map of the machine is in canonical form: addresses rising, and in a memory no byte listed that
equals what an unlisted address reads as. -/
def Obligations.MemoriesStayCanonical : Prop :=
  ∀ s t : State, s.canonical → step s = .next t → t.canonical

/-- The model's own form at reset (log entries 16, 19 and 21), which is no rule of the spec: the queue of commands is empty,
every memory is canonical, nothing is held, and every register reads its reset word; and a byte of the pool reads as zero, as
R125 has it of what has never been written. -/
def Obligations.ResetHasTheModelsForm : Prop :=
  State.reset.canonical ∧ State.reset.pending = [] ∧ State.reset.held = [] ∧
  (∀ off, State.reset.word off = resetWord off) ∧ (∀ a, State.reset.ecc.mem.byte a = 0)

/-- R22: a handle holds a generation of 1 to 16,383 in [31:18] and an index in [17:0], which select one another exactly, and
is never 0; at reset every index is FREE with generation 1. -/
def Obligations.ResetLeavesEveryIndexFree : Prop :=
  (∀ g i : Nat, 1 ≤ g → g ≤ 16383 → i < 262144 → handleOf g i < 2 ^ 32 ∧ handleOf g i / 2 ^ 18 = g ∧
    handleOf g i % 2 ^ 18 = i ∧ handleOf g i ≠ 0) ∧
  (∀ i, State.reset.indexFree i = true ∧ State.reset.genOf i = 1)
end

