-- ==== Sys2Proof/Laws/Begin.lean ====
section
/-! SUPPORT. What a request that begins at once does (Safety's `State.begins`): the lemmas that take a statement about a
request's row to its operation. -/

namespace Sys2Proof.Machine
theorem start_entersNow {s : State} {r : Req} {t : State} {q : Req} (h : s.entersNow r = some (t, q)) :
    s.enter r = t.perform q := by
  unfold State.entersNow at h
  unfold State.enter
  split at h
  · cases h
  split at h
  · cases h
  split at h
  · cases h
  rename_i h1 h2 h3
  rw [if_neg h1, if_neg h2, if_neg h3]
  simp only at h
  split at h
  · cases h
  split at h
  · cases h
  split at h
  · cases h
  rename_i h4 h5 h6
  simp only [Option.some.injEq, Prod.mk.injEq] at h
  obtain ⟨rfl, rfl⟩ := h
  unfold State.start State.tryStart
  rw [if_neg h4]
  cases hj : s.replayJudge r with
  | some _ => simp [hj] at h5
  | none => simp [h6]

theorem checks_pass {s : State} {r : Req} {t : State} {q : Req} (h : s.checksPass r = some (t, q)) :
    s.checkAndEnter r = t.perform q := by
  unfold State.checksPass at h
  unfold State.checkAndEnter
  cases hop : r.op <;> simp only [hop] at h ⊢
  case rdS | rdX | upg | rdNa =>
    revert h; split
    · intro h; cases h
    · rename_i hc; intro h; (try simp only [hc]); exact start_entersNow h
  case wb =>
    cases hw : s.wbFails r _ with
    | some _ => simp [hw] at h
    | none => simp only [hw, Option.isSome_none, Bool.false_eq_true, if_false] at h; exact start_entersNow h
  all_goals
    split at h
    · rename_i hs; rw [if_pos hs]; exact start_entersNow h
    · rename_i hs; rw [if_neg hs]
      revert h; split
      · intro h; cases h
      · rename_i hc; intro h; (try simp only [hc]); exact start_entersNow h

/-- A request that begins at once performs its operation. -/
theorem submit_begins {s : State} {p : Pkt} {op : ReqOp} {t : State} {r : Req} (h : s.begins p op = some (t, r)) :
    s.submit p op = (t.perform r).runReady := by
  unfold State.begins at h
  unfold State.submit
  simp only at h ⊢
  split at h
  · cases h
  rename_i h1
  rw [if_neg h1]
  split at h
  · cases h
  rename_i hp
  try simp only [hp]
  split at h
  · cases h
  rename_i hc
  try simp only [hc]
  split at h
  · cases h
  rename_i hk
  rw [if_neg hk]
  unfold State.judge
  split at h
  · cases h
  rename_i hd
  rw [if_neg hd]
  split at h
  · cases h
  rename_i hpl
  try simp only [hpl]
  split at h
  · cases h
  rename_i hb
  rw [if_neg hb]
  unfold State.admitReq
  split at h
  · cases h
  rename_i hset
  rw [if_neg hset]
  split at h
  · cases h
  rename_i hj
  split at h
  · cases h
  rename_i hm
  split at h
  · cases h
  rename_i hl
  generalize hg : State.replayJudge _ _ = o at hj ⊢
  cases o with
  | some _ => simp at hj
  | none =>
    simp only
    rw [if_neg hm, if_neg hl, checks_pass h]

theorem entersNow_req {s : State} {r : Req} {t : State} {q : Req} (h : s.entersNow r = some (t, q)) :
    q = { r with bound := q.bound } := by
  unfold State.entersNow at h
  simp only at h
  repeat' split at h
  all_goals first | (cases h; done) | skip
  simp only [Option.some.injEq, Prod.mk.injEq] at h
  rw [← h.2]

theorem checksPass_req {s : State} {r : Req} {t : State} {q : Req} (h : s.checksPass r = some (t, q)) :
    q = { r with bound := q.bound, checked := q.checked } := by
  unfold State.checksPass at h
  repeat' split at h
  all_goals first | (cases h; done) | skip
  all_goals (have := entersNow_req h; rw [this])

/-- What a request that begins is: its packet's fields on its connection, with nothing accepted, fetched or snooped. -/
theorem begins_req {s : State} {p : Pkt} {op : ReqOp} {t : State} {r : Req} (h : s.begins p op = some (t, r)) :
    ∃ x now ord, r = { reqOf p x op now ord with bound := r.bound, checked := r.checked } := by
  unfold State.begins at h
  simp only at h
  repeat' split at h
  all_goals first | (cases h; done) | skip
  have hq := checksPass_req h
  simp only [State.boundReq] at hq
  exact ⟨_, _, _, hq⟩

theorem begins_op {s : State} {p : Pkt} {op : ReqOp} {t : State} {r : Req} (h : s.begins p op = some (t, r)) :
    r.op = op.trim := by
  obtain ⟨x, n, o, h⟩ := begins_req h; rw [h]; rfl

/-- A request that begins at once and is no access of the register window performs its operation by opcode. -/
theorem submit_performIpt {s : State} {p : Pkt} {op : ReqOp} {t : State} {r : Req} (h : s.begins p op = some (t, r))
    (hw : t.isWindow r = false) : s.submit p op = (match t.tableLook r with
      | (u, true) => u.refuse r Status.internalError
      | (u, false) => u.performIpt r).runReady := by
  rw [submit_begins h]
  obtain ⟨x, n, o, hr⟩ := begins_req h
  unfold State.perform
  have hc : r.chunk = none := by rw [hr]; rfl
  have hv : r.via = .ipt := by rw [hr]; rfl
  simp only [hc, hv, hw, Bool.false_eq_true, if_false]
  all_goals rfl

/-- What `State.tablesGood` gives: the request as it was, and the state in which its table entries have been read. -/
theorem tablesGood_some {x : State × Req} {t : State} {r : Req} (h : State.tablesGood x = some (t, r)) :
    x.2 = r ∧ x.1.tableLook r = (t, false) := by
  unfold State.tablesGood at h
  split at h
  · cases h
  · rename_i hl; cases h; exact ⟨rfl, hl⟩
/-- The same for `State.runs`. -/
theorem submit_runs {s : State} {p : Pkt} {op : ReqOp} {t : State} {r : Req} (h : s.runs p op = some (t, r)) :
    s.submit p op = (t.performIpt r).runReady ∧ r.op = op.trim ∧ r.via = .ipt ∧ r.chunk = none ∧ r.accepted = false ∧
      r.fetched = [] ∧ r.txns = [] ∧ r.waitFrom = none ∧ r.begun = false ∧ r.turn = false := by
  unfold State.runs at h
  split at h
  · rename_i hb
    split at h
    · cases h
    · rename_i hw
      obtain ⟨he, hl⟩ := tablesGood_some h
      simp only at he
      subst he
      obtain ⟨x, n, o, hr⟩ := begins_req hb
      refine ⟨by rw [submit_performIpt hb (by simpa using hw), hl], begins_op hb, ?_⟩
      rw [hr]; simp [reqOf]
  · cases h

/-- A RoCEv2 packet that is taken as the next of its queue pair does what the expected packet does. -/
theorem roceIn_takes {s : State} {p : QPkt} {cost : Nat} {over_ : Qp → Bool} {t : State} {q : Qp}
    (h : s.roceTakes p cost over_ = some (t, q)) (new dup : State → Qp → State) :
    s.roceIn p cost over_ new dup = new t q := by
  unfold State.roceTakes at h
  unfold State.roceIn
  split at h
  · cases h
  rename_i h1
  try simp only [h1]
  split at h
  · cases h
  rename_i h2
  rw [if_neg h2]
  split at h
  · cases h
  rename_i q hq
  try simp only [hq]
  split at h
  · cases h
  rename_i h3
  rw [if_neg h3]
  split at h
  · cases h
  rename_i h4
  rw [if_neg h4]
  simp only at h ⊢
  split at h
  · cases h
  rename_i h5
  rw [if_neg h5]
  split at h
  · cases h
  rename_i h6
  try simp only [h6]
  split at h
  · cases h
  split at h
  · rename_i h7 h8
    cases h
    simp [h7, h8.1, h8.2]
  · cases h

/-- No sub-port has sent XOFF: none is sent XON. -/
theorem pfcAll_idle {s : State} (h : ∀ e ∈ s.prt.subs, e.2.xoff = []) : s.pfcAll = s := by
  unfold State.pfcAll
  rw [List.filter_eq_nil_iff.2 fun e he => by simp [h e he]]; rfl

/-- Nothing freed, nothing that has ended to pass on and no priority to let go: nothing runs. -/
theorem runReady_idle {s : State} (h : s.dir.ready = []) (he : s.ringPartsEnd.closeSpent = s) (hp : s.pfcAll = s) :
    s.runReady = s := by
  unfold State.runReady
  suffices hl : s.readyLoop (8 * (s.dir.ready.length + s.dir.waiters.length + s.dir.txns.length + 1)) = s by rw [hl, hp]
  generalize 8 * _ = n
  cases n with
  | zero => rfl
  | succ n => simp [State.readyLoop, h, he]

end Sys2Proof.Machine
end

