-- ==== Sys2Proof/Laws/Maps.lean ====
section
/-! SUPPORT. Finite maps and byte memory: a read after a write, and the canonical form that every operation keeps. -/

namespace Sys2Proof.Machine

theorem mget_mset {α : Type} (m : NMap α) (k k' : Nat) (v : α) :
    mget (mset m k v) k' = if k' = k then some v else mget m k' := by
  induction m with
  | nil => simp [mset, mget, eq_comm]
  | cons a t ih =>
    obtain ⟨x, y⟩ := a
    simp only [mset]
    by_cases h1 : k < x
    · simp only [h1, if_true]
      by_cases h : k = k'
      · simp [mget, h]
      · simp [mget, h, Ne.symm h]
    · simp only [h1, if_false]
      by_cases h2 : k = x
      · subst h2
        by_cases h : k = k'
        · simp [mget, h]
        · simp [mget, h, Ne.symm h]
      · simp only [h2, if_false, mget, ih]
        by_cases h : x = k'
        · subst h; simp [Ne.symm h2]
        · simp [h]

theorem mget_mdel {α : Type} (m : NMap α) (k k' : Nat) :
    mget (mdel m k) k' = if k' = k then none else mget m k' := by
  induction m with
  | nil => simp [mdel, mget]
  | cons a t ih =>
    obtain ⟨x, y⟩ := a
    simp only [mdel] at ih ⊢
    by_cases h : x = k
    · subst h
      simp only [List.filter_cons, ne_eq, not_true, decide_false, Bool.false_eq_true, if_false, ih, mget]
      by_cases h' : k' = x
      · simp [h']
      · simp [h', Ne.symm h']
    · simp only [List.filter_cons, ne_eq, h, not_false_eq_true, decide_true, if_true, mget, ih]
      by_cases h' : x = k'
      · subst h'; simp [h]
      · simp [h']

theorem mgetD_msetD {α : Type} [DecidableEq α] (m : NMap α) (k k' : Nat) (v d : α) :
    mgetD (msetD m k v d) k' d = if k' = k then v else mgetD m k' d := by
  unfold mgetD msetD
  by_cases h : v = d
  · rw [if_pos h, mget_mdel]; by_cases h' : k' = k <;> simp [h', h]
  · rw [if_neg h, mget_mset]; by_cases h' : k' = k <;> simp [h']


/-- The canonical form, as a recursion on the head and its successor. -/
theorem mwf_cons {α : Type} (a : Nat × α) (t : NMap α) :
    mwf (a :: t) = true ↔ (∀ e ∈ t, a.1 < e.1) ∧ mwf t = true := by
  induction t generalizing a with
  | nil => simp [mwf]
  | cons b t ih =>
    simp only [mwf, Bool.and_eq_true, decide_eq_true_eq, List.mem_cons, forall_eq_or_imp]
    constructor
    · rintro ⟨h, hb⟩
      exact ⟨⟨h, fun e he => Nat.lt_trans h (((ih b).1 hb).1 e he)⟩, hb⟩
    · rintro ⟨⟨h, -⟩, hb⟩
      exact ⟨h, hb⟩

theorem mem_mset {α : Type} {m : NMap α} {k : Nat} {v : α} {e : Nat × α} (h : e ∈ mset m k v) :
    e = (k, v) ∨ e ∈ m := by
  induction m with
  | nil => simpa [mset] using h
  | cons a t ih =>
    obtain ⟨x, y⟩ := a
    simp only [mset] at h
    split at h
    · simpa using h
    · split at h
      · rcases List.mem_cons.1 h with h | h
        · exact .inl h
        · exact .inr (List.mem_cons_of_mem _ h)
      · rcases List.mem_cons.1 h with h | h
        · exact .inr (h ▸ List.mem_cons_self)
        · exact (ih h).imp id (List.mem_cons_of_mem _)

theorem mwf_mset {α : Type} {m : NMap α} (k : Nat) (v : α) (h : mwf m = true) : mwf (mset m k v) = true := by
  induction m with
  | nil => rfl
  | cons a t ih =>
    obtain ⟨x, y⟩ := a
    have ht := (mwf_cons (x, y) t).1 h
    simp only [mset]
    split
    · rename_i hk
      refine (mwf_cons _ _).2 ⟨fun e he => ?_, h⟩
      rcases List.mem_cons.1 he with rfl | he
      · exact hk
      · exact Nat.lt_trans hk (ht.1 e he)
    · split
      · rename_i hk
        subst hk
        exact (mwf_cons _ _).2 ⟨ht.1, ht.2⟩
      · rename_i h1 h2
        refine (mwf_cons _ _).2 ⟨fun e he => ?_, ih ht.2⟩
        rcases mem_mset he with rfl | he
        · simp only; omega
        · exact ht.1 e he

theorem mwf_filter {α : Type} {m : NMap α} (p : Nat × α → Bool) (h : mwf m = true) : mwf (m.filter p) = true := by
  induction m with
  | nil => rfl
  | cons a t ih =>
    have ht := (mwf_cons a t).1 h
    rw [List.filter_cons]
    split
    · exact (mwf_cons _ _).2 ⟨fun e he => ht.1 e (List.mem_filter.1 he).1, ih ht.2⟩
    · exact ih ht.2

theorem mwf_mdel {α : Type} {m : NMap α} (k : Nat) (h : mwf m = true) : mwf (mdel m k) = true := mwf_filter _ h

theorem mwf_msetD {α : Type} [DecidableEq α] {m : NMap α} (k : Nat) (v d : α) (h : mwf m = true) :
    mwf (msetD m k v d) = true := by
  unfold msetD
  split
  · exact mwf_mdel k h
  · exact mwf_mset k v h

/-! ### Byte memory -/

theorem Mem.byte_store (m : Mem) (a a' : Nat) (b : Byte) :
    (m.store a b).byte a' = if a' = a then b else m.byte a' := mgetD_msetD m a a' b 0

/-- Bytes outside a store keep their value. -/
theorem Mem.byte_write_other (m : Mem) (a a' : Nat) (bs : List Byte) (h : a' < a ∨ a + bs.length ≤ a') :
    (m.write a bs).byte a' = m.byte a' := by
  induction bs generalizing m a with
  | nil => rfl
  | cons b t ih =>
    simp only [List.length_cons] at h
    rw [Mem.write, ih _ _ (by omega), Mem.byte_store, if_neg (by omega)]

/-- A stored byte reads back. -/
theorem Mem.byte_write (m : Mem) (a : Nat) (bs : List Byte) (i : Nat) (h : i < bs.length) :
    (m.write a bs).byte (a + i) = bs[i] := by
  induction bs generalizing m a i with
  | nil => simp at h
  | cons b t ih =>
    rw [Mem.write]
    cases i with
    | zero => rw [Mem.byte_write_other _ _ _ _ (by omega), Mem.byte_store]; simp
    | succ i =>
      have := ih (m.store a b) (a + 1) i (by simpa using h)
      simpa [Nat.add_assoc, Nat.add_comm 1 i] using this

theorem Mem.store_wf {m : Mem} (a : Nat) (b : Byte) (h : m.wf = true) : (m.store a b).wf = true := by
  simp only [Mem.wf, Bool.and_eq_true, List.all_eq_true, decide_eq_true_eq] at h ⊢
  refine ⟨mwf_msetD a b 0 h.1, fun e he => ?_⟩
  unfold Mem.store msetD at he
  split at he
  · exact h.2 e (List.mem_filter.1 he).1
  · rename_i hb
    rcases mem_mset he with rfl | he
    · exact hb
    · exact h.2 e he

/-- Every write keeps the canonical form. -/
theorem Mem.write_wf {m : Mem} (a : Nat) (bs : List Byte) (h : m.wf = true) : (m.write a bs).wf = true := by
  induction bs generalizing m a with
  | nil => exact h
  | cons b t ih => exact ih _ (Mem.store_wf a b h)

theorem Mem.read_length (m : Mem) (a n : Nat) : (m.read a n).length = n := by simp [Mem.read]

/-- What was stored is read back whole. -/
theorem Mem.read_write (m : Mem) (a : Nat) (bs : List Byte) : (m.write a bs).read a bs.length = bs := by
  refine List.ext_getElem (by simp [Mem.read]) fun i h1 h2 => ?_
  simp only [Mem.read, List.getElem_map, List.getElem_range]
  exact Mem.byte_write m a bs i h2

end Sys2Proof.Machine
end

