-- ==== Sys2Proof/Laws/State.lean ====
section
/-! SUPPORT. Reading one part of the state after one named update: the part that the update changes, and every other part
as it was. All are true by definition. -/

namespace Sys2Proof.Machine

variable (s : State)

@[simp] theorem setWord_pending (off : Nat) (w : Word64) : (s.setWord off w).pending = s.pending := rfl
@[simp] theorem setWord_now (off : Nat) (w : Word64) : (s.setWord off w).now = s.now := rfl
@[simp] theorem setWord_frameStart (off : Nat) (w : Word64) : (s.setWord off w).frameStart = s.frameStart := rfl
@[simp] theorem setWord_freeCtr (off : Nat) (w : Word64) : (s.setWord off w).freeCtr = s.freeCtr := rfl
@[simp] theorem setWord_out (off : Nat) (w : Word64) : (s.setWord off w).out = s.out := rfl
@[simp] theorem setWord_held (off : Nat) (w : Word64) : (s.setWord off w).held = s.held := rfl
@[simp] theorem setWord_xlt (off : Nat) (w : Word64) : (s.setWord off w).xlt = s.xlt := rfl
@[simp] theorem setWord_ftm (off : Nat) (w : Word64) : (s.setWord off w).ftm = s.ftm := rfl
@[simp] theorem setWord_smc (off : Nat) (w : Word64) : (s.setWord off w).smc = s.smc := rfl
@[simp] theorem setWord_ecc (off : Nat) (w : Word64) : (s.setWord off w).ecc = s.ecc := rfl
@[simp] theorem setWord_crc (off : Nat) (w : Word64) : (s.setWord off w).crc = s.crc := rfl
@[simp] theorem setWord_acc (off : Nat) (w : Word64) : (s.setWord off w).acc = s.acc := rfl
@[simp] theorem setWord_prt (off : Nat) (w : Word64) : (s.setWord off w).prt = s.prt := rfl
@[simp] theorem setWord_qos (off : Nat) (w : Word64) : (s.setWord off w).qos = s.qos := rfl
@[simp] theorem setWord_parked (off : Nat) (w : Word64) : (s.setWord off w).parked = s.parked := rfl
@[simp] theorem setWord_dir (off : Nat) (w : Word64) : (s.setWord off w).dir = s.dir := rfl
@[simp] theorem setWord_par (off : Nat) (w : Word64) : (s.setWord off w).par = s.par := rfl
@[simp] theorem setWord_sec (off : Nat) (w : Word64) : (s.setWord off w).sec = s.sec := rfl
@[simp] theorem setWord_seq (off : Nat) (w : Word64) : (s.setWord off w).seq = s.seq := rfl
@[simp] theorem setWord_frd (off : Nat) (w : Word64) : (s.setWord off w).frd = s.frd := rfl
@[simp] theorem setWord_pfx (off : Nat) (w : Word64) : (s.setWord off w).pfx = s.pfx := rfl
@[simp] theorem setWord_syn (off : Nat) (w : Word64) : (s.setWord off w).syn = s.syn := rfl
@[simp] theorem setWord_net (off : Nat) (w : Word64) : (s.setWord off w).net = s.net := rfl
@[simp] theorem setWord_lmc (off : Nat) (w : Word64) : (s.setWord off w).lmc = s.lmc := rfl
@[simp] theorem setWord_thm (off : Nat) (w : Word64) : (s.setWord off w).thm = s.thm := rfl
@[simp] theorem setWord_pwr (off : Nat) (w : Word64) : (s.setWord off w).pwr = s.pwr := rfl
@[simp] theorem setWord_regWait (off : Nat) (w : Word64) : (s.setWord off w).regWait = s.regWait := rfl
@[simp] theorem setFld_pending (f : Fd) (v : Nat) : (s.setFld f v).pending = s.pending := rfl
@[simp] theorem setFld_now (f : Fd) (v : Nat) : (s.setFld f v).now = s.now := rfl
@[simp] theorem setFld_frameStart (f : Fd) (v : Nat) : (s.setFld f v).frameStart = s.frameStart := rfl
@[simp] theorem setFld_freeCtr (f : Fd) (v : Nat) : (s.setFld f v).freeCtr = s.freeCtr := rfl
@[simp] theorem setFld_out (f : Fd) (v : Nat) : (s.setFld f v).out = s.out := rfl
@[simp] theorem setFld_held (f : Fd) (v : Nat) : (s.setFld f v).held = s.held := rfl
@[simp] theorem setFld_xlt (f : Fd) (v : Nat) : (s.setFld f v).xlt = s.xlt := rfl
@[simp] theorem setFld_ftm (f : Fd) (v : Nat) : (s.setFld f v).ftm = s.ftm := rfl
@[simp] theorem setFld_smc (f : Fd) (v : Nat) : (s.setFld f v).smc = s.smc := rfl
@[simp] theorem setFld_ecc (f : Fd) (v : Nat) : (s.setFld f v).ecc = s.ecc := rfl
@[simp] theorem setFld_crc (f : Fd) (v : Nat) : (s.setFld f v).crc = s.crc := rfl
@[simp] theorem setFld_acc (f : Fd) (v : Nat) : (s.setFld f v).acc = s.acc := rfl
@[simp] theorem setFld_prt (f : Fd) (v : Nat) : (s.setFld f v).prt = s.prt := rfl
@[simp] theorem setFld_qos (f : Fd) (v : Nat) : (s.setFld f v).qos = s.qos := rfl
@[simp] theorem setFld_parked (f : Fd) (v : Nat) : (s.setFld f v).parked = s.parked := rfl
@[simp] theorem setFld_dir (f : Fd) (v : Nat) : (s.setFld f v).dir = s.dir := rfl
@[simp] theorem setFld_par (f : Fd) (v : Nat) : (s.setFld f v).par = s.par := rfl
@[simp] theorem setFld_sec (f : Fd) (v : Nat) : (s.setFld f v).sec = s.sec := rfl
@[simp] theorem setFld_seq (f : Fd) (v : Nat) : (s.setFld f v).seq = s.seq := rfl
@[simp] theorem setFld_frd (f : Fd) (v : Nat) : (s.setFld f v).frd = s.frd := rfl
@[simp] theorem setFld_pfx (f : Fd) (v : Nat) : (s.setFld f v).pfx = s.pfx := rfl
@[simp] theorem setFld_syn (f : Fd) (v : Nat) : (s.setFld f v).syn = s.syn := rfl
@[simp] theorem setFld_net (f : Fd) (v : Nat) : (s.setFld f v).net = s.net := rfl
@[simp] theorem setFld_lmc (f : Fd) (v : Nat) : (s.setFld f v).lmc = s.lmc := rfl
@[simp] theorem setFld_thm (f : Fd) (v : Nat) : (s.setFld f v).thm = s.thm := rfl
@[simp] theorem setFld_pwr (f : Fd) (v : Nat) : (s.setFld f v).pwr = s.pwr := rfl
@[simp] theorem setFld_regWait (f : Fd) (v : Nat) : (s.setFld f v).regWait = s.regWait := rfl
@[simp] theorem setHeldFld_pending (f : Fd) (v : Nat) : (s.setHeldFld f v).pending = s.pending := rfl
@[simp] theorem setHeldFld_now (f : Fd) (v : Nat) : (s.setHeldFld f v).now = s.now := rfl
@[simp] theorem setHeldFld_frameStart (f : Fd) (v : Nat) : (s.setHeldFld f v).frameStart = s.frameStart := rfl
@[simp] theorem setHeldFld_freeCtr (f : Fd) (v : Nat) : (s.setHeldFld f v).freeCtr = s.freeCtr := rfl
@[simp] theorem setHeldFld_out (f : Fd) (v : Nat) : (s.setHeldFld f v).out = s.out := rfl
@[simp] theorem setHeldFld_regs (f : Fd) (v : Nat) : (s.setHeldFld f v).regs = s.regs := rfl
@[simp] theorem setHeldFld_xlt (f : Fd) (v : Nat) : (s.setHeldFld f v).xlt = s.xlt := rfl
@[simp] theorem setHeldFld_ftm (f : Fd) (v : Nat) : (s.setHeldFld f v).ftm = s.ftm := rfl
@[simp] theorem setHeldFld_smc (f : Fd) (v : Nat) : (s.setHeldFld f v).smc = s.smc := rfl
@[simp] theorem setHeldFld_ecc (f : Fd) (v : Nat) : (s.setHeldFld f v).ecc = s.ecc := rfl
@[simp] theorem setHeldFld_crc (f : Fd) (v : Nat) : (s.setHeldFld f v).crc = s.crc := rfl
@[simp] theorem setHeldFld_acc (f : Fd) (v : Nat) : (s.setHeldFld f v).acc = s.acc := rfl
@[simp] theorem setHeldFld_prt (f : Fd) (v : Nat) : (s.setHeldFld f v).prt = s.prt := rfl
@[simp] theorem setHeldFld_qos (f : Fd) (v : Nat) : (s.setHeldFld f v).qos = s.qos := rfl
@[simp] theorem setHeldFld_parked (f : Fd) (v : Nat) : (s.setHeldFld f v).parked = s.parked := rfl
@[simp] theorem setHeldFld_dir (f : Fd) (v : Nat) : (s.setHeldFld f v).dir = s.dir := rfl
@[simp] theorem setHeldFld_par (f : Fd) (v : Nat) : (s.setHeldFld f v).par = s.par := rfl
@[simp] theorem setHeldFld_sec (f : Fd) (v : Nat) : (s.setHeldFld f v).sec = s.sec := rfl
@[simp] theorem setHeldFld_seq (f : Fd) (v : Nat) : (s.setHeldFld f v).seq = s.seq := rfl
@[simp] theorem setHeldFld_frd (f : Fd) (v : Nat) : (s.setHeldFld f v).frd = s.frd := rfl
@[simp] theorem setHeldFld_pfx (f : Fd) (v : Nat) : (s.setHeldFld f v).pfx = s.pfx := rfl
@[simp] theorem setHeldFld_syn (f : Fd) (v : Nat) : (s.setHeldFld f v).syn = s.syn := rfl
@[simp] theorem setHeldFld_net (f : Fd) (v : Nat) : (s.setHeldFld f v).net = s.net := rfl
@[simp] theorem setHeldFld_lmc (f : Fd) (v : Nat) : (s.setHeldFld f v).lmc = s.lmc := rfl
@[simp] theorem setHeldFld_thm (f : Fd) (v : Nat) : (s.setHeldFld f v).thm = s.thm := rfl
@[simp] theorem setHeldFld_pwr (f : Fd) (v : Nat) : (s.setHeldFld f v).pwr = s.pwr := rfl
@[simp] theorem setHeldFld_regWait (f : Fd) (v : Nat) : (s.setHeldFld f v).regWait = s.regWait := rfl
@[simp] theorem count_pending (f : Fd) (n : Nat) : (s.count f n).pending = s.pending := rfl
@[simp] theorem count_now (f : Fd) (n : Nat) : (s.count f n).now = s.now := rfl
@[simp] theorem count_frameStart (f : Fd) (n : Nat) : (s.count f n).frameStart = s.frameStart := rfl
@[simp] theorem count_freeCtr (f : Fd) (n : Nat) : (s.count f n).freeCtr = s.freeCtr := rfl
@[simp] theorem count_out (f : Fd) (n : Nat) : (s.count f n).out = s.out := rfl
@[simp] theorem count_held (f : Fd) (n : Nat) : (s.count f n).held = s.held := rfl
@[simp] theorem count_xlt (f : Fd) (n : Nat) : (s.count f n).xlt = s.xlt := rfl
@[simp] theorem count_ftm (f : Fd) (n : Nat) : (s.count f n).ftm = s.ftm := rfl
@[simp] theorem count_smc (f : Fd) (n : Nat) : (s.count f n).smc = s.smc := rfl
@[simp] theorem count_ecc (f : Fd) (n : Nat) : (s.count f n).ecc = s.ecc := rfl
@[simp] theorem count_crc (f : Fd) (n : Nat) : (s.count f n).crc = s.crc := rfl
@[simp] theorem count_acc (f : Fd) (n : Nat) : (s.count f n).acc = s.acc := rfl
@[simp] theorem count_prt (f : Fd) (n : Nat) : (s.count f n).prt = s.prt := rfl
@[simp] theorem count_qos (f : Fd) (n : Nat) : (s.count f n).qos = s.qos := rfl
@[simp] theorem count_parked (f : Fd) (n : Nat) : (s.count f n).parked = s.parked := rfl
@[simp] theorem count_dir (f : Fd) (n : Nat) : (s.count f n).dir = s.dir := rfl
@[simp] theorem count_par (f : Fd) (n : Nat) : (s.count f n).par = s.par := rfl
@[simp] theorem count_sec (f : Fd) (n : Nat) : (s.count f n).sec = s.sec := rfl
@[simp] theorem count_seq (f : Fd) (n : Nat) : (s.count f n).seq = s.seq := rfl
@[simp] theorem count_frd (f : Fd) (n : Nat) : (s.count f n).frd = s.frd := rfl
@[simp] theorem count_pfx (f : Fd) (n : Nat) : (s.count f n).pfx = s.pfx := rfl
@[simp] theorem count_syn (f : Fd) (n : Nat) : (s.count f n).syn = s.syn := rfl
@[simp] theorem count_net (f : Fd) (n : Nat) : (s.count f n).net = s.net := rfl
@[simp] theorem count_lmc (f : Fd) (n : Nat) : (s.count f n).lmc = s.lmc := rfl
@[simp] theorem count_thm (f : Fd) (n : Nat) : (s.count f n).thm = s.thm := rfl
@[simp] theorem count_pwr (f : Fd) (n : Nat) : (s.count f n).pwr = s.pwr := rfl
@[simp] theorem count_regWait (f : Fd) (n : Nat) : (s.count f n).regWait = s.regWait := rfl
@[simp] theorem countWrap_pending (f : Fd) (n : Nat) : (s.countWrap f n).pending = s.pending := rfl
@[simp] theorem countWrap_now (f : Fd) (n : Nat) : (s.countWrap f n).now = s.now := rfl
@[simp] theorem countWrap_frameStart (f : Fd) (n : Nat) : (s.countWrap f n).frameStart = s.frameStart := rfl
@[simp] theorem countWrap_freeCtr (f : Fd) (n : Nat) : (s.countWrap f n).freeCtr = s.freeCtr := rfl
@[simp] theorem countWrap_out (f : Fd) (n : Nat) : (s.countWrap f n).out = s.out := rfl
@[simp] theorem countWrap_held (f : Fd) (n : Nat) : (s.countWrap f n).held = s.held := rfl
@[simp] theorem countWrap_xlt (f : Fd) (n : Nat) : (s.countWrap f n).xlt = s.xlt := rfl
@[simp] theorem countWrap_ftm (f : Fd) (n : Nat) : (s.countWrap f n).ftm = s.ftm := rfl
@[simp] theorem countWrap_smc (f : Fd) (n : Nat) : (s.countWrap f n).smc = s.smc := rfl
@[simp] theorem countWrap_ecc (f : Fd) (n : Nat) : (s.countWrap f n).ecc = s.ecc := rfl
@[simp] theorem countWrap_crc (f : Fd) (n : Nat) : (s.countWrap f n).crc = s.crc := rfl
@[simp] theorem countWrap_acc (f : Fd) (n : Nat) : (s.countWrap f n).acc = s.acc := rfl
@[simp] theorem countWrap_prt (f : Fd) (n : Nat) : (s.countWrap f n).prt = s.prt := rfl
@[simp] theorem countWrap_qos (f : Fd) (n : Nat) : (s.countWrap f n).qos = s.qos := rfl
@[simp] theorem countWrap_parked (f : Fd) (n : Nat) : (s.countWrap f n).parked = s.parked := rfl
@[simp] theorem countWrap_dir (f : Fd) (n : Nat) : (s.countWrap f n).dir = s.dir := rfl
@[simp] theorem countWrap_par (f : Fd) (n : Nat) : (s.countWrap f n).par = s.par := rfl
@[simp] theorem countWrap_sec (f : Fd) (n : Nat) : (s.countWrap f n).sec = s.sec := rfl
@[simp] theorem countWrap_seq (f : Fd) (n : Nat) : (s.countWrap f n).seq = s.seq := rfl
@[simp] theorem countWrap_frd (f : Fd) (n : Nat) : (s.countWrap f n).frd = s.frd := rfl
@[simp] theorem countWrap_pfx (f : Fd) (n : Nat) : (s.countWrap f n).pfx = s.pfx := rfl
@[simp] theorem countWrap_syn (f : Fd) (n : Nat) : (s.countWrap f n).syn = s.syn := rfl
@[simp] theorem countWrap_net (f : Fd) (n : Nat) : (s.countWrap f n).net = s.net := rfl
@[simp] theorem countWrap_lmc (f : Fd) (n : Nat) : (s.countWrap f n).lmc = s.lmc := rfl
@[simp] theorem countWrap_thm (f : Fd) (n : Nat) : (s.countWrap f n).thm = s.thm := rfl
@[simp] theorem countWrap_pwr (f : Fd) (n : Nat) : (s.countWrap f n).pwr = s.pwr := rfl
@[simp] theorem countWrap_regWait (f : Fd) (n : Nat) : (s.countWrap f n).regWait = s.regWait := rfl
@[simp] theorem countMax_pending (f : Fd) (n : Nat) : (s.countMax f n).pending = s.pending := rfl
@[simp] theorem countMax_now (f : Fd) (n : Nat) : (s.countMax f n).now = s.now := rfl
@[simp] theorem countMax_frameStart (f : Fd) (n : Nat) : (s.countMax f n).frameStart = s.frameStart := rfl
@[simp] theorem countMax_freeCtr (f : Fd) (n : Nat) : (s.countMax f n).freeCtr = s.freeCtr := rfl
@[simp] theorem countMax_out (f : Fd) (n : Nat) : (s.countMax f n).out = s.out := rfl
@[simp] theorem countMax_held (f : Fd) (n : Nat) : (s.countMax f n).held = s.held := rfl
@[simp] theorem countMax_xlt (f : Fd) (n : Nat) : (s.countMax f n).xlt = s.xlt := rfl
@[simp] theorem countMax_ftm (f : Fd) (n : Nat) : (s.countMax f n).ftm = s.ftm := rfl
@[simp] theorem countMax_smc (f : Fd) (n : Nat) : (s.countMax f n).smc = s.smc := rfl
@[simp] theorem countMax_ecc (f : Fd) (n : Nat) : (s.countMax f n).ecc = s.ecc := rfl
@[simp] theorem countMax_crc (f : Fd) (n : Nat) : (s.countMax f n).crc = s.crc := rfl
@[simp] theorem countMax_acc (f : Fd) (n : Nat) : (s.countMax f n).acc = s.acc := rfl
@[simp] theorem countMax_prt (f : Fd) (n : Nat) : (s.countMax f n).prt = s.prt := rfl
@[simp] theorem countMax_qos (f : Fd) (n : Nat) : (s.countMax f n).qos = s.qos := rfl
@[simp] theorem countMax_parked (f : Fd) (n : Nat) : (s.countMax f n).parked = s.parked := rfl
@[simp] theorem countMax_dir (f : Fd) (n : Nat) : (s.countMax f n).dir = s.dir := rfl
@[simp] theorem countMax_par (f : Fd) (n : Nat) : (s.countMax f n).par = s.par := rfl
@[simp] theorem countMax_sec (f : Fd) (n : Nat) : (s.countMax f n).sec = s.sec := rfl
@[simp] theorem countMax_seq (f : Fd) (n : Nat) : (s.countMax f n).seq = s.seq := rfl
@[simp] theorem countMax_frd (f : Fd) (n : Nat) : (s.countMax f n).frd = s.frd := rfl
@[simp] theorem countMax_pfx (f : Fd) (n : Nat) : (s.countMax f n).pfx = s.pfx := rfl
@[simp] theorem countMax_syn (f : Fd) (n : Nat) : (s.countMax f n).syn = s.syn := rfl
@[simp] theorem countMax_net (f : Fd) (n : Nat) : (s.countMax f n).net = s.net := rfl
@[simp] theorem countMax_lmc (f : Fd) (n : Nat) : (s.countMax f n).lmc = s.lmc := rfl
@[simp] theorem countMax_thm (f : Fd) (n : Nat) : (s.countMax f n).thm = s.thm := rfl
@[simp] theorem countMax_pwr (f : Fd) (n : Nat) : (s.countMax f n).pwr = s.pwr := rfl
@[simp] theorem countMax_regWait (f : Fd) (n : Nat) : (s.countMax f n).regWait = s.regWait := rfl
@[simp] theorem raise_pending (page bit : Nat) : (s.raise page bit).pending = s.pending := rfl
@[simp] theorem raise_now (page bit : Nat) : (s.raise page bit).now = s.now := rfl
@[simp] theorem raise_frameStart (page bit : Nat) : (s.raise page bit).frameStart = s.frameStart := rfl
@[simp] theorem raise_freeCtr (page bit : Nat) : (s.raise page bit).freeCtr = s.freeCtr := rfl
@[simp] theorem raise_out (page bit : Nat) : (s.raise page bit).out = s.out := rfl
@[simp] theorem raise_held (page bit : Nat) : (s.raise page bit).held = s.held := rfl
@[simp] theorem raise_xlt (page bit : Nat) : (s.raise page bit).xlt = s.xlt := rfl
@[simp] theorem raise_ftm (page bit : Nat) : (s.raise page bit).ftm = s.ftm := rfl
@[simp] theorem raise_smc (page bit : Nat) : (s.raise page bit).smc = s.smc := rfl
@[simp] theorem raise_ecc (page bit : Nat) : (s.raise page bit).ecc = s.ecc := rfl
@[simp] theorem raise_crc (page bit : Nat) : (s.raise page bit).crc = s.crc := rfl
@[simp] theorem raise_acc (page bit : Nat) : (s.raise page bit).acc = s.acc := rfl
@[simp] theorem raise_prt (page bit : Nat) : (s.raise page bit).prt = s.prt := rfl
@[simp] theorem raise_qos (page bit : Nat) : (s.raise page bit).qos = s.qos := rfl
@[simp] theorem raise_parked (page bit : Nat) : (s.raise page bit).parked = s.parked := rfl
@[simp] theorem raise_dir (page bit : Nat) : (s.raise page bit).dir = s.dir := rfl
@[simp] theorem raise_par (page bit : Nat) : (s.raise page bit).par = s.par := rfl
@[simp] theorem raise_sec (page bit : Nat) : (s.raise page bit).sec = s.sec := rfl
@[simp] theorem raise_seq (page bit : Nat) : (s.raise page bit).seq = s.seq := rfl
@[simp] theorem raise_frd (page bit : Nat) : (s.raise page bit).frd = s.frd := rfl
@[simp] theorem raise_pfx (page bit : Nat) : (s.raise page bit).pfx = s.pfx := rfl
@[simp] theorem raise_syn (page bit : Nat) : (s.raise page bit).syn = s.syn := rfl
@[simp] theorem raise_net (page bit : Nat) : (s.raise page bit).net = s.net := rfl
@[simp] theorem raise_lmc (page bit : Nat) : (s.raise page bit).lmc = s.lmc := rfl
@[simp] theorem raise_thm (page bit : Nat) : (s.raise page bit).thm = s.thm := rfl
@[simp] theorem raise_pwr (page bit : Nat) : (s.raise page bit).pwr = s.pwr := rfl
@[simp] theorem raise_regWait (page bit : Nat) : (s.raise page bit).regWait = s.regWait := rfl
@[simp] theorem toTime_pending (t : Nat) : (s.toTime t).pending = s.pending := rfl
@[simp] theorem toTime_frameStart (t : Nat) : (s.toTime t).frameStart = s.frameStart := rfl
@[simp] theorem toTime_freeCtr (t : Nat) : (s.toTime t).freeCtr = s.freeCtr := rfl
@[simp] theorem toTime_out (t : Nat) : (s.toTime t).out = s.out := rfl
@[simp] theorem toTime_regs (t : Nat) : (s.toTime t).regs = s.regs := rfl
@[simp] theorem toTime_held (t : Nat) : (s.toTime t).held = s.held := rfl
@[simp] theorem toTime_xlt (t : Nat) : (s.toTime t).xlt = s.xlt := rfl
@[simp] theorem toTime_ftm (t : Nat) : (s.toTime t).ftm = s.ftm := rfl
@[simp] theorem toTime_smc (t : Nat) : (s.toTime t).smc = s.smc := rfl
@[simp] theorem toTime_ecc (t : Nat) : (s.toTime t).ecc = s.ecc := rfl
@[simp] theorem toTime_crc (t : Nat) : (s.toTime t).crc = s.crc := rfl
@[simp] theorem toTime_acc (t : Nat) : (s.toTime t).acc = s.acc := rfl
@[simp] theorem toTime_prt (t : Nat) : (s.toTime t).prt = s.prt := rfl
@[simp] theorem toTime_qos (t : Nat) : (s.toTime t).qos = s.qos := rfl
@[simp] theorem toTime_parked (t : Nat) : (s.toTime t).parked = s.parked := rfl
@[simp] theorem toTime_dir (t : Nat) : (s.toTime t).dir = s.dir := rfl
@[simp] theorem toTime_par (t : Nat) : (s.toTime t).par = s.par := rfl
@[simp] theorem toTime_sec (t : Nat) : (s.toTime t).sec = s.sec := rfl
@[simp] theorem toTime_seq (t : Nat) : (s.toTime t).seq = s.seq := rfl
@[simp] theorem toTime_frd (t : Nat) : (s.toTime t).frd = s.frd := rfl
@[simp] theorem toTime_pfx (t : Nat) : (s.toTime t).pfx = s.pfx := rfl
@[simp] theorem toTime_syn (t : Nat) : (s.toTime t).syn = s.syn := rfl
@[simp] theorem toTime_net (t : Nat) : (s.toTime t).net = s.net := rfl
@[simp] theorem toTime_lmc (t : Nat) : (s.toTime t).lmc = s.lmc := rfl
@[simp] theorem toTime_thm (t : Nat) : (s.toTime t).thm = s.thm := rfl
@[simp] theorem toTime_pwr (t : Nat) : (s.toTime t).pwr = s.pwr := rfl
@[simp] theorem toTime_regWait (t : Nat) : (s.toTime t).regWait = s.regWait := rfl
@[simp] theorem tick_pending : (s.tick).pending = s.pending := rfl
@[simp] theorem tick_now : (s.tick).now = s.now := rfl
@[simp] theorem tick_frameStart : (s.tick).frameStart = s.frameStart := rfl
@[simp] theorem tick_out : (s.tick).out = s.out := rfl
@[simp] theorem tick_regs : (s.tick).regs = s.regs := rfl
@[simp] theorem tick_held : (s.tick).held = s.held := rfl
@[simp] theorem tick_xlt : (s.tick).xlt = s.xlt := rfl
@[simp] theorem tick_ftm : (s.tick).ftm = s.ftm := rfl
@[simp] theorem tick_smc : (s.tick).smc = s.smc := rfl
@[simp] theorem tick_ecc : (s.tick).ecc = s.ecc := rfl
@[simp] theorem tick_crc : (s.tick).crc = s.crc := rfl
@[simp] theorem tick_acc : (s.tick).acc = s.acc := rfl
@[simp] theorem tick_prt : (s.tick).prt = s.prt := rfl
@[simp] theorem tick_qos : (s.tick).qos = s.qos := rfl
@[simp] theorem tick_parked : (s.tick).parked = s.parked := rfl
@[simp] theorem tick_dir : (s.tick).dir = s.dir := rfl
@[simp] theorem tick_par : (s.tick).par = s.par := rfl
@[simp] theorem tick_sec : (s.tick).sec = s.sec := rfl
@[simp] theorem tick_seq : (s.tick).seq = s.seq := rfl
@[simp] theorem tick_frd : (s.tick).frd = s.frd := rfl
@[simp] theorem tick_pfx : (s.tick).pfx = s.pfx := rfl
@[simp] theorem tick_syn : (s.tick).syn = s.syn := rfl
@[simp] theorem tick_net : (s.tick).net = s.net := rfl
@[simp] theorem tick_lmc : (s.tick).lmc = s.lmc := rfl
@[simp] theorem tick_thm : (s.tick).thm = s.thm := rfl
@[simp] theorem tick_pwr : (s.tick).pwr = s.pwr := rfl
@[simp] theorem tick_regWait : (s.tick).regWait = s.regWait := rfl
@[simp] theorem emit_pending (x : Sent) : (s.emit x).pending = s.pending := rfl
@[simp] theorem emit_now (x : Sent) : (s.emit x).now = s.now := rfl
@[simp] theorem emit_frameStart (x : Sent) : (s.emit x).frameStart = s.frameStart := rfl
@[simp] theorem emit_freeCtr (x : Sent) : (s.emit x).freeCtr = s.freeCtr := rfl
@[simp] theorem emit_regs (x : Sent) : (s.emit x).regs = s.regs := rfl
@[simp] theorem emit_held (x : Sent) : (s.emit x).held = s.held := rfl
@[simp] theorem emit_xlt (x : Sent) : (s.emit x).xlt = s.xlt := rfl
@[simp] theorem emit_ftm (x : Sent) : (s.emit x).ftm = s.ftm := rfl
@[simp] theorem emit_smc (x : Sent) : (s.emit x).smc = s.smc := rfl
@[simp] theorem emit_ecc (x : Sent) : (s.emit x).ecc = s.ecc := rfl
@[simp] theorem emit_crc (x : Sent) : (s.emit x).crc = s.crc := rfl
@[simp] theorem emit_acc (x : Sent) : (s.emit x).acc = s.acc := rfl
@[simp] theorem emit_prt (x : Sent) : (s.emit x).prt = s.prt := rfl
@[simp] theorem emit_qos (x : Sent) : (s.emit x).qos = s.qos := rfl
@[simp] theorem emit_parked (x : Sent) : (s.emit x).parked = s.parked := rfl
@[simp] theorem emit_dir (x : Sent) : (s.emit x).dir = s.dir := rfl
@[simp] theorem emit_par (x : Sent) : (s.emit x).par = s.par := rfl
@[simp] theorem emit_sec (x : Sent) : (s.emit x).sec = s.sec := rfl
@[simp] theorem emit_seq (x : Sent) : (s.emit x).seq = s.seq := rfl
@[simp] theorem emit_frd (x : Sent) : (s.emit x).frd = s.frd := rfl
@[simp] theorem emit_pfx (x : Sent) : (s.emit x).pfx = s.pfx := rfl
@[simp] theorem emit_syn (x : Sent) : (s.emit x).syn = s.syn := rfl
@[simp] theorem emit_net (x : Sent) : (s.emit x).net = s.net := rfl
@[simp] theorem emit_lmc (x : Sent) : (s.emit x).lmc = s.lmc := rfl
@[simp] theorem emit_thm (x : Sent) : (s.emit x).thm = s.thm := rfl
@[simp] theorem emit_pwr (x : Sent) : (s.emit x).pwr = s.pwr := rfl
@[simp] theorem emit_regWait (x : Sent) : (s.emit x).regWait = s.regWait := rfl
@[simp] theorem xltUp_pending (f : Xlt → Xlt) : (s.xltUp f).pending = s.pending := rfl
@[simp] theorem xltUp_now (f : Xlt → Xlt) : (s.xltUp f).now = s.now := rfl
@[simp] theorem xltUp_frameStart (f : Xlt → Xlt) : (s.xltUp f).frameStart = s.frameStart := rfl
@[simp] theorem xltUp_freeCtr (f : Xlt → Xlt) : (s.xltUp f).freeCtr = s.freeCtr := rfl
@[simp] theorem xltUp_out (f : Xlt → Xlt) : (s.xltUp f).out = s.out := rfl
@[simp] theorem xltUp_regs (f : Xlt → Xlt) : (s.xltUp f).regs = s.regs := rfl
@[simp] theorem xltUp_held (f : Xlt → Xlt) : (s.xltUp f).held = s.held := rfl
@[simp] theorem xltUp_xlt (f : Xlt → Xlt) : (s.xltUp f).xlt = f s.xlt := rfl
@[simp] theorem xltUp_ftm (f : Xlt → Xlt) : (s.xltUp f).ftm = s.ftm := rfl
@[simp] theorem xltUp_smc (f : Xlt → Xlt) : (s.xltUp f).smc = s.smc := rfl
@[simp] theorem xltUp_ecc (f : Xlt → Xlt) : (s.xltUp f).ecc = s.ecc := rfl
@[simp] theorem xltUp_crc (f : Xlt → Xlt) : (s.xltUp f).crc = s.crc := rfl
@[simp] theorem xltUp_acc (f : Xlt → Xlt) : (s.xltUp f).acc = s.acc := rfl
@[simp] theorem xltUp_prt (f : Xlt → Xlt) : (s.xltUp f).prt = s.prt := rfl
@[simp] theorem xltUp_qos (f : Xlt → Xlt) : (s.xltUp f).qos = s.qos := rfl
@[simp] theorem xltUp_parked (f : Xlt → Xlt) : (s.xltUp f).parked = s.parked := rfl
@[simp] theorem xltUp_dir (f : Xlt → Xlt) : (s.xltUp f).dir = s.dir := rfl
@[simp] theorem xltUp_par (f : Xlt → Xlt) : (s.xltUp f).par = s.par := rfl
@[simp] theorem xltUp_sec (f : Xlt → Xlt) : (s.xltUp f).sec = s.sec := rfl
@[simp] theorem xltUp_seq (f : Xlt → Xlt) : (s.xltUp f).seq = s.seq := rfl
@[simp] theorem xltUp_frd (f : Xlt → Xlt) : (s.xltUp f).frd = s.frd := rfl
@[simp] theorem xltUp_pfx (f : Xlt → Xlt) : (s.xltUp f).pfx = s.pfx := rfl
@[simp] theorem xltUp_syn (f : Xlt → Xlt) : (s.xltUp f).syn = s.syn := rfl
@[simp] theorem xltUp_net (f : Xlt → Xlt) : (s.xltUp f).net = s.net := rfl
@[simp] theorem xltUp_lmc (f : Xlt → Xlt) : (s.xltUp f).lmc = s.lmc := rfl
@[simp] theorem xltUp_thm (f : Xlt → Xlt) : (s.xltUp f).thm = s.thm := rfl
@[simp] theorem xltUp_pwr (f : Xlt → Xlt) : (s.xltUp f).pwr = s.pwr := rfl
@[simp] theorem xltUp_regWait (f : Xlt → Xlt) : (s.xltUp f).regWait = s.regWait := rfl
@[simp] theorem ftmUp_pending (f : Ftm → Ftm) : (s.ftmUp f).pending = s.pending := rfl
@[simp] theorem ftmUp_now (f : Ftm → Ftm) : (s.ftmUp f).now = s.now := rfl
@[simp] theorem ftmUp_frameStart (f : Ftm → Ftm) : (s.ftmUp f).frameStart = s.frameStart := rfl
@[simp] theorem ftmUp_freeCtr (f : Ftm → Ftm) : (s.ftmUp f).freeCtr = s.freeCtr := rfl
@[simp] theorem ftmUp_out (f : Ftm → Ftm) : (s.ftmUp f).out = s.out := rfl
@[simp] theorem ftmUp_regs (f : Ftm → Ftm) : (s.ftmUp f).regs = s.regs := rfl
@[simp] theorem ftmUp_held (f : Ftm → Ftm) : (s.ftmUp f).held = s.held := rfl
@[simp] theorem ftmUp_xlt (f : Ftm → Ftm) : (s.ftmUp f).xlt = s.xlt := rfl
@[simp] theorem ftmUp_ftm (f : Ftm → Ftm) : (s.ftmUp f).ftm = f s.ftm := rfl
@[simp] theorem ftmUp_smc (f : Ftm → Ftm) : (s.ftmUp f).smc = s.smc := rfl
@[simp] theorem ftmUp_ecc (f : Ftm → Ftm) : (s.ftmUp f).ecc = s.ecc := rfl
@[simp] theorem ftmUp_crc (f : Ftm → Ftm) : (s.ftmUp f).crc = s.crc := rfl
@[simp] theorem ftmUp_acc (f : Ftm → Ftm) : (s.ftmUp f).acc = s.acc := rfl
@[simp] theorem ftmUp_prt (f : Ftm → Ftm) : (s.ftmUp f).prt = s.prt := rfl
@[simp] theorem ftmUp_qos (f : Ftm → Ftm) : (s.ftmUp f).qos = s.qos := rfl
@[simp] theorem ftmUp_parked (f : Ftm → Ftm) : (s.ftmUp f).parked = s.parked := rfl
@[simp] theorem ftmUp_dir (f : Ftm → Ftm) : (s.ftmUp f).dir = s.dir := rfl
@[simp] theorem ftmUp_par (f : Ftm → Ftm) : (s.ftmUp f).par = s.par := rfl
@[simp] theorem ftmUp_sec (f : Ftm → Ftm) : (s.ftmUp f).sec = s.sec := rfl
@[simp] theorem ftmUp_seq (f : Ftm → Ftm) : (s.ftmUp f).seq = s.seq := rfl
@[simp] theorem ftmUp_frd (f : Ftm → Ftm) : (s.ftmUp f).frd = s.frd := rfl
@[simp] theorem ftmUp_pfx (f : Ftm → Ftm) : (s.ftmUp f).pfx = s.pfx := rfl
@[simp] theorem ftmUp_syn (f : Ftm → Ftm) : (s.ftmUp f).syn = s.syn := rfl
@[simp] theorem ftmUp_net (f : Ftm → Ftm) : (s.ftmUp f).net = s.net := rfl
@[simp] theorem ftmUp_lmc (f : Ftm → Ftm) : (s.ftmUp f).lmc = s.lmc := rfl
@[simp] theorem ftmUp_thm (f : Ftm → Ftm) : (s.ftmUp f).thm = s.thm := rfl
@[simp] theorem ftmUp_pwr (f : Ftm → Ftm) : (s.ftmUp f).pwr = s.pwr := rfl
@[simp] theorem ftmUp_regWait (f : Ftm → Ftm) : (s.ftmUp f).regWait = s.regWait := rfl
@[simp] theorem smcUp_pending (f : Smc → Smc) : (s.smcUp f).pending = s.pending := rfl
@[simp] theorem smcUp_now (f : Smc → Smc) : (s.smcUp f).now = s.now := rfl
@[simp] theorem smcUp_frameStart (f : Smc → Smc) : (s.smcUp f).frameStart = s.frameStart := rfl
@[simp] theorem smcUp_freeCtr (f : Smc → Smc) : (s.smcUp f).freeCtr = s.freeCtr := rfl
@[simp] theorem smcUp_out (f : Smc → Smc) : (s.smcUp f).out = s.out := rfl
@[simp] theorem smcUp_regs (f : Smc → Smc) : (s.smcUp f).regs = s.regs := rfl
@[simp] theorem smcUp_held (f : Smc → Smc) : (s.smcUp f).held = s.held := rfl
@[simp] theorem smcUp_xlt (f : Smc → Smc) : (s.smcUp f).xlt = s.xlt := rfl
@[simp] theorem smcUp_ftm (f : Smc → Smc) : (s.smcUp f).ftm = s.ftm := rfl
@[simp] theorem smcUp_smc (f : Smc → Smc) : (s.smcUp f).smc = f s.smc := rfl
@[simp] theorem smcUp_ecc (f : Smc → Smc) : (s.smcUp f).ecc = s.ecc := rfl
@[simp] theorem smcUp_crc (f : Smc → Smc) : (s.smcUp f).crc = s.crc := rfl
@[simp] theorem smcUp_acc (f : Smc → Smc) : (s.smcUp f).acc = s.acc := rfl
@[simp] theorem smcUp_prt (f : Smc → Smc) : (s.smcUp f).prt = s.prt := rfl
@[simp] theorem smcUp_qos (f : Smc → Smc) : (s.smcUp f).qos = s.qos := rfl
@[simp] theorem smcUp_parked (f : Smc → Smc) : (s.smcUp f).parked = s.parked := rfl
@[simp] theorem smcUp_dir (f : Smc → Smc) : (s.smcUp f).dir = s.dir := rfl
@[simp] theorem smcUp_par (f : Smc → Smc) : (s.smcUp f).par = s.par := rfl
@[simp] theorem smcUp_sec (f : Smc → Smc) : (s.smcUp f).sec = s.sec := rfl
@[simp] theorem smcUp_seq (f : Smc → Smc) : (s.smcUp f).seq = s.seq := rfl
@[simp] theorem smcUp_frd (f : Smc → Smc) : (s.smcUp f).frd = s.frd := rfl
@[simp] theorem smcUp_pfx (f : Smc → Smc) : (s.smcUp f).pfx = s.pfx := rfl
@[simp] theorem smcUp_syn (f : Smc → Smc) : (s.smcUp f).syn = s.syn := rfl
@[simp] theorem smcUp_net (f : Smc → Smc) : (s.smcUp f).net = s.net := rfl
@[simp] theorem smcUp_lmc (f : Smc → Smc) : (s.smcUp f).lmc = s.lmc := rfl
@[simp] theorem smcUp_thm (f : Smc → Smc) : (s.smcUp f).thm = s.thm := rfl
@[simp] theorem smcUp_pwr (f : Smc → Smc) : (s.smcUp f).pwr = s.pwr := rfl
@[simp] theorem smcUp_regWait (f : Smc → Smc) : (s.smcUp f).regWait = s.regWait := rfl
@[simp] theorem eccUp_pending (f : Ecc → Ecc) : (s.eccUp f).pending = s.pending := rfl
@[simp] theorem eccUp_now (f : Ecc → Ecc) : (s.eccUp f).now = s.now := rfl
@[simp] theorem eccUp_frameStart (f : Ecc → Ecc) : (s.eccUp f).frameStart = s.frameStart := rfl
@[simp] theorem eccUp_freeCtr (f : Ecc → Ecc) : (s.eccUp f).freeCtr = s.freeCtr := rfl
@[simp] theorem eccUp_out (f : Ecc → Ecc) : (s.eccUp f).out = s.out := rfl
@[simp] theorem eccUp_regs (f : Ecc → Ecc) : (s.eccUp f).regs = s.regs := rfl
@[simp] theorem eccUp_held (f : Ecc → Ecc) : (s.eccUp f).held = s.held := rfl
@[simp] theorem eccUp_xlt (f : Ecc → Ecc) : (s.eccUp f).xlt = s.xlt := rfl
@[simp] theorem eccUp_ftm (f : Ecc → Ecc) : (s.eccUp f).ftm = s.ftm := rfl
@[simp] theorem eccUp_smc (f : Ecc → Ecc) : (s.eccUp f).smc = s.smc := rfl
@[simp] theorem eccUp_ecc (f : Ecc → Ecc) : (s.eccUp f).ecc = f s.ecc := rfl
@[simp] theorem eccUp_crc (f : Ecc → Ecc) : (s.eccUp f).crc = s.crc := rfl
@[simp] theorem eccUp_acc (f : Ecc → Ecc) : (s.eccUp f).acc = s.acc := rfl
@[simp] theorem eccUp_prt (f : Ecc → Ecc) : (s.eccUp f).prt = s.prt := rfl
@[simp] theorem eccUp_qos (f : Ecc → Ecc) : (s.eccUp f).qos = s.qos := rfl
@[simp] theorem eccUp_parked (f : Ecc → Ecc) : (s.eccUp f).parked = s.parked := rfl
@[simp] theorem eccUp_dir (f : Ecc → Ecc) : (s.eccUp f).dir = s.dir := rfl
@[simp] theorem eccUp_par (f : Ecc → Ecc) : (s.eccUp f).par = s.par := rfl
@[simp] theorem eccUp_sec (f : Ecc → Ecc) : (s.eccUp f).sec = s.sec := rfl
@[simp] theorem eccUp_seq (f : Ecc → Ecc) : (s.eccUp f).seq = s.seq := rfl
@[simp] theorem eccUp_frd (f : Ecc → Ecc) : (s.eccUp f).frd = s.frd := rfl
@[simp] theorem eccUp_pfx (f : Ecc → Ecc) : (s.eccUp f).pfx = s.pfx := rfl
@[simp] theorem eccUp_syn (f : Ecc → Ecc) : (s.eccUp f).syn = s.syn := rfl
@[simp] theorem eccUp_net (f : Ecc → Ecc) : (s.eccUp f).net = s.net := rfl
@[simp] theorem eccUp_lmc (f : Ecc → Ecc) : (s.eccUp f).lmc = s.lmc := rfl
@[simp] theorem eccUp_thm (f : Ecc → Ecc) : (s.eccUp f).thm = s.thm := rfl
@[simp] theorem eccUp_pwr (f : Ecc → Ecc) : (s.eccUp f).pwr = s.pwr := rfl
@[simp] theorem eccUp_regWait (f : Ecc → Ecc) : (s.eccUp f).regWait = s.regWait := rfl
@[simp] theorem accUp_pending (f : Acc6 → Acc6) : (s.accUp f).pending = s.pending := rfl
@[simp] theorem accUp_now (f : Acc6 → Acc6) : (s.accUp f).now = s.now := rfl
@[simp] theorem accUp_frameStart (f : Acc6 → Acc6) : (s.accUp f).frameStart = s.frameStart := rfl
@[simp] theorem accUp_freeCtr (f : Acc6 → Acc6) : (s.accUp f).freeCtr = s.freeCtr := rfl
@[simp] theorem accUp_out (f : Acc6 → Acc6) : (s.accUp f).out = s.out := rfl
@[simp] theorem accUp_regs (f : Acc6 → Acc6) : (s.accUp f).regs = s.regs := rfl
@[simp] theorem accUp_held (f : Acc6 → Acc6) : (s.accUp f).held = s.held := rfl
@[simp] theorem accUp_xlt (f : Acc6 → Acc6) : (s.accUp f).xlt = s.xlt := rfl
@[simp] theorem accUp_ftm (f : Acc6 → Acc6) : (s.accUp f).ftm = s.ftm := rfl
@[simp] theorem accUp_smc (f : Acc6 → Acc6) : (s.accUp f).smc = s.smc := rfl
@[simp] theorem accUp_ecc (f : Acc6 → Acc6) : (s.accUp f).ecc = s.ecc := rfl
@[simp] theorem accUp_crc (f : Acc6 → Acc6) : (s.accUp f).crc = s.crc := rfl
@[simp] theorem accUp_acc (f : Acc6 → Acc6) : (s.accUp f).acc = f s.acc := rfl
@[simp] theorem accUp_prt (f : Acc6 → Acc6) : (s.accUp f).prt = s.prt := rfl
@[simp] theorem accUp_qos (f : Acc6 → Acc6) : (s.accUp f).qos = s.qos := rfl
@[simp] theorem accUp_parked (f : Acc6 → Acc6) : (s.accUp f).parked = s.parked := rfl
@[simp] theorem accUp_dir (f : Acc6 → Acc6) : (s.accUp f).dir = s.dir := rfl
@[simp] theorem accUp_par (f : Acc6 → Acc6) : (s.accUp f).par = s.par := rfl
@[simp] theorem accUp_sec (f : Acc6 → Acc6) : (s.accUp f).sec = s.sec := rfl
@[simp] theorem accUp_seq (f : Acc6 → Acc6) : (s.accUp f).seq = s.seq := rfl
@[simp] theorem accUp_frd (f : Acc6 → Acc6) : (s.accUp f).frd = s.frd := rfl
@[simp] theorem accUp_pfx (f : Acc6 → Acc6) : (s.accUp f).pfx = s.pfx := rfl
@[simp] theorem accUp_syn (f : Acc6 → Acc6) : (s.accUp f).syn = s.syn := rfl
@[simp] theorem accUp_net (f : Acc6 → Acc6) : (s.accUp f).net = s.net := rfl
@[simp] theorem accUp_lmc (f : Acc6 → Acc6) : (s.accUp f).lmc = s.lmc := rfl
@[simp] theorem accUp_thm (f : Acc6 → Acc6) : (s.accUp f).thm = s.thm := rfl
@[simp] theorem accUp_pwr (f : Acc6 → Acc6) : (s.accUp f).pwr = s.pwr := rfl
@[simp] theorem accUp_regWait (f : Acc6 → Acc6) : (s.accUp f).regWait = s.regWait := rfl
@[simp] theorem prtUp_pending (f : Prt → Prt) : (s.prtUp f).pending = s.pending := rfl
@[simp] theorem prtUp_now (f : Prt → Prt) : (s.prtUp f).now = s.now := rfl
@[simp] theorem prtUp_frameStart (f : Prt → Prt) : (s.prtUp f).frameStart = s.frameStart := rfl
@[simp] theorem prtUp_freeCtr (f : Prt → Prt) : (s.prtUp f).freeCtr = s.freeCtr := rfl
@[simp] theorem prtUp_out (f : Prt → Prt) : (s.prtUp f).out = s.out := rfl
@[simp] theorem prtUp_regs (f : Prt → Prt) : (s.prtUp f).regs = s.regs := rfl
@[simp] theorem prtUp_held (f : Prt → Prt) : (s.prtUp f).held = s.held := rfl
@[simp] theorem prtUp_xlt (f : Prt → Prt) : (s.prtUp f).xlt = s.xlt := rfl
@[simp] theorem prtUp_ftm (f : Prt → Prt) : (s.prtUp f).ftm = s.ftm := rfl
@[simp] theorem prtUp_smc (f : Prt → Prt) : (s.prtUp f).smc = s.smc := rfl
@[simp] theorem prtUp_ecc (f : Prt → Prt) : (s.prtUp f).ecc = s.ecc := rfl
@[simp] theorem prtUp_crc (f : Prt → Prt) : (s.prtUp f).crc = s.crc := rfl
@[simp] theorem prtUp_acc (f : Prt → Prt) : (s.prtUp f).acc = s.acc := rfl
@[simp] theorem prtUp_prt (f : Prt → Prt) : (s.prtUp f).prt = f s.prt := rfl
@[simp] theorem prtUp_qos (f : Prt → Prt) : (s.prtUp f).qos = s.qos := rfl
@[simp] theorem prtUp_parked (f : Prt → Prt) : (s.prtUp f).parked = s.parked := rfl
@[simp] theorem prtUp_dir (f : Prt → Prt) : (s.prtUp f).dir = s.dir := rfl
@[simp] theorem prtUp_par (f : Prt → Prt) : (s.prtUp f).par = s.par := rfl
@[simp] theorem prtUp_sec (f : Prt → Prt) : (s.prtUp f).sec = s.sec := rfl
@[simp] theorem prtUp_seq (f : Prt → Prt) : (s.prtUp f).seq = s.seq := rfl
@[simp] theorem prtUp_frd (f : Prt → Prt) : (s.prtUp f).frd = s.frd := rfl
@[simp] theorem prtUp_pfx (f : Prt → Prt) : (s.prtUp f).pfx = s.pfx := rfl
@[simp] theorem prtUp_syn (f : Prt → Prt) : (s.prtUp f).syn = s.syn := rfl
@[simp] theorem prtUp_net (f : Prt → Prt) : (s.prtUp f).net = s.net := rfl
@[simp] theorem prtUp_lmc (f : Prt → Prt) : (s.prtUp f).lmc = s.lmc := rfl
@[simp] theorem prtUp_thm (f : Prt → Prt) : (s.prtUp f).thm = s.thm := rfl
@[simp] theorem prtUp_pwr (f : Prt → Prt) : (s.prtUp f).pwr = s.pwr := rfl
@[simp] theorem prtUp_regWait (f : Prt → Prt) : (s.prtUp f).regWait = s.regWait := rfl
@[simp] theorem qosUp_pending (f : Qos → Qos) : (s.qosUp f).pending = s.pending := rfl
@[simp] theorem qosUp_now (f : Qos → Qos) : (s.qosUp f).now = s.now := rfl
@[simp] theorem qosUp_frameStart (f : Qos → Qos) : (s.qosUp f).frameStart = s.frameStart := rfl
@[simp] theorem qosUp_freeCtr (f : Qos → Qos) : (s.qosUp f).freeCtr = s.freeCtr := rfl
@[simp] theorem qosUp_out (f : Qos → Qos) : (s.qosUp f).out = s.out := rfl
@[simp] theorem qosUp_regs (f : Qos → Qos) : (s.qosUp f).regs = s.regs := rfl
@[simp] theorem qosUp_held (f : Qos → Qos) : (s.qosUp f).held = s.held := rfl
@[simp] theorem qosUp_xlt (f : Qos → Qos) : (s.qosUp f).xlt = s.xlt := rfl
@[simp] theorem qosUp_ftm (f : Qos → Qos) : (s.qosUp f).ftm = s.ftm := rfl
@[simp] theorem qosUp_smc (f : Qos → Qos) : (s.qosUp f).smc = s.smc := rfl
@[simp] theorem qosUp_ecc (f : Qos → Qos) : (s.qosUp f).ecc = s.ecc := rfl
@[simp] theorem qosUp_crc (f : Qos → Qos) : (s.qosUp f).crc = s.crc := rfl
@[simp] theorem qosUp_acc (f : Qos → Qos) : (s.qosUp f).acc = s.acc := rfl
@[simp] theorem qosUp_prt (f : Qos → Qos) : (s.qosUp f).prt = s.prt := rfl
@[simp] theorem qosUp_qos (f : Qos → Qos) : (s.qosUp f).qos = f s.qos := rfl
@[simp] theorem qosUp_parked (f : Qos → Qos) : (s.qosUp f).parked = s.parked := rfl
@[simp] theorem qosUp_dir (f : Qos → Qos) : (s.qosUp f).dir = s.dir := rfl
@[simp] theorem qosUp_par (f : Qos → Qos) : (s.qosUp f).par = s.par := rfl
@[simp] theorem qosUp_sec (f : Qos → Qos) : (s.qosUp f).sec = s.sec := rfl
@[simp] theorem qosUp_seq (f : Qos → Qos) : (s.qosUp f).seq = s.seq := rfl
@[simp] theorem qosUp_frd (f : Qos → Qos) : (s.qosUp f).frd = s.frd := rfl
@[simp] theorem qosUp_pfx (f : Qos → Qos) : (s.qosUp f).pfx = s.pfx := rfl
@[simp] theorem qosUp_syn (f : Qos → Qos) : (s.qosUp f).syn = s.syn := rfl
@[simp] theorem qosUp_net (f : Qos → Qos) : (s.qosUp f).net = s.net := rfl
@[simp] theorem qosUp_lmc (f : Qos → Qos) : (s.qosUp f).lmc = s.lmc := rfl
@[simp] theorem qosUp_thm (f : Qos → Qos) : (s.qosUp f).thm = s.thm := rfl
@[simp] theorem qosUp_pwr (f : Qos → Qos) : (s.qosUp f).pwr = s.pwr := rfl
@[simp] theorem qosUp_regWait (f : Qos → Qos) : (s.qosUp f).regWait = s.regWait := rfl
@[simp] theorem dirUp_pending (f : Dir → Dir) : (s.dirUp f).pending = s.pending := rfl
@[simp] theorem dirUp_now (f : Dir → Dir) : (s.dirUp f).now = s.now := rfl
@[simp] theorem dirUp_frameStart (f : Dir → Dir) : (s.dirUp f).frameStart = s.frameStart := rfl
@[simp] theorem dirUp_freeCtr (f : Dir → Dir) : (s.dirUp f).freeCtr = s.freeCtr := rfl
@[simp] theorem dirUp_out (f : Dir → Dir) : (s.dirUp f).out = s.out := rfl
@[simp] theorem dirUp_regs (f : Dir → Dir) : (s.dirUp f).regs = s.regs := rfl
@[simp] theorem dirUp_held (f : Dir → Dir) : (s.dirUp f).held = s.held := rfl
@[simp] theorem dirUp_xlt (f : Dir → Dir) : (s.dirUp f).xlt = s.xlt := rfl
@[simp] theorem dirUp_ftm (f : Dir → Dir) : (s.dirUp f).ftm = s.ftm := rfl
@[simp] theorem dirUp_smc (f : Dir → Dir) : (s.dirUp f).smc = s.smc := rfl
@[simp] theorem dirUp_ecc (f : Dir → Dir) : (s.dirUp f).ecc = s.ecc := rfl
@[simp] theorem dirUp_crc (f : Dir → Dir) : (s.dirUp f).crc = s.crc := rfl
@[simp] theorem dirUp_acc (f : Dir → Dir) : (s.dirUp f).acc = s.acc := rfl
@[simp] theorem dirUp_prt (f : Dir → Dir) : (s.dirUp f).prt = s.prt := rfl
@[simp] theorem dirUp_qos (f : Dir → Dir) : (s.dirUp f).qos = s.qos := rfl
@[simp] theorem dirUp_parked (f : Dir → Dir) : (s.dirUp f).parked = s.parked := rfl
@[simp] theorem dirUp_dir (f : Dir → Dir) : (s.dirUp f).dir = f s.dir := rfl
@[simp] theorem dirUp_par (f : Dir → Dir) : (s.dirUp f).par = s.par := rfl
@[simp] theorem dirUp_sec (f : Dir → Dir) : (s.dirUp f).sec = s.sec := rfl
@[simp] theorem dirUp_seq (f : Dir → Dir) : (s.dirUp f).seq = s.seq := rfl
@[simp] theorem dirUp_frd (f : Dir → Dir) : (s.dirUp f).frd = s.frd := rfl
@[simp] theorem dirUp_pfx (f : Dir → Dir) : (s.dirUp f).pfx = s.pfx := rfl
@[simp] theorem dirUp_syn (f : Dir → Dir) : (s.dirUp f).syn = s.syn := rfl
@[simp] theorem dirUp_net (f : Dir → Dir) : (s.dirUp f).net = s.net := rfl
@[simp] theorem dirUp_lmc (f : Dir → Dir) : (s.dirUp f).lmc = s.lmc := rfl
@[simp] theorem dirUp_thm (f : Dir → Dir) : (s.dirUp f).thm = s.thm := rfl
@[simp] theorem dirUp_pwr (f : Dir → Dir) : (s.dirUp f).pwr = s.pwr := rfl
@[simp] theorem dirUp_regWait (f : Dir → Dir) : (s.dirUp f).regWait = s.regWait := rfl
@[simp] theorem parUp_pending (f : Par → Par) : (s.parUp f).pending = s.pending := rfl
@[simp] theorem parUp_now (f : Par → Par) : (s.parUp f).now = s.now := rfl
@[simp] theorem parUp_frameStart (f : Par → Par) : (s.parUp f).frameStart = s.frameStart := rfl
@[simp] theorem parUp_freeCtr (f : Par → Par) : (s.parUp f).freeCtr = s.freeCtr := rfl
@[simp] theorem parUp_out (f : Par → Par) : (s.parUp f).out = s.out := rfl
@[simp] theorem parUp_regs (f : Par → Par) : (s.parUp f).regs = s.regs := rfl
@[simp] theorem parUp_held (f : Par → Par) : (s.parUp f).held = s.held := rfl
@[simp] theorem parUp_xlt (f : Par → Par) : (s.parUp f).xlt = s.xlt := rfl
@[simp] theorem parUp_ftm (f : Par → Par) : (s.parUp f).ftm = s.ftm := rfl
@[simp] theorem parUp_smc (f : Par → Par) : (s.parUp f).smc = s.smc := rfl
@[simp] theorem parUp_ecc (f : Par → Par) : (s.parUp f).ecc = s.ecc := rfl
@[simp] theorem parUp_crc (f : Par → Par) : (s.parUp f).crc = s.crc := rfl
@[simp] theorem parUp_acc (f : Par → Par) : (s.parUp f).acc = s.acc := rfl
@[simp] theorem parUp_prt (f : Par → Par) : (s.parUp f).prt = s.prt := rfl
@[simp] theorem parUp_qos (f : Par → Par) : (s.parUp f).qos = s.qos := rfl
@[simp] theorem parUp_parked (f : Par → Par) : (s.parUp f).parked = s.parked := rfl
@[simp] theorem parUp_dir (f : Par → Par) : (s.parUp f).dir = s.dir := rfl
@[simp] theorem parUp_par (f : Par → Par) : (s.parUp f).par = f s.par := rfl
@[simp] theorem parUp_sec (f : Par → Par) : (s.parUp f).sec = s.sec := rfl
@[simp] theorem parUp_seq (f : Par → Par) : (s.parUp f).seq = s.seq := rfl
@[simp] theorem parUp_frd (f : Par → Par) : (s.parUp f).frd = s.frd := rfl
@[simp] theorem parUp_pfx (f : Par → Par) : (s.parUp f).pfx = s.pfx := rfl
@[simp] theorem parUp_syn (f : Par → Par) : (s.parUp f).syn = s.syn := rfl
@[simp] theorem parUp_net (f : Par → Par) : (s.parUp f).net = s.net := rfl
@[simp] theorem parUp_lmc (f : Par → Par) : (s.parUp f).lmc = s.lmc := rfl
@[simp] theorem parUp_thm (f : Par → Par) : (s.parUp f).thm = s.thm := rfl
@[simp] theorem parUp_pwr (f : Par → Par) : (s.parUp f).pwr = s.pwr := rfl
@[simp] theorem parUp_regWait (f : Par → Par) : (s.parUp f).regWait = s.regWait := rfl
@[simp] theorem secUp_pending (f : Sec → Sec) : (s.secUp f).pending = s.pending := rfl
@[simp] theorem secUp_now (f : Sec → Sec) : (s.secUp f).now = s.now := rfl
@[simp] theorem secUp_frameStart (f : Sec → Sec) : (s.secUp f).frameStart = s.frameStart := rfl
@[simp] theorem secUp_freeCtr (f : Sec → Sec) : (s.secUp f).freeCtr = s.freeCtr := rfl
@[simp] theorem secUp_out (f : Sec → Sec) : (s.secUp f).out = s.out := rfl
@[simp] theorem secUp_regs (f : Sec → Sec) : (s.secUp f).regs = s.regs := rfl
@[simp] theorem secUp_held (f : Sec → Sec) : (s.secUp f).held = s.held := rfl
@[simp] theorem secUp_xlt (f : Sec → Sec) : (s.secUp f).xlt = s.xlt := rfl
@[simp] theorem secUp_ftm (f : Sec → Sec) : (s.secUp f).ftm = s.ftm := rfl
@[simp] theorem secUp_smc (f : Sec → Sec) : (s.secUp f).smc = s.smc := rfl
@[simp] theorem secUp_ecc (f : Sec → Sec) : (s.secUp f).ecc = s.ecc := rfl
@[simp] theorem secUp_crc (f : Sec → Sec) : (s.secUp f).crc = s.crc := rfl
@[simp] theorem secUp_acc (f : Sec → Sec) : (s.secUp f).acc = s.acc := rfl
@[simp] theorem secUp_prt (f : Sec → Sec) : (s.secUp f).prt = s.prt := rfl
@[simp] theorem secUp_qos (f : Sec → Sec) : (s.secUp f).qos = s.qos := rfl
@[simp] theorem secUp_parked (f : Sec → Sec) : (s.secUp f).parked = s.parked := rfl
@[simp] theorem secUp_dir (f : Sec → Sec) : (s.secUp f).dir = s.dir := rfl
@[simp] theorem secUp_par (f : Sec → Sec) : (s.secUp f).par = s.par := rfl
@[simp] theorem secUp_sec (f : Sec → Sec) : (s.secUp f).sec = f s.sec := rfl
@[simp] theorem secUp_seq (f : Sec → Sec) : (s.secUp f).seq = s.seq := rfl
@[simp] theorem secUp_frd (f : Sec → Sec) : (s.secUp f).frd = s.frd := rfl
@[simp] theorem secUp_pfx (f : Sec → Sec) : (s.secUp f).pfx = s.pfx := rfl
@[simp] theorem secUp_syn (f : Sec → Sec) : (s.secUp f).syn = s.syn := rfl
@[simp] theorem secUp_net (f : Sec → Sec) : (s.secUp f).net = s.net := rfl
@[simp] theorem secUp_lmc (f : Sec → Sec) : (s.secUp f).lmc = s.lmc := rfl
@[simp] theorem secUp_thm (f : Sec → Sec) : (s.secUp f).thm = s.thm := rfl
@[simp] theorem secUp_pwr (f : Sec → Sec) : (s.secUp f).pwr = s.pwr := rfl
@[simp] theorem secUp_regWait (f : Sec → Sec) : (s.secUp f).regWait = s.regWait := rfl
@[simp] theorem seqUp_pending (f : Seq → Seq) : (s.seqUp f).pending = s.pending := rfl
@[simp] theorem seqUp_now (f : Seq → Seq) : (s.seqUp f).now = s.now := rfl
@[simp] theorem seqUp_frameStart (f : Seq → Seq) : (s.seqUp f).frameStart = s.frameStart := rfl
@[simp] theorem seqUp_freeCtr (f : Seq → Seq) : (s.seqUp f).freeCtr = s.freeCtr := rfl
@[simp] theorem seqUp_out (f : Seq → Seq) : (s.seqUp f).out = s.out := rfl
@[simp] theorem seqUp_regs (f : Seq → Seq) : (s.seqUp f).regs = s.regs := rfl
@[simp] theorem seqUp_held (f : Seq → Seq) : (s.seqUp f).held = s.held := rfl
@[simp] theorem seqUp_xlt (f : Seq → Seq) : (s.seqUp f).xlt = s.xlt := rfl
@[simp] theorem seqUp_ftm (f : Seq → Seq) : (s.seqUp f).ftm = s.ftm := rfl
@[simp] theorem seqUp_smc (f : Seq → Seq) : (s.seqUp f).smc = s.smc := rfl
@[simp] theorem seqUp_ecc (f : Seq → Seq) : (s.seqUp f).ecc = s.ecc := rfl
@[simp] theorem seqUp_crc (f : Seq → Seq) : (s.seqUp f).crc = s.crc := rfl
@[simp] theorem seqUp_acc (f : Seq → Seq) : (s.seqUp f).acc = s.acc := rfl
@[simp] theorem seqUp_prt (f : Seq → Seq) : (s.seqUp f).prt = s.prt := rfl
@[simp] theorem seqUp_qos (f : Seq → Seq) : (s.seqUp f).qos = s.qos := rfl
@[simp] theorem seqUp_parked (f : Seq → Seq) : (s.seqUp f).parked = s.parked := rfl
@[simp] theorem seqUp_dir (f : Seq → Seq) : (s.seqUp f).dir = s.dir := rfl
@[simp] theorem seqUp_par (f : Seq → Seq) : (s.seqUp f).par = s.par := rfl
@[simp] theorem seqUp_sec (f : Seq → Seq) : (s.seqUp f).sec = s.sec := rfl
@[simp] theorem seqUp_seq (f : Seq → Seq) : (s.seqUp f).seq = f s.seq := rfl
@[simp] theorem seqUp_frd (f : Seq → Seq) : (s.seqUp f).frd = s.frd := rfl
@[simp] theorem seqUp_pfx (f : Seq → Seq) : (s.seqUp f).pfx = s.pfx := rfl
@[simp] theorem seqUp_syn (f : Seq → Seq) : (s.seqUp f).syn = s.syn := rfl
@[simp] theorem seqUp_net (f : Seq → Seq) : (s.seqUp f).net = s.net := rfl
@[simp] theorem seqUp_lmc (f : Seq → Seq) : (s.seqUp f).lmc = s.lmc := rfl
@[simp] theorem seqUp_thm (f : Seq → Seq) : (s.seqUp f).thm = s.thm := rfl
@[simp] theorem seqUp_pwr (f : Seq → Seq) : (s.seqUp f).pwr = s.pwr := rfl
@[simp] theorem seqUp_regWait (f : Seq → Seq) : (s.seqUp f).regWait = s.regWait := rfl
@[simp] theorem pfxUp_pending (f : Pfx → Pfx) : (s.pfxUp f).pending = s.pending := rfl
@[simp] theorem pfxUp_now (f : Pfx → Pfx) : (s.pfxUp f).now = s.now := rfl
@[simp] theorem pfxUp_frameStart (f : Pfx → Pfx) : (s.pfxUp f).frameStart = s.frameStart := rfl
@[simp] theorem pfxUp_freeCtr (f : Pfx → Pfx) : (s.pfxUp f).freeCtr = s.freeCtr := rfl
@[simp] theorem pfxUp_out (f : Pfx → Pfx) : (s.pfxUp f).out = s.out := rfl
@[simp] theorem pfxUp_regs (f : Pfx → Pfx) : (s.pfxUp f).regs = s.regs := rfl
@[simp] theorem pfxUp_held (f : Pfx → Pfx) : (s.pfxUp f).held = s.held := rfl
@[simp] theorem pfxUp_xlt (f : Pfx → Pfx) : (s.pfxUp f).xlt = s.xlt := rfl
@[simp] theorem pfxUp_ftm (f : Pfx → Pfx) : (s.pfxUp f).ftm = s.ftm := rfl
@[simp] theorem pfxUp_smc (f : Pfx → Pfx) : (s.pfxUp f).smc = s.smc := rfl
@[simp] theorem pfxUp_ecc (f : Pfx → Pfx) : (s.pfxUp f).ecc = s.ecc := rfl
@[simp] theorem pfxUp_crc (f : Pfx → Pfx) : (s.pfxUp f).crc = s.crc := rfl
@[simp] theorem pfxUp_acc (f : Pfx → Pfx) : (s.pfxUp f).acc = s.acc := rfl
@[simp] theorem pfxUp_prt (f : Pfx → Pfx) : (s.pfxUp f).prt = s.prt := rfl
@[simp] theorem pfxUp_qos (f : Pfx → Pfx) : (s.pfxUp f).qos = s.qos := rfl
@[simp] theorem pfxUp_parked (f : Pfx → Pfx) : (s.pfxUp f).parked = s.parked := rfl
@[simp] theorem pfxUp_dir (f : Pfx → Pfx) : (s.pfxUp f).dir = s.dir := rfl
@[simp] theorem pfxUp_par (f : Pfx → Pfx) : (s.pfxUp f).par = s.par := rfl
@[simp] theorem pfxUp_sec (f : Pfx → Pfx) : (s.pfxUp f).sec = s.sec := rfl
@[simp] theorem pfxUp_seq (f : Pfx → Pfx) : (s.pfxUp f).seq = s.seq := rfl
@[simp] theorem pfxUp_frd (f : Pfx → Pfx) : (s.pfxUp f).frd = s.frd := rfl
@[simp] theorem pfxUp_pfx (f : Pfx → Pfx) : (s.pfxUp f).pfx = f s.pfx := rfl
@[simp] theorem pfxUp_syn (f : Pfx → Pfx) : (s.pfxUp f).syn = s.syn := rfl
@[simp] theorem pfxUp_net (f : Pfx → Pfx) : (s.pfxUp f).net = s.net := rfl
@[simp] theorem pfxUp_lmc (f : Pfx → Pfx) : (s.pfxUp f).lmc = s.lmc := rfl
@[simp] theorem pfxUp_thm (f : Pfx → Pfx) : (s.pfxUp f).thm = s.thm := rfl
@[simp] theorem pfxUp_pwr (f : Pfx → Pfx) : (s.pfxUp f).pwr = s.pwr := rfl
@[simp] theorem pfxUp_regWait (f : Pfx → Pfx) : (s.pfxUp f).regWait = s.regWait := rfl
@[simp] theorem synUp_pending (f : Syn → Syn) : (s.synUp f).pending = s.pending := rfl
@[simp] theorem synUp_now (f : Syn → Syn) : (s.synUp f).now = s.now := rfl
@[simp] theorem synUp_frameStart (f : Syn → Syn) : (s.synUp f).frameStart = s.frameStart := rfl
@[simp] theorem synUp_freeCtr (f : Syn → Syn) : (s.synUp f).freeCtr = s.freeCtr := rfl
@[simp] theorem synUp_out (f : Syn → Syn) : (s.synUp f).out = s.out := rfl
@[simp] theorem synUp_regs (f : Syn → Syn) : (s.synUp f).regs = s.regs := rfl
@[simp] theorem synUp_held (f : Syn → Syn) : (s.synUp f).held = s.held := rfl
@[simp] theorem synUp_xlt (f : Syn → Syn) : (s.synUp f).xlt = s.xlt := rfl
@[simp] theorem synUp_ftm (f : Syn → Syn) : (s.synUp f).ftm = s.ftm := rfl
@[simp] theorem synUp_smc (f : Syn → Syn) : (s.synUp f).smc = s.smc := rfl
@[simp] theorem synUp_ecc (f : Syn → Syn) : (s.synUp f).ecc = s.ecc := rfl
@[simp] theorem synUp_crc (f : Syn → Syn) : (s.synUp f).crc = s.crc := rfl
@[simp] theorem synUp_acc (f : Syn → Syn) : (s.synUp f).acc = s.acc := rfl
@[simp] theorem synUp_prt (f : Syn → Syn) : (s.synUp f).prt = s.prt := rfl
@[simp] theorem synUp_qos (f : Syn → Syn) : (s.synUp f).qos = s.qos := rfl
@[simp] theorem synUp_parked (f : Syn → Syn) : (s.synUp f).parked = s.parked := rfl
@[simp] theorem synUp_dir (f : Syn → Syn) : (s.synUp f).dir = s.dir := rfl
@[simp] theorem synUp_par (f : Syn → Syn) : (s.synUp f).par = s.par := rfl
@[simp] theorem synUp_sec (f : Syn → Syn) : (s.synUp f).sec = s.sec := rfl
@[simp] theorem synUp_seq (f : Syn → Syn) : (s.synUp f).seq = s.seq := rfl
@[simp] theorem synUp_frd (f : Syn → Syn) : (s.synUp f).frd = s.frd := rfl
@[simp] theorem synUp_pfx (f : Syn → Syn) : (s.synUp f).pfx = s.pfx := rfl
@[simp] theorem synUp_syn (f : Syn → Syn) : (s.synUp f).syn = f s.syn := rfl
@[simp] theorem synUp_net (f : Syn → Syn) : (s.synUp f).net = s.net := rfl
@[simp] theorem synUp_lmc (f : Syn → Syn) : (s.synUp f).lmc = s.lmc := rfl
@[simp] theorem synUp_thm (f : Syn → Syn) : (s.synUp f).thm = s.thm := rfl
@[simp] theorem synUp_pwr (f : Syn → Syn) : (s.synUp f).pwr = s.pwr := rfl
@[simp] theorem synUp_regWait (f : Syn → Syn) : (s.synUp f).regWait = s.regWait := rfl
@[simp] theorem netUp_pending (f : Net → Net) : (s.netUp f).pending = s.pending := rfl
@[simp] theorem netUp_now (f : Net → Net) : (s.netUp f).now = s.now := rfl
@[simp] theorem netUp_frameStart (f : Net → Net) : (s.netUp f).frameStart = s.frameStart := rfl
@[simp] theorem netUp_freeCtr (f : Net → Net) : (s.netUp f).freeCtr = s.freeCtr := rfl
@[simp] theorem netUp_out (f : Net → Net) : (s.netUp f).out = s.out := rfl
@[simp] theorem netUp_regs (f : Net → Net) : (s.netUp f).regs = s.regs := rfl
@[simp] theorem netUp_held (f : Net → Net) : (s.netUp f).held = s.held := rfl
@[simp] theorem netUp_xlt (f : Net → Net) : (s.netUp f).xlt = s.xlt := rfl
@[simp] theorem netUp_ftm (f : Net → Net) : (s.netUp f).ftm = s.ftm := rfl
@[simp] theorem netUp_smc (f : Net → Net) : (s.netUp f).smc = s.smc := rfl
@[simp] theorem netUp_ecc (f : Net → Net) : (s.netUp f).ecc = s.ecc := rfl
@[simp] theorem netUp_crc (f : Net → Net) : (s.netUp f).crc = s.crc := rfl
@[simp] theorem netUp_acc (f : Net → Net) : (s.netUp f).acc = s.acc := rfl
@[simp] theorem netUp_prt (f : Net → Net) : (s.netUp f).prt = s.prt := rfl
@[simp] theorem netUp_qos (f : Net → Net) : (s.netUp f).qos = s.qos := rfl
@[simp] theorem netUp_parked (f : Net → Net) : (s.netUp f).parked = s.parked := rfl
@[simp] theorem netUp_dir (f : Net → Net) : (s.netUp f).dir = s.dir := rfl
@[simp] theorem netUp_par (f : Net → Net) : (s.netUp f).par = s.par := rfl
@[simp] theorem netUp_sec (f : Net → Net) : (s.netUp f).sec = s.sec := rfl
@[simp] theorem netUp_seq (f : Net → Net) : (s.netUp f).seq = s.seq := rfl
@[simp] theorem netUp_frd (f : Net → Net) : (s.netUp f).frd = s.frd := rfl
@[simp] theorem netUp_pfx (f : Net → Net) : (s.netUp f).pfx = s.pfx := rfl
@[simp] theorem netUp_syn (f : Net → Net) : (s.netUp f).syn = s.syn := rfl
@[simp] theorem netUp_net (f : Net → Net) : (s.netUp f).net = f s.net := rfl
@[simp] theorem netUp_lmc (f : Net → Net) : (s.netUp f).lmc = s.lmc := rfl
@[simp] theorem netUp_thm (f : Net → Net) : (s.netUp f).thm = s.thm := rfl
@[simp] theorem netUp_pwr (f : Net → Net) : (s.netUp f).pwr = s.pwr := rfl
@[simp] theorem netUp_regWait (f : Net → Net) : (s.netUp f).regWait = s.regWait := rfl
@[simp] theorem lmcUp_pending (f : Lmc → Lmc) : (s.lmcUp f).pending = s.pending := rfl
@[simp] theorem lmcUp_now (f : Lmc → Lmc) : (s.lmcUp f).now = s.now := rfl
@[simp] theorem lmcUp_frameStart (f : Lmc → Lmc) : (s.lmcUp f).frameStart = s.frameStart := rfl
@[simp] theorem lmcUp_freeCtr (f : Lmc → Lmc) : (s.lmcUp f).freeCtr = s.freeCtr := rfl
@[simp] theorem lmcUp_out (f : Lmc → Lmc) : (s.lmcUp f).out = s.out := rfl
@[simp] theorem lmcUp_regs (f : Lmc → Lmc) : (s.lmcUp f).regs = s.regs := rfl
@[simp] theorem lmcUp_held (f : Lmc → Lmc) : (s.lmcUp f).held = s.held := rfl
@[simp] theorem lmcUp_xlt (f : Lmc → Lmc) : (s.lmcUp f).xlt = s.xlt := rfl
@[simp] theorem lmcUp_ftm (f : Lmc → Lmc) : (s.lmcUp f).ftm = s.ftm := rfl
@[simp] theorem lmcUp_smc (f : Lmc → Lmc) : (s.lmcUp f).smc = s.smc := rfl
@[simp] theorem lmcUp_ecc (f : Lmc → Lmc) : (s.lmcUp f).ecc = s.ecc := rfl
@[simp] theorem lmcUp_crc (f : Lmc → Lmc) : (s.lmcUp f).crc = s.crc := rfl
@[simp] theorem lmcUp_acc (f : Lmc → Lmc) : (s.lmcUp f).acc = s.acc := rfl
@[simp] theorem lmcUp_prt (f : Lmc → Lmc) : (s.lmcUp f).prt = s.prt := rfl
@[simp] theorem lmcUp_qos (f : Lmc → Lmc) : (s.lmcUp f).qos = s.qos := rfl
@[simp] theorem lmcUp_parked (f : Lmc → Lmc) : (s.lmcUp f).parked = s.parked := rfl
@[simp] theorem lmcUp_dir (f : Lmc → Lmc) : (s.lmcUp f).dir = s.dir := rfl
@[simp] theorem lmcUp_par (f : Lmc → Lmc) : (s.lmcUp f).par = s.par := rfl
@[simp] theorem lmcUp_sec (f : Lmc → Lmc) : (s.lmcUp f).sec = s.sec := rfl
@[simp] theorem lmcUp_seq (f : Lmc → Lmc) : (s.lmcUp f).seq = s.seq := rfl
@[simp] theorem lmcUp_frd (f : Lmc → Lmc) : (s.lmcUp f).frd = s.frd := rfl
@[simp] theorem lmcUp_pfx (f : Lmc → Lmc) : (s.lmcUp f).pfx = s.pfx := rfl
@[simp] theorem lmcUp_syn (f : Lmc → Lmc) : (s.lmcUp f).syn = s.syn := rfl
@[simp] theorem lmcUp_net (f : Lmc → Lmc) : (s.lmcUp f).net = s.net := rfl
@[simp] theorem lmcUp_lmc (f : Lmc → Lmc) : (s.lmcUp f).lmc = f s.lmc := rfl
@[simp] theorem lmcUp_thm (f : Lmc → Lmc) : (s.lmcUp f).thm = s.thm := rfl
@[simp] theorem lmcUp_pwr (f : Lmc → Lmc) : (s.lmcUp f).pwr = s.pwr := rfl
@[simp] theorem lmcUp_regWait (f : Lmc → Lmc) : (s.lmcUp f).regWait = s.regWait := rfl
@[simp] theorem thmUp_pending (f : Thm → Thm) : (s.thmUp f).pending = s.pending := rfl
@[simp] theorem thmUp_now (f : Thm → Thm) : (s.thmUp f).now = s.now := rfl
@[simp] theorem thmUp_frameStart (f : Thm → Thm) : (s.thmUp f).frameStart = s.frameStart := rfl
@[simp] theorem thmUp_freeCtr (f : Thm → Thm) : (s.thmUp f).freeCtr = s.freeCtr := rfl
@[simp] theorem thmUp_out (f : Thm → Thm) : (s.thmUp f).out = s.out := rfl
@[simp] theorem thmUp_regs (f : Thm → Thm) : (s.thmUp f).regs = s.regs := rfl
@[simp] theorem thmUp_held (f : Thm → Thm) : (s.thmUp f).held = s.held := rfl
@[simp] theorem thmUp_xlt (f : Thm → Thm) : (s.thmUp f).xlt = s.xlt := rfl
@[simp] theorem thmUp_ftm (f : Thm → Thm) : (s.thmUp f).ftm = s.ftm := rfl
@[simp] theorem thmUp_smc (f : Thm → Thm) : (s.thmUp f).smc = s.smc := rfl
@[simp] theorem thmUp_ecc (f : Thm → Thm) : (s.thmUp f).ecc = s.ecc := rfl
@[simp] theorem thmUp_crc (f : Thm → Thm) : (s.thmUp f).crc = s.crc := rfl
@[simp] theorem thmUp_acc (f : Thm → Thm) : (s.thmUp f).acc = s.acc := rfl
@[simp] theorem thmUp_prt (f : Thm → Thm) : (s.thmUp f).prt = s.prt := rfl
@[simp] theorem thmUp_qos (f : Thm → Thm) : (s.thmUp f).qos = s.qos := rfl
@[simp] theorem thmUp_parked (f : Thm → Thm) : (s.thmUp f).parked = s.parked := rfl
@[simp] theorem thmUp_dir (f : Thm → Thm) : (s.thmUp f).dir = s.dir := rfl
@[simp] theorem thmUp_par (f : Thm → Thm) : (s.thmUp f).par = s.par := rfl
@[simp] theorem thmUp_sec (f : Thm → Thm) : (s.thmUp f).sec = s.sec := rfl
@[simp] theorem thmUp_seq (f : Thm → Thm) : (s.thmUp f).seq = s.seq := rfl
@[simp] theorem thmUp_frd (f : Thm → Thm) : (s.thmUp f).frd = s.frd := rfl
@[simp] theorem thmUp_pfx (f : Thm → Thm) : (s.thmUp f).pfx = s.pfx := rfl
@[simp] theorem thmUp_syn (f : Thm → Thm) : (s.thmUp f).syn = s.syn := rfl
@[simp] theorem thmUp_net (f : Thm → Thm) : (s.thmUp f).net = s.net := rfl
@[simp] theorem thmUp_lmc (f : Thm → Thm) : (s.thmUp f).lmc = s.lmc := rfl
@[simp] theorem thmUp_thm (f : Thm → Thm) : (s.thmUp f).thm = f s.thm := rfl
@[simp] theorem thmUp_pwr (f : Thm → Thm) : (s.thmUp f).pwr = s.pwr := rfl
@[simp] theorem thmUp_regWait (f : Thm → Thm) : (s.thmUp f).regWait = s.regWait := rfl
@[simp] theorem pwrUp_pending (f : Pwr → Pwr) : (s.pwrUp f).pending = s.pending := rfl
@[simp] theorem pwrUp_now (f : Pwr → Pwr) : (s.pwrUp f).now = s.now := rfl
@[simp] theorem pwrUp_frameStart (f : Pwr → Pwr) : (s.pwrUp f).frameStart = s.frameStart := rfl
@[simp] theorem pwrUp_freeCtr (f : Pwr → Pwr) : (s.pwrUp f).freeCtr = s.freeCtr := rfl
@[simp] theorem pwrUp_out (f : Pwr → Pwr) : (s.pwrUp f).out = s.out := rfl
@[simp] theorem pwrUp_regs (f : Pwr → Pwr) : (s.pwrUp f).regs = s.regs := rfl
@[simp] theorem pwrUp_held (f : Pwr → Pwr) : (s.pwrUp f).held = s.held := rfl
@[simp] theorem pwrUp_xlt (f : Pwr → Pwr) : (s.pwrUp f).xlt = s.xlt := rfl
@[simp] theorem pwrUp_ftm (f : Pwr → Pwr) : (s.pwrUp f).ftm = s.ftm := rfl
@[simp] theorem pwrUp_smc (f : Pwr → Pwr) : (s.pwrUp f).smc = s.smc := rfl
@[simp] theorem pwrUp_ecc (f : Pwr → Pwr) : (s.pwrUp f).ecc = s.ecc := rfl
@[simp] theorem pwrUp_crc (f : Pwr → Pwr) : (s.pwrUp f).crc = s.crc := rfl
@[simp] theorem pwrUp_acc (f : Pwr → Pwr) : (s.pwrUp f).acc = s.acc := rfl
@[simp] theorem pwrUp_prt (f : Pwr → Pwr) : (s.pwrUp f).prt = s.prt := rfl
@[simp] theorem pwrUp_qos (f : Pwr → Pwr) : (s.pwrUp f).qos = s.qos := rfl
@[simp] theorem pwrUp_parked (f : Pwr → Pwr) : (s.pwrUp f).parked = s.parked := rfl
@[simp] theorem pwrUp_dir (f : Pwr → Pwr) : (s.pwrUp f).dir = s.dir := rfl
@[simp] theorem pwrUp_par (f : Pwr → Pwr) : (s.pwrUp f).par = s.par := rfl
@[simp] theorem pwrUp_sec (f : Pwr → Pwr) : (s.pwrUp f).sec = s.sec := rfl
@[simp] theorem pwrUp_seq (f : Pwr → Pwr) : (s.pwrUp f).seq = s.seq := rfl
@[simp] theorem pwrUp_frd (f : Pwr → Pwr) : (s.pwrUp f).frd = s.frd := rfl
@[simp] theorem pwrUp_pfx (f : Pwr → Pwr) : (s.pwrUp f).pfx = s.pfx := rfl
@[simp] theorem pwrUp_syn (f : Pwr → Pwr) : (s.pwrUp f).syn = s.syn := rfl
@[simp] theorem pwrUp_net (f : Pwr → Pwr) : (s.pwrUp f).net = s.net := rfl
@[simp] theorem pwrUp_lmc (f : Pwr → Pwr) : (s.pwrUp f).lmc = s.lmc := rfl
@[simp] theorem pwrUp_thm (f : Pwr → Pwr) : (s.pwrUp f).thm = s.thm := rfl
@[simp] theorem pwrUp_pwr (f : Pwr → Pwr) : (s.pwrUp f).pwr = f s.pwr := rfl
@[simp] theorem pwrUp_regWait (f : Pwr → Pwr) : (s.pwrUp f).regWait = s.regWait := rfl
@[simp] theorem toTime_now (t : Nat) : (s.toTime t).now = max s.now t := rfl
@[simp] theorem tick_freeCtr : s.tick.freeCtr = s.freeCtr + 1 := rfl
@[simp] theorem emit_out (x : Sent) : (s.emit x).out = s.out ++ [x] := rfl

end Sys2Proof.Machine
end

