-- ==== Sys2Proof/WellFormed.lean ====
section
/-! DEFINITION. Which commands are well formed: their operands lie in the ranges that the spec gives them. `exec` is
total and gives an ill-formed command an effect as well; well-formedness says which commands a sender can send. -/

namespace Sys2Proof

/-- A core's number is below 4 (chapter 17). -/
def RegSrc.wf : RegSrc → Bool
  | .core n => n < 4
  | .inband => true

/-- Ports 0 to 7, each of at most four sub-ports (R254). -/
def Src.wf (s : Src) : Bool := s.port < 8 && s.sub < 4

/-- A packet has come through some sub-port. -/
def Pkt.wf (p : Pkt) : Bool := p.src.wf

/-- A tenant number is below 64, and a call has at most 16 slots and 16 scalars, as many as it counts (Table 5.11). -/
def CallBody.wf (c : CallBody) : Bool :=
  c.slots.length = c.nslots.toNat && c.scalars.length = c.nscalars.toNat && c.slots.length ≤ 16 && c.scalars.length ≤ 16 &&
    c.slots.all fun x => x.tenant.toNat < 64

/-- Words A0 to A7 (Table 12.3). -/
def SyncArgs.wf (x : SyncArgs) : Bool := x.a.length = 8

/-- The widths of Table 5.4. -/
def MoverField.wf (f : MoverField) : Bool :=
  f.slot < 16 && f.areg < 16 && f.len < 8 && f.dkind < 6 && f.dsel < 64 && f.dbase < 16 && f.doff < 2 ^ 29 &&
    f.tag < 128 && f.rows < 64

/-- The widths of Table 5.5, unit half. -/
def UnitField.wf (u : UnitField) : Bool := u.ubase < 16 && u.uoff < 2 ^ 21 && u.uarg < 2 ^ 11

/-- The widths of Table 5.5, vector half, with its five rounding modes. -/
def VecField.wf (v : VecField) : Bool :=
  v.vbase < 16 && v.voff < 2 ^ 21 && v.rm < 5 && v.vfmt < 16 && v.varg < 2 ^ 9

/-- The widths of Table 13.2. -/
def Cell.wf (c : Cell) : Bool := c.vc < 16 && c.seq < 2 ^ 12 && c.ret < 2 ^ 13 && c.payload.length = 248

/-- The widths of Table 13.4. -/
def LinkCell.wf (c : LinkCell) : Bool :=
  c.ack < 2 ^ 12 && c.freed.length = 9 && c.credit.length = 9 && (c.freed ++ c.credit).all (· < 2 ^ 16) && c.req < 256 &&
    c.offerWidth < 4 && c.offerSpeed < 2 && c.device < 256 && c.dir < 256 && c.domain < 2 ^ 16 && c.reserved.length = 198

/-- The widths of Table 13.7. -/
def RouteHdr.wf (h : RouteHdr) : Bool := h.dst < 256 && h.src < 256 && h.cls < 4 && h.cells < 17 && h.msgId < 2 ^ 32 &&
  h.index < 16 && h.count < 16 && 1 ≤ h.bytes && h.bytes ≤ 4200

/-- A message over IPT comes in a packet. -/
def SpdmVia.wf : SpdmVia → Bool
  | .ipt p => p.wf
  | .i3c => true
  | .mgmt => true

/-- The counts of an epoch entry lie in their fields (Table 15.3); a cached response carries a status of Table 0.4 and at most 96
bytes. -/
def EpochEntry.wf : EpochEntry → Bool
  | .extent index state gen tenant start len prot hint _ trights =>
    index < 2 ^ 18 && state < 5 && gen < 2 ^ 14 && tenant < 64 && start < 2 ^ 24 && len < 2 ^ 24 && prot < 5 && hint < 4 && trights < 8
  | .grant index holder rights => index < 2 ^ 18 && holder < 4096 && rights < 8
  | .dir line state _ tenant gen ptrs groups => line < 2 ^ 33 && state < 3 && tenant < 64 && gen < 2 ^ 14 && ptrs.length ≤ 4 &&
    ptrs.all (· < 4096) && groups.all (· < 64)
  | .member holder credits state => holder < 4096 && credits < 65536 && state < 3
  | .sync obj type _ _ _ _ words => obj < 65536 && type < 7 && words.length ≤ 8
  | .waiter obj holder _ sop leftUs operand => obj < 65536 && holder < 4096 && sop < 256 && leftUs < 65536 && operand.length = 8
  | .replay tenant holder _ status _ body => tenant < 64 && holder < 8192 && status ≤ 0x0F && body.length ≤ 96
  | .mark holder _ => holder < 4096
  | .pfx tenant _ b version stamp => tenant < 64 && b < 2 ^ 32 && version < 2 ^ 32 && stamp < 2 ^ 64
  | .pin holder b _ => holder ≤ 4096 && b < 2 ^ 32
  | .block b state owner => b < 2 ^ 32 && state < 4 && owner ≤ 4096

/-- A fragment's numbers lie in their fields (Tables 15.1 and 15.2). -/
def EpochFrag.wf (f : EpochFrag) : Bool :=
  f.set < 2 && f.epoch < 2 ^ 64 && f.alive < 65536 && f.frag < 256 && f.nfrag < 256 && f.entries.all EpochEntry.wf

/-- A command's operands lie in their ranges. -/
def Instr.wf (i : Instr) : Bool :=
  match i with
  | .accessSlot pc slot | .plannedSlot pc slot | .guardSlot pc slot | .refreshSlot pc slot | .scrubSlot pc slot =>
    pc < 512 && slot < 128
  | .calSlot pc slot lat => pc < 512 && slot < 128 && lat < 256
  | .stackTempRead stack _ | .napEntryComplete stack | .napExitStart stack | .napExitComplete stack _ => stack < 8
  | .dirPartitionEvict bank => bank < 32
  | .call p c => p.wf && c.wf
  | .slabReadDataReturn pc | .writeQueueAdmit pc | .scrubVisit pc => pc < 512
  | .rd m f | .wr m f | .gather m f | .scatter m f | .crd m f | .s2f m f | .f2s m f | .setareg m f => m < 4 && f.wf
  | .mma c u | .mread c u | .bload c u | .merge c u | .hlookup c u | .hinsert c u | .bin c u | .ptr c u
  | .xchg c u => c < 8 && u.wf
  | .vAdd c v | .vSub c v | .vMul c v | .vFma c v | .vMin c v | .vMax c v | .vMinnum c v | .vMaxnum c v
  | .vCmp c v | .vCvt c v | .vIntAdd c v | .vIntSub c v | .vIntMul c v | .vShl c v | .vShr c v | .vSar c v
  | .vAnd c v | .vOr c v | .vXor c v | .vPopcnt c v | .vClz c v | .vDot4 c v | .vExp2 c v | .vLog2 c v
  | .vRcp c v | .vRsqrt c v | .vSumReduce c v | .vMaxReduce c v | .vMinReduce c v | .vPermute c v
  | .vBroadcast c v | .vLd c v | .vSt c v | .vRand c v | .vSetbase c v | .vPset c v | .vXrecv c v => c < 8 && v.wf
  | .frondFault phys => phys < 65
  | .frdRetire src _ | .dirKick src _ | .dirRevokedRead src | .pfxReclaim src _ | .eccRemapAdd src _
  | .eccRemapLogRead src | .arpRequest src _ | .neighbourSolicitation src _ | .echoRequest src _ _ _
  | .connect src _ _ | .close src _ | .prtHcfgWrite src _ | .handover src _ | .create src _ | .grant src _
  | .ungrant src _ | .setTrights src _ | .revoke src _ | .release src _ | .unquarantine src _ | .xltNop src _
  | .xltRevokeDoneRead src | .xltMfqPop src _ | .xltMfqFaultLostClear src _ | .relock src | .evcSwset src _
  | .evcGateWrite src _ | .activate src _ | .confirm src _ | .commit src _ _ | .fwNop src _ | .bist src _ _
  | .bstFailRead src | .ppr src _ _ | .service src | .wake src | .reset src _ | .stacksOk src _
  | .registerWrite src _ _ | .pgEvtStatusClear src _ _ | .pgEvtForce src _ _ | .pgLock src _ _ | .applyAll src
  | .discardAll src | .clear src | .registerRead src _ => src.wf
  | .planLoad p _ _ _ | .planCommit p _ _ _ _ | .planUnload p _ | .read p _ | .write p _ _ | .swap p _ _
  | .cas p _ _ _ | .fetchAdd p _ _ | .fetchAnd p _ _ | .fetchOr p _ _ | .fetchXor p _ _ | .fetchSmin p _ _
  | .fetchSmax p _ _ | .fetchUmin p _ _ | .fetchUmax p _ _ | .accum p _ _ | .accumRc p _ _ _
  | .move p _ _ _ _ _ _ | .hint p _ _ | .fence p | .cohJoin p _ | .cohLeave p | .rdS p _ | .rdX p _ | .upg p _
  | .rdNa p _ | .wb p _ _ | .ack p _ | .rspMiss p _ | .rspMissWb p _ | .rspClean p _ | .kvAlloc p _
  | .kvFree p _ _ | .publish p _ _ _ | .republish p _ _ _ _ | .unpublish p _ _ | .lookup p _ | .unpin p _
  | .ringReduce p _ _ _ _ _ _ _ _ | .ringRoute p _ _ | .msgAck p _ | .spdm p _ | .sessionBind p _
  | .latencyTol p _ | .qpCreate p _ | .qpDestroy p _ | .invalidate p _ _ _ | .faultPop p _
  | .undefinedOpcode p _ => p.wf
  | .planCommitComplete index => index < 1024
  | .replayEntryExpire tenant holder _ => tenant < 64 && holder < 4096
  | .egressDispatch port sub | .mkaFrame port sub _ | .linkChange port sub _ | .frameDiscard port sub _ =>
    port < 8 && sub < 4
  | .bankIdlePrecharge pc bank => pc < 512 && bank < 64
  | .rspDirty p _ data => p.wf && data.length = 128
  | .snoopRetry _ agent | .sweepDone agent | .sweepVisit agent => agent < 4096
  | .heldNotifyDiscard holder => holder < 4096
  | .pinExpire holder _ => holder ≤ 4096                 -- 4096 stands for the pins of a takeover (R178)
  | .syncRead p x | .waitFor p x | .cAdd p x | .cCas p x | .bArrive p x | .sAcquire p x | .sRelease p x
  | .tTake p x | .tServe p x | .mPut p x | .mGet p x | .fUpdate p x | .init p x => p.wf && x.wf
  | .syncWaitTimeout obj holder _ => obj < 65536 && holder < 4096
  | .pcRetire pc cause => pc < 512 && cause < 8
  | .smcRetire src stack _ => src.wf && stack < 8
  | .crcGo src u _ => src.wf && u < 16
  | .crcComputeDone u => u < 16
  | .pfcFrame port sub _ quanta => port < 8 && sub < 4 && quanta.length = 8
  | .admitTokenRefill port => port < 8
  | .rdmaRead r _ _ _ | .rdmaWrite r _ _ _ | .atomicCmpswap r _ _ _ _ | .atomicFetchadd r _ _ _ => r.src.wf
  | .send r p _ _ => r.src.wf && p.wf
  | .cellReceive n cell => n < 9 && cell.wf
  | .linkCellReceive n c | .trainingComplete n c => n < 9 && c.wf
  | .nakRepeat n | .replayTimeout n | .linkCellPeriodic n | .trainingStart n | .trainingTimeout n | .fastRetrain n | .fastRetrainComplete n | .retrainTimeout n
  | .pcsLinkDown n | .miscabledRetry n => n < 9
  | .lnkCtrlRetrain src n | .lnkCtrlReset src n => src.wf && n < 9
  | .linkStateNotice n origin _ states => n < 9 && origin < 256 && states < 16
  | .linkUpHoldExpire device dir => device < 256 && dir < 5
  | .packetInject _ dst _ => dst < 256
  | .packetForward n vc => n < 9 && vc < 9
  | .packetArrive n h _ => n < 9 && h.wf
  | .reasmTimeout src _ => src < 256
  | .pairRange _ set _ index _ _ => set < 2 && index < 2 ^ 18
  | .epochAck set _ _ _ | .pairRead set _ _ _ | .leaseFence set | .takeoverStart set | .takeoverComplete set
  | .replayHoldExpire set | .resyncCopy set | .resyncTimeout set => set < 2
  | .mirror set kind _ _ _ replay => set < 2 && kind < 3 && (match replay with | some e => e.wf | none => true)
  | .epoch f => f.wf
  | .rpUpdate peer _ _ | .rpRead peer _ _ | .peerSessionRetry _ peer _ => peer < 257
  | .ringOpComplete _ status _ _ => status ≤ 0x0F
  | .revokeComplete index => index < 2 ^ 18
  | .keySet c _ | .keyRotate c _ | .keyStatus c | .consentRegister c _ | .consentWithdraw c _ => c.pkt.wf
  | .rekeySweep tenant => tenant < 64
  | .secRotate src tenant _ | .secRetire src tenant _ => src.wf && tenant < 64
  | .getVersion via | .getCapabilities via | .negotiateAlgorithms via | .getDigests via | .getCertificate via _
  | .challenge via _ _ | .getMeasurements via _ _ | .keyExchange via _ | .finish via _ _ | .heartbeat via _
  | .keyUpdate via _ | .endSession via _ => via.wf
  | .wdtKick src c | .evcClaim src c | .evcEoi src c _ => src.wf && c < 4
  | .wdtExpire c | .evcNativeDelivery c | .wfiWake c => c < 4
  | .evcHoldoffExpire g => g < 16
  | .memUe core _ => core < 4
  | .operatorSlotChange _ slot _ role _ => slot < 16 && role < 3
  | .railPowerGood rail | .railTimeout rail => rail < 8
  | .fullReset cause => cause < 16
  | .apply src page | .discard src page => src.wf && page < 1024
  | .frameBoundary | .calResultApply | .plLatDown | .ftmApplyEffect | .commitPoint | .strictOverrun
  | .callLock .. | .callStart | .callComplete | .next | .loop | .endloop | .endWord | .frondSubstitution
  | .moveChunk .. | .moveComplete .. | .hintPrefetchDone .. | .fenceComplete .. | .accessDispatch ..
  | .rdmaReadChunk .. | .grantResend .. | .waitLimitExpire .. | .ringMemberTimeout ..
  | .syncSlotResult | .syncTimeout | .stackTrainingComplete .. | .pcRetireCommandEffect | .rebuildStep
  | .messageResend .. | .invalidateComplete .. | .cnpReceive .. | .rateRise .. | .linkStateRefresh
  | .queueSample | .pairConnectionForm .. | .pairHello .. | .pairRangeAnswer .. | .xltCmdDone
  | .mirrorAck .. | .pairReadAnswer .. | .rpUpdateAck .. | .peerRetransmit .. | .keyRotationEffect
  | .consentVerifyDone .. | .heartbeatMiss .. | .debugUnlock .. | .debugTimeout | .thmSample ..
  | .thmInputSample .. | .tlsConnect .. | .redfishRawRegister .. | .redfishReset .. | .getSensorReading ..
  | .getSensorThresholds .. | .uartInput .. | .imageStage .. | .trialTimeout | .recoveryImage ..
  | .manufacturePersonalisation | .provision .. | .deploy .. | .hold .. | .serviceHoldRelease .. | .rma ..
  | .scrap .. | .bistDone .. | .pprDone .. | .powerUp | .railRetry | .inputWarn | .inputFault | .inputRestore
  | .sysclkLoss | .refclkLoss .. | .powerCapEval | .deepExitStart | .deepExitComplete | .resetHandoverTimeout
  | .pairWaitTimeout | .rpReadAnswer .. | .rocev2Ack .. | .localAckTimeout .. | .rnrTimerExpire ..
  | .sysclkRestore | .wakeTimer => true

end Sys2Proof
end

