-- ==== Sys2Proof/Tests/Slice0.lean ====
section
/-! SUPPORT. The model's own tests: states that meet the hypotheses of the statements, ill-formed commands that WellFormed
refuses, and results that the spec works out. -/

set_option Elab.async false

namespace Sys2Proof.Tests
open Sys2Proof Sys2Proof.Machine

/-! ### Small states -/

/-- A device in service: rails up, frame timer running, eight stacks in service with pseudo-channel 0 tuned. -/
def up : State :=
  { State.reset with
    pwr := { resetPwr with on := true, timer := true, cleared := true, step8 := some 0 }
    smc := { resetSmc with stackSts := [1, 1, 1, 1, 1, 1, 1, 1], pcs := [(0, { resetPc with state := 1, rdLat := 40 })] }
    ftm := { resetFtm with acting := [(0xD200, 0x543210)] } }
    |>.setFld R.PWR_STATUS_PHASE 4 |>.setFld R.PWR_RAILS_PGOOD 255 |>.setFld R.FTM_REBASE_PL_LAT 40

/-- An OPEN extent of 16 units for tenant 1. -/
def ext1 : Extent := ⟨.opened, 1, 0, 16, 1, 0, 0, false, 7, none⟩

/-- A datagram from port 0 to the device's own address 0.0.0.5 and its IPT port. -/
def src0 : Src := ⟨0, 0, 1, 2, 3, 0, 0, 0x1234, 0xFFFF00000005, 49871, none, none⟩
def pkt0 : Pkt := ⟨src0, 5, 9, 77, false, false, false, 0, true, 0, 1, 0, []⟩
/-- The packet of a request of connection 5. -/
def pktOf (op : ReqOp) : Pkt := { pkt0 with len := BitVec.ofNat 16 (op.wire []).length }
def conn0 : Conn := ⟨7, 1, src0, false, none, 0, 0, 0, [], 64, 64, none, []⟩

/-- Port 0 is enabled, holder 7 of tenant 1 has connection 5, and extent 3 is open for the tenant, which is ADMITTED. -/
def served : State :=
  { up with
    prt := { up.prt with conns := [(5, conn0)], hcfg := [(7, BitVec.ofNat 64 (1 + 1 * 2 + 100 * 2 ^ 9))] }
    xlt := { up.xlt with extents := [(3, ext1)] }
    sec := { up.sec with tenants := [(1, { emptyTenant with st := 2 })], debug := 1 } }
    |>.setFld (R.PRT_CFG_ENABLE.at 0) 1 |>.setFld (R.PRT_MAC_MAC.at 0) 0x1234
    |>.setFld (R.PRT_IP4_VALID.at 0) 1 |>.setFld (R.PRT_IP4_IP4.at 0) 5

/-- The handle of extent 3. -/
def h3 : BitVec 32 := BitVec.ofNat 32 (2 ^ 18 + 3)

/-- Whether a request begins, and what holds then. -/
def ranOk (x : Option (State × Req)) (f : State → Req → Bool) : Bool := match x with | some (u, r) => f u r | none => false

theorem witness_registers :
    offsetOk 0x1 = false ∧ (offsetOk 0xFFFFF8 = true ∧ findReg 0xFFFFF8 = none) ∧ (offsetOk 0x58 = true ∧ findReg 0x58 = none) ∧
    (match findReg 0x13000 with | some _ => true | none => true) = true ∧ State.reset.dir.ready = [] := by decide +kernel

/-- A held register whose word is in range: `QOS_TCFG` of tenant 0 keeps its reset word. -/
def heldOk (off : Nat) (w : Word64) (s : State) : Bool :=
  match findReg off with
  | some r => offsetOk off && !r.direct && (r.fields.all fun f =>
      f.acc = .rw && s.clampField f (bitsOf w.toNat f.lsb f.w) w.toNat = (bitsOf w.toNat f.lsb f.w, 0)) &&
      ((reservedRuns r.fields).all fun g => lowestIn w.toNat g = none) && !s.pageLocked (off / 0x1000)
  | none => false

theorem witness_held : heldOk 0x22100 (State.reset.word 0x22100) State.reset = true := by decide +kernel
/-- A word of page 18 (FRD) stands held. -/
def heldWord : State := { State.reset with held := [(0x12100, 5)] }

theorem witness_apply : heldWord.pageLocked 18 = false ∧ heldWord.clockStopped 18 = false ∧ mwf heldWord.held = true ∧
    heldWord.dir.ready = [] ∧ (findReg 0x12100).isSome = true ∧ mget heldWord.held 0x12100 = some 5 ∧
    (pageInfo 18).isSome = true := by decide +kernel

theorem witness_events : (pageInfo 18).isSome = true ∧ (1#64).toNat &&& evtMask 18 = (1#64).toNat ∧
    State.reset.clockStopped 18 = false ∧ State.reset.pageLocked 18 = false := by decide +kernel

/-! ### Extents -/

/-- Tenant 1 may have extents and grants; the arguments of an extent command stand in ARG0 and ARG1. -/
def asked (a0 a1 : Nat) (e : NMap Extent) : State :=
  { served with xlt := { served.xlt with extents := e, quarantine := [9] } }
    |>.setWord 0x13118 (BitVec.ofNat 64 a0) |>.setWord 0x13120 (BitVec.ofNat 64 a1)
    |>.setWord 0x13410 (BitVec.ofNat 64 (10 * 2 ^ 8 + 10 * 2 ^ 27)) |>.setWord 0x13418 (BitVec.ofNat 64 10)

/-- An extent command of tenant 1 on index `i` starts, and `f` holds of the state that it starts from. -/
def starts (n i : Nat) (s : State) (f : State → Bool) : Bool :=
  match s.xltStarts (.core 0) (BitVec.ofNat 64 (2 ^ 63 + i * 2 ^ 10 + 16)) n with
  | some t => s.dir.ready = [] && f t
  | none => false

/-- The premises of CREATE at index 2 from unit 16 on, of 8 units, and with any index and any start. -/
theorem witness_create :
    starts 1 2 (asked (16 + 8 * 2 ^ 24) 0 [(3, ext1)]) (fun t => t.indexFree 2 && t.holds (setOfIndex 2) && t.admitted 1 &&
      t.rangeFree 16 8 && t.quotaAdmits 1 8 && decide (t.usedUnits + chargeOf 0 8 ≤ poolUnits) &&
      !t.standby (setOfIndex 2)) = true ∧
    starts 1 2 (asked (8 * 2 ^ 24 + 2 ^ 48) (2 ^ 9 + 1) [(3, ext1)]) (fun t => t.lowestIndex = some 0 &&
      t.lowestStart 1 8 0 = some 16 && (t.parityStart 16 8 (parityUnits 8)).isSome && t.quotaAdmits 1 8) = true := by
  decide +kernel
/-- Beside them the partner is formed: a mirrored CREATE is offered to it when it knows the tenant, a free value. -/
def pairUp (s : State) : State :=
  { s with par := { s.par with formed := true, set0 := { s.par.set0 with st := 2 }, set1 := { s.par.set1 with st := 2 } } }
    |>.setFld R.PAR_CFG_PAIR_EN 1

theorem witness_create_mirrored :
    starts 1 2 (pairUp (asked (16 + 8 * 2 ^ 24) 2 [(3, ext1)])) (fun t => t.indexFree 2 && t.holds (setOfIndex 2) &&
      t.admitted 1 && t.rangeFree 16 8 && t.quotaAdmits 1 8 && decide (t.usedUnits + chargeOf 2 8 ≤ poolUnits) &&
      t.paired && t.par.formed) = true := by decide +kernel

theorem witness_grants :
    starts 2 3 (asked 0 (7 * 2 ^ 10 + 3 * 2 ^ 22) [(3, ext1)]) (fun t => t.cmdExtent .opened = some (3, ext1) &&
      t.holderTenant (t.fld R.XLT_CMD_ARG1_HOLDER) = 1 && t.fld R.XLT_CMD_ARG1_RIGHTS = 3 &&
      decide (t.grantsOf 1 < t.fld (R.XLT_TCFG_MAX_GRANTS.at 0x10))) = true ∧
    (∀ n ∈ [3, 4, 5], starts n 3 (asked 0 (7 * 2 ^ 10) [(3, ext1)]) (fun t => t.cmdExtent .opened = some (3, ext1) &&
      decide (t.xlt.revokes.length < 16)) = true) ∧
    starts 6 3 (asked 0 0 [(3, { ext1 with state := .closed })]) (fun t => t.cmdExtent .closed =
      some (3, { ext1 with state := .closed })) = true ∧
    starts 6 3 (asked 0 0 [(3, { ext1 with state := .closed, gen := 16383 })]) (fun t => (t.cmdExtent .closed).isSome) = true ∧
    starts 7 9 (asked 0 0 [(3, ext1)]) (fun t => t.fld R.XLT_CMD_INDEX = 9 && t.xlt.quarantine.contains 9 &&
      t.holds (setOfIndex 9)) = true := by decide +kernel

/-- Extent 3 is CLOSING and its sweep is over. -/
def swept : State := { served with xlt := { served.xlt with extents := [(3, { ext1 with state := .closing })], revokes := [(3, none)] } }

theorem witness_revoke_complete : (3, none) ∈ swept.xlt.revokes ∧ swept.extent 3 = some { ext1 with state := .closing } ∧
    swept.revokeOver 3 = true ∧ swept.arenaOf 3 = none ∧ swept.dir.ready = [] := by decide +kernel

theorem witness_xlt_reads : starts 0 0 State.reset (fun _ => true) = true ∧
    ({ resetXlt with revokeDone := [(3, 1)] } : Xlt).revokeDone = (3, 1) :: [] ∧ (1#64).toNat < 2 := by decide +kernel

/-! ### The frame -/

def rd0 : RqEntry := ⟨0, 0, 1, false, false, none, 0⟩

/-- A queued read of granule 0, of pseudo-channel 0. -/
def reading : State :=
  { up with smc := { up.smc with pcs := [(0, { resetPc with state := 1, rdLat := 40, rq := [rd0] })] } }

theorem witness_frame : up.pwr.timer = true ∧ State.reset.pwr.timer = false ∧ up.ftm.windows = [] := by decide +kernel

theorem witness_access_slot : reading.slotRuns 0 0 = true ∧ reading.slotUse 0 0 = .access none ∧ reading.strict = false ∧
    (reading.pc 0).rq = [rd0] ∧ (reading.pc 0).wq = [] ∧ (reading.pc 0).wqFull = false ∧
    reading.acc.sweepLines = false ∧ (reading.pc 0).inserted = [] ∧ reading.ecc.recon ++ reading.ecc.verify = [] ∧
    ((reading.pc 0).closeIdle (reading.slotMc 0)).colReady 0 (reading.slotMc 0) = true ∧
    44 < reading.fld (R.SMC_CFG_IDLE_CYC.at 0) := by decide +kernel

def callBody0 : CallBody := ⟨0, 0, 0, 0, false, [], []⟩
def req0 : Req := ⟨.ipt, 5, 7, 1, src0, 9, 77, false, false, false, 64, 0, false, [], [], none, none, true, false, false, none, none, .call callBody0, 0⟩
def bind0 : Bind := ⟨1, 3, 1, 3, false, 0, 0, 65536, 1, 0⟩
def call0 : CallRec := ⟨1, req0, 1, 2, 1, 0, [bind0], [7], [], true, true, true, 0, []⟩
def run0 : Run := ⟨1, 0, 0, 0, 0, 0, ⟨0, [], false⟩, ⟨0, [], false⟩, 0, [], [], [], [], [], [], [], [], 0, 0, false, 0, false, 0, none, false⟩

/-- A call runs in its window. -/
def running : State :=
  { served with
    seq := { served.seq with calls := [call0], run := some run0 }
    ftm := { served.ftm with windows := [⟨1, 1, 0, 10, 0⟩] } }

/-- The same state with pseudo-channel 0 as given. -/
def withPc (s : State) (x : Pc) : State := { s with smc := { s.smc with pcs := [(0, x)] } }

def pc0 : Pc := { resetPc with state := 1, rdLat := 40 }

/-- A planned write of granule 0, the first of extent 3. -/
def cmd0 : PlannedCmd := ⟨0, true, List.replicate 64 5, 0, 0, 0, 0, [], 64, 0, 0⟩

def planned : State := withPc running { pc0 with planned := [cmd0] }

theorem witness_planned_slot : planned.slotRuns 0 1 = true ∧ planned.slotUse 0 1 = .planned ∧
    planned.runCall = some (run0, call0) ∧ (planned.pc 0).inserted = [] ∧ (planned.pc 0).planned = [cmd0] ∧
    cmd0.write = true ∧ cmd0.data.length = 64 ∧ cmd0.entered + 4 ≤ planned.slotMc 1 ∧
    (planned.pc 0).actReady (bankOfG cmd0.g) (planned.slotMc 1) = true ∧
    planned.extentAt (cmd0.g * 64) = some (3, ext1) := by decide +kernel

theorem witness_guard_slot : up.slotRuns 0 5 = true ∧ up.slotUse 0 5 = .guard := by decide +kernel

def idle : State := withPc up { pc0 with idleAt := [(4, 20)], openRows := [(4, 1)] }

def wr0 : WqEntry := ⟨0, false, 1, none, false, 0⟩
def waiting : State := { up with smc := { up.smc with waits := [⟨[0], [0], .entry wr0⟩] } }

theorem witness_queue_rows : up.slotRuns 0 4 = true ∧ up.slotUse 0 4 = .refresh ∧ up.slotRuns 0 3 = true ∧
    up.slotUse 0 3 = .cal ∧ up.slotRuns 0 2 = true ∧ up.slotUse 0 2 = .scrub ∧ up.ecc.recon ++ up.ecc.verify = [] ∧
    mget up.ftm.zqTemp 0 = none ∧ mget (idle.pc 0).idleAt 4 = some 20 ∧
    (let u := idle.toTime (ceilDiv (20 * 5) 16)
     let slot := (u.now - u.frameStart) / 15
     u.slotRuns 0 slot = true ∧ u.slotUse 0 slot = .access none ∧ reached (idle.pc 0).wrTo 4 0 u.mcNow = true) ∧
    waiting.smc.waits = [⟨[wr0.g], [wr0.g], .entry wr0⟩] ∧ (waiting.pc 0).wq.length < wqDepth ∧
    waiting.readQueued 0 = false ∧ waiting.dir.ready = [] := by decide +kernel

/-- CAL step counts of pseudo-channel 0 at each bound of the rule: before a training, a ZQ and the first step. -/
theorem witness_cal : (4095 + 1) % 4096 = 0 ∧ (255 + 1) % 4096 ≠ 0 ∧ 256 ≤ 255 + 1 ∧
    (mgetD up.ftm.calTotal 0 0 + 1) % 4096 ≠ 0 ∧ mgetD up.ftm.calCount 0 0 + 1 < 256 := by decide +kernel

def tuned : State := { up with ftm := { up.ftm with calDue := [(0, 40)], free := true, due := some [] } } |>.setFld
  R.FTM_REBASE_DOWN_PENDING 1

def evicting : State := { up with dir := { up.dir with evict := true, entries := [⟨0, 3, 31, true, false, 1, 1, [7], []⟩] } }

theorem witness_boundary : up.act R.FTM_THERM_HOT_C ≤ [95, 120].foldl max 0 ∧
    [20].foldl max 0 < up.act R.FTM_THERM_HOT_C ∧ tuned.now = tuned.frameStart ∧ tuned.ftm.calDue = [(0, 40)] ∧
    tuned.fld R.FTM_REBASE_PL_LAT < 46 ∧ 46 + 2 ≤ tuned.fld R.FTM_REBASE_PL_LAT + 8 ∧ tuned.runCall = none ∧
    (tuned.pc 0).state = 1 ∧ 40 ≤ tuned.fld R.FTM_REBASE_PL_LAT ∧ tuned.ftm.free = true ∧
    tuned.fld R.FTM_REBASE_DOWN_PENDING = 1 ∧ up.ftm.free = false ∧ up.ftm.calDue = [] ∧ up.ftm.due = none ∧ tuned.ftm.due = some [] ∧
    up.dir.evict = false := by decide +kernel

/-- The bank of a line is a free value, so the witness names the bank that it gives. -/
theorem witness_evict :
    evicting.dir.entries.find? (fun d => evicting.ownEntry d && dirSetOf d.line / 131072 = dirSetOf 0 / 131072 % 16 &&
      !(evicting.dirWays d.tenant).contains d.way && !evicting.blocked d.line) =
      some ⟨0, 3, 31, true, false, 1, 1, [7], []⟩ ∧ evicting.victimsFull 1 = false := by
  have h1 : evicting.ownEntry ⟨0, 3, 31, true, false, 1, 1, [7], []⟩ = true := by decide +kernel
  have h2 : 31 ∉ evicting.dirWays 1 := by decide +kernel
  have h3 : evicting.blocked 0 = false := by decide +kernel
  have h4 : dirSetOf 0 / 131072 % 16 = dirSetOf 0 / 131072 := by unfold dirSetOf; omega
  refine ⟨?_, by decide +kernel⟩
  rw [show evicting.dir.entries = [⟨0, 3, 31, true, false, 1, 1, [7], []⟩] from rfl, List.find?_cons_of_pos]
  simp [h1, h2, h3, h4]
/-! ### Calls, fronds and fields -/

/-- A plan of one frond and 10,000 cycles: the words LOOP, NEXT, ENDLOOP and END. -/
def image0 : Mem :=
  [(6, 1), (7, 1), (0xC, 16), (0xD, 39), (0x13, 8), (0x1200, 1), (0x1320, 2), (0x13B0, 3)]

def plan0 : Plan := ⟨2, 1, image0, [(0, 5248)], 5248, 0⟩

/-- `running` with its plan, the main pointer at word `k` after `lead` more cycles, and what waits. -/
def callAt (k lead : Nat) : State :=
  { running with seq := { running.seq with
    plans := [(2, plan0)]
    run := some { run0 with mp := ⟨k, [], false⟩, leadIn := lead } } }

def vec0 : VecField := ⟨1, 0, 0, 0, false, 13, 0⟩
/-- CVT to MXFP8 E4M3 (code 3). -/
def vecMx : VecField := ⟨1, 0, 0, 0, false, 0, 2 * 3 + 32⟩
def unit0 : UnitField := ⟨1, 0, 0, 0⟩

theorem witness_vector : (callAt 1 0).seq.run.isSome = true ∧ (callAt 1 0).enabledFronds 0 vec0.en = [0] ∧ vec0.mx = false ∧
    vecMx.mx = true ∧ mxExp vecMx.sel = some 8 ∧
    (callAt 1 0).ecc.sram = [] ∧
    (∀ k, k < 64 → ((((callAt 1 0).frond 0).vreg vec0.vb).getD k 0).toNat < 64) := by decide +kernel

theorem witness_int_lanes : vec0.vfmt = 13 ∧ vec0.isat = false ∧ (List.replicate 64 3).length = 64 ∧
    (∀ a ∈ List.replicate 64 3, a < 2 ^ 32) ∧ (31#32).toNat < 32 ∧ (0x80000000#32) ≠ 0 ∧
    ({ vec0 with varg := 1 } : VecField).isat = true := by decide +kernel

theorem witness_nans : (FVal.nan false).isNan = true ∧ (fp32.decode 0x7FC00000).isNan = true ∧
    (fp32.decode 0x3F800000).isNan = false ∧ (-1 : Int) ≤ 0 ∧ (0 : Int) < 1 := by decide +kernel

theorem witness_no_call : State.reset.seq.run = none := by decide +kernel

theorem witness_units : (callAt 1 0).enabledFronds 0 unit0.en = [0] ∧ matPair 0 ((callAt 1 0).frond 0).bfmt = true ∧
    matPair 1 ((callAt 1 0).frond 0).bfmt = false := by decide +kernel

theorem witness_merge : [1, 3, 5].Pairwise (· < ·) ∧ [3, 4].Pairwise (· < ·) ∧ [1, 1, 2].Pairwise (· ≤ ·) := by decide

def hashed : Frond := { ((callAt 1 0).frond 0) with store := Mem.write [] 0 [7] }

theorem witness_hash : (3 : Nat) ≠ emptyKey ∧ hashFind hashed 0 2 1 1 3 = none ∧ hashFind hashed 0 2 1 1 0 ≠ none := by decide +kernel

def mover0 : MoverField := ⟨0, 0, false, 0, 0, 0, 0, 0, 0, 0⟩

/-- The slab store's first word is a list entry that names device byte `a`, or none. -/
def listing (a : Nat) : State :=
  { callAt 1 0 with seq := { (callAt 1 0).seq with slab := Mem.write [] 0 (leBytes 8 a), slabValid := [0] } }

theorem witness_movers : (callAt 1 0).runCall.isSome = true ∧ call0.slot mover0.slot = some bind0 ∧
    bind0.inRow 0 mover0.bytes = true ∧ bind0.inRow 65536 mover0.bytes = false ∧ call0.slot 5 = none ∧
    mover0.rows = 0 ∧ bind0.rowAt 128 mover0.bytes = true ∧
    listEntry (leNat ((listing (2 ^ 64 - 1)).slabRead 0 8)) = none ∧
    listEntry (leNat ((listing 128).slabRead 0 8)) = some 128 := by decide +kernel

theorem witness_plan_enter : (callAt 1 0).seq.run.isSome = true ∧ (callAt 1 0).smc.waits = [] ∧
    ((callAt 1 0).pc (pcOf (cmd0.g * 64))).planned.length < 256 := by decide +kernel

theorem witness_land : [1#8, 2#8].length ≤ 2 ^ 21 ∧ (∀ i, i < 2 → (0 + i) % 2 ^ 21 ≠ 7 % 2 ^ 21) ∧
    0 + [1#8, 2#8].length ≤ slabBytes := by decide +kernel

theorem witness_template : State.reset.pageLocked 13 = false ∧ State.reset.dir.ready = [] := by decide +kernel

/-- Every SEQ_OP at its word, the main pointer issuing and the main pointer waiting. -/
theorem witness_sequencer :
    (∀ x ∈ [(0, 1), (1, 0), (2, 2), (3, 3)], (controlOf (planWord (State.planImage (callAt x.1 0) 2) x.1)).op = x.2) ∧
    (callAt 1 0).runCall.isSome = true ∧ (callAt 0 9).runCall.isSome = true ∧
    (match (callAt 0 9).runCall with | some (r, _) => r.leadIn ≠ 0 && !r.rp.fin && !r.mp.fin | none => false) = true := by
  decide +kernel

def loop0 : LoopSt := ⟨1, 1, 1, false, false⟩

theorem witness_pointer : (⟨2, [loop0], false⟩ : Ptr).loops = loop0 :: [] ∧ loop0.left ≤ 1 ∧ 1 < ({ loop0 with left := 2 } : LoopSt).left := by
  decide

/-- The call waits for its start; the call is in the queue and unlocked; its END has issued. -/
def starting : State := { callAt 1 0 with seq := { (callAt 1 0).seq with run := none } }
def queued : State := { starting with seq := { starting.seq with calls := [{ call0 with locked := false, committed := false }] } }
def ended : State := { callAt 1 0 with seq := { (callAt 1 0).seq with run := some { run0 with mp := ⟨3, [], true⟩ } } }

theorem witness_calls : starting.windowCall.isSome = true ∧ starting.seq.run = none ∧ starting.ftm.lent = none ∧
    (queued.seq.calls.find? (fun c => c.key = 1)).isSome = true ∧
    (let u := (call0.units.foldl (fun s u => s.fillUnit u) queued).flushBinds call0.binds
     let v := (u.recalls call0).foldl (fun s i => s.pullExtent i) u
     !v.recallOpen call0 && !v.queuedBefore call0 && !v.fillsWait call0) = true ∧
    (match ended.runCall with | some (r, c) => r.mp.fin && !r.waitsSync (ended.declaredCycles c - 1) | none => false) = true := by decide +kernel

/-- A planned read has returned at pseudo-channel 0; a fetch-and-add of object 3 waits in the sync slot. -/
def landed : State :=
  { callAt 1 0 with seq := { (callAt 1 0).seq with landings := [⟨0, 0, { cmd0 with write := false, data := [] }, List.replicate 64 7⟩] } }
def op0 : SlotOp := ⟨1, 3, 0, 0, 0, [1], 100, none⟩
/-- Its result has come, and stands 89 cycles after the issue. -/
def answered : State := { callAt 1 0 with seq := { (callAt 1 0).seq with
  run := some { run0 with cyc := 200, ops := [{ op0 with result := some [5] }] } } }
def syncing : State := { callAt 1 0 with seq := { (callAt 1 0).seq with run := some { run0 with ops := [op0] } } }

theorem witness_planned_data : (landed.seq.landings.find? (fun l => l.pc = 0)).isSome = true ∧
    landed.seq.landings.find? (fun l => l.pc = 1) = none ∧ syncing.runCall.isSome = true ∧
    (syncing.tick.syncRun op0.obj op0.sop op0.operand).1.seq = syncing.seq ∧
    (syncing.tick.syncRun op0.obj op0.sop op0.operand).1.ftm = syncing.ftm ∧ answered.seq.run.isSome = true ∧
    100 + slotLatency ≤ 200 + 96 := by decide +kernel

/-- Frond 0 is RETIRING; the spare is ACTIVE in the second state. -/
def retiring : State := { State.reset with frd := [(0, ⟨2, 0, 0, 0⟩)] }
def noSpare : State := { State.reset with frd := [(0, ⟨2, 0, 0, 0⟩), (64, ⟨3, 127, 0, 0⟩)] }

theorem witness_fronds : (callAt 1 0).seq.run.isSome = true ∧ retiring.seq.run = none ∧
    (List.range 65).find? (fun p => (retiring.phys p).st = 2) = some 0 ∧
    (List.range 65).find? (fun q => (retiring.phys q).st = 1) = some 64 ∧
    (List.range 65).find? (fun p => (noSpare.phys p).st = 2) = some 0 ∧ (∀ x, x < 65 → (noSpare.phys x).st ≠ 1) ∧
    (noSpare.phys 63).logical = noSpare.available - 1 ∧ noSpare.available ≤ 65 ∧
    (∀ x, x < 63 → x ≠ 0 → (noSpare.phys x).logical ≠ noSpare.available - 1) ∧ State.reset.clockStopped 18 = false ∧
    State.reset.pageLocked 18 = false ∧ 1 < State.reset.activeFronds := by decide +kernel

/-! ### Requests -/

def ad (i len off : Nat) : Addr := ⟨BitVec.ofNat 32 (2 ^ 18 + i), BitVec.ofNat 32 len, BitVec.ofNat 64 off⟩
def b8 : List Byte := [1, 2, 3, 4, 5, 6, 7, 8]
def one32 : List Byte := [0, 0, 128, 63]
def qp0 : QpArgs := ⟨1, 0, 4791, 3, 0, 0, 14, 7, 7⟩
def sync8 : SyncArgs := ⟨false, 0, 0, List.replicate 8 1⟩
def arena0 : BitVec 32 := BitVec.ofNat 32 (2 ^ 18 + 5)

/-- Beside extent 3 the tenant has a coherent extent 4 and an arena 5 of four one-unit blocks, a plan range, objects, pins
and queues; holder 7 is a member, and block 1 is staged by it. Connection 6 is a privileged one of holder 8. -/
def full : State :=
  { served with
    xlt := { served.xlt with extents := [(3, ext1), (4, { ext1 with start := 32, coherent := true }), (5, { ext1 with start := 64, len := 4 }), (6, { ext1 with start := 48 })] }
    prt := { served.prt with
      conns := [(5, conn0), (6, { conn0 with holder := 8, session := some 9 })]
      hcfg := [(7, BitVec.ofNat 64 (1 + 2 + 100 * 2 ^ 9)), (8, BitVec.ofNat 64 (1 + 2 + 2 ^ 8 + 100 * 2 ^ 9))] }
    sec := { served.sec with sessions := [(9, ⟨some 1, 0, 6, true, 0⟩)] }
    dir := { served.dir with members := [(7, ⟨1, 5, 16, 0, 0, 0⟩)] }
    pfx := { served.pfx with blocks := [(1, ⟨1, 7⟩)] } }
    |>.setWord 0x16200 (BitVec.ofNat 64 (5 + 2 ^ 18 + 2 ^ 29 + 4 * 2 ^ 30 + 2 ^ 53))
    |>.setWord 0x16A10 (BitVec.ofNat 64 (16 * 2 ^ 19 + 100 * 2 ^ 39))
    |>.setWord 0x10410 (BitVec.ofNat 64 (64 + 8 * 2 ^ 23 + 16 * 2 ^ 34))
    |>.setWord 0x17410 (BitVec.ofNat 64 (8 * 2 ^ 16 + 8 * 2 ^ 33))

/-- A request of connection 5 begins, and `f` holds then. -/
def asks (s : State) (op : ReqOp) (f : State → Req → Bool) : Bool := ranOk (s.runs (pktOf op) op) f

/-- Every data request of one range begins. -/
theorem witness_data : ∀ op ∈ [ReqOp.read (ad 3 63 0), .write (ad 3 7 0) b8, .swap (ad 3 1 0) b8, .cas (ad 3 1 0) b8 b8,
    .fetchAdd (ad 3 1 0) b8, .fetchAnd (ad 3 1 0) b8, .fetchOr (ad 3 1 0) b8, .fetchXor (ad 3 1 0) b8,
    .fetchSmin (ad 3 1 0) b8, .fetchSmax (ad 3 1 0) b8, .fetchUmin (ad 3 1 0) b8, .fetchUmax (ad 3 1 0) b8,
    .accum (ad 3 0 0) one32], asks full op (fun _ _ => true) = true := by decide +kernel

/-- Then its granules can be read and written, and no coherent copy holds it back. -/
theorem witness_ranges : asks full (.read (ad 3 63 0)) (fun u r => !u.dirHolds r ext1 (linesOf 0 64) &&
      (u.opDone.firstShut ext1 [0]).isNone && (match (u.opDone.readRange 3 ext1 0 64 []).2 with | .ok => true | _ => false) &&
      (match (u.opDone.readAll 3 ext1 [0] []).2 with | .ok => true | _ => false)) = true := by decide +kernel

/-- Which engine checks a request is a free value, and where a request names two ranges the kernel meets it: whichever engine
it is, a MOVE and an accumulate with residuals pass their checks. -/
theorem witness_two_ranges :
    (∀ eng, eng < 4 → (match full.tick.checkSpans (16 + eng) (reqOf pkt0 conn0 (.move (ad 3 0 0) (ad 6 0 4096) 63 0 64 64) 0 0)
      (ReqOp.spans (.move (ad 3 0 0) (ad 6 0 4096) 63 0 64 64)) 0 with | (_, .ok _) => true | _ => false) = true) ∧
    (∀ eng, eng < 16 → (match full.tick.checkSpans eng (reqOf pkt0 conn0 (.accumRc (ad 3 8192 0) (ad 6 8192 4096) one32) 0 0)
      (ReqOp.spans (.accumRc (ad 3 8192 0) (ad 6 8192 4096) one32)) 0 with | (_, .ok _) => true | _ => false) = true) := by
  decide +kernel

/-- What `State.mapsAtHand` asks for, as a test. -/
def mapsB (v : State) (gs : List Nat) (x n : Nat) : Bool :=
  (x + n ≤ poolEnd || awayBase ≤ x) && v.ecc.sram.isEmpty && v.ecc.errs.isEmpty && v.ecc.planFaults.isEmpty &&
    gs.all fun g => mget v.ecc.units (g / 1024) ≠ some false || (v.ecc.vcache.find? fun e => e.1 = g / 1024).isSome

theorem maps_of_test (v : State) (gs : List Nat) (x n : Nat) (h : mapsB v gs x n = true) : v.mapsAtHand gs x n := by
  simp only [mapsB, Bool.and_eq_true, Bool.or_eq_true, decide_eq_true_eq, List.isEmpty_iff, List.all_eq_true] at h
  obtain ⟨⟨⟨⟨h1, h2⟩, h3⟩, h5⟩, h4⟩ := h
  refine ⟨h1, h2, fun g hg hm => ?_, by simp [h5], fun g _ => by rw [h3]; rfl⟩
  rcases h4 g hg with h | h
  · exact absurd hm h
  · exact h

/-- Nothing keeps the write of granules `gs` of extent `i` from taking effect at once. -/
def lands (u : State) (i : Nat) (e : Extent) (gs part : List Nat) (x n : Nat) (own : Nat → Writer) (through : Bool := false) : Bool :=
  let (k, t0) := u.opDone.newKey
  (u.opDone.firstShut e gs).isNone && !t0.writeShort gs (t0.writeNeeds i e gs (own k)) false &&
    (match t0.writeReads i e gs part [] none through with | (v, .ok) => mapsB v gs x n | _ => false)

theorem witness_writes : asks full (.write (ad 3 7 0) b8) (fun u r => !u.dirHolds r ext1 (linesOf 0 8) &&
      lands u 3 ext1 [0] (partialGranules 0 8) 0 8 (fun k => ⟨k, false, none, ext1.ownReads 0 8⟩)) = true ∧
    (∀ op ∈ [ReqOp.swap (ad 3 1 0) b8, .cas (ad 3 1 0) b8 b8, .cas (ad 3 1 0) b8 (List.replicate 8 0),
        .fetchAdd (ad 3 1 0) b8, .fetchAnd (ad 3 1 0) b8, .fetchOr (ad 3 1 0) b8, .fetchXor (ad 3 1 0) b8,
        .fetchSmin (ad 3 1 0) b8, .fetchSmax (ad 3 1 0) b8, .fetchUmin (ad 3 1 0) b8, .fetchUmax (ad 3 1 0) b8,
        .accum (ad 3 0 0) one32], asks full op (fun u r => !u.dirHolds r ext1 (linesOf 0 8) &&
      lands u 3 ext1 [0] [0] 0 8 (fun k => ⟨k, true, none, [0]⟩) true) = true) := by decide +kernel

/-- Extent 6. -/
def ext6 : Extent := { ext1 with start := 48 }

/-- The granules of an accumulate with residuals; which engine checks it is a free value. -/
theorem witness_accum_rc :
    (let tg := granulesOf 0 2
     let sg := granulesOf (48 * 65536 + 4096) 2
     let (k, t0) := full.opDone.newKey
     let w : Writer := ⟨k, true, none, tg ++ sg⟩
     (full.opDone.firstShut ext1 tg).isNone && (full.opDone.firstShut ext6 sg).isNone &&
      !t0.writeShort (tg ++ sg) (t0.writeNeeds 3 ext1 tg w ++ t0.writeNeeds 6 ext6 sg w).eraseDups false &&
      (match t0.writeReads 3 ext1 tg tg [] with
       | (v, .ok) => (match v.writeReads 6 ext6 sg sg [] with
         | (v, .ok) => mapsB v (tg ++ sg) 0 2 && mapsB v (tg ++ sg) (48 * 65536 + 4096) 2 | _ => false)
       | _ => false)) = true := by decide +kernel

/-- A poisoned granule ends a READ. -/
def poisoned : State := { full with ecc := { full.ecc with units := [(0, true)], gmeta := [(0, 0x8000)] } }

theorem witness_atomics : b8.length = b8.length ∧ b8.length ∈ [4, 8, 16] ∧ b8 ≠ b8.reverse := by decide

def reqOf0 (op : ReqOp) : Req := { req0 with op := op }

theorem witness_answers : (reqOf0 (.read (ad 3 63 0))).via = .ipt ∧ (reqOf0 .fence).chunk = none ∧ (reqOf0 .fence).accepted = false ∧
    full.conn 5 = some conn0 ∧ Status.faults Status.ok = false ∧ Status.faults Status.revoked = true ∧
    (full.fq 1).entries.length < 1024 ∧ full.xlt.mfq.entries.length < 1024 := by decide +kernel

/-- A MOVE of one row of 64 bytes from offset 0 to offset 4,096, queued; it has ended in the second state. -/
def move0 : Move := ⟨1, { reqOf0 (.move (ad 3 0 0) (ad 6 0 4096) 63 0 64 64) with accepted := true, checked := true }, 0, 3149824, 3, 6, 0, 0, 0, none, true, none, none⟩
def moving : State := { full with
  acc := { full.acc with moves := [move0], nextKey := 2 }
  qos := { full.qos with acq := [⟨1, 1, 64, 0, .move 1⟩] } }
def moved : State := { moving with acc := { moving.acc with moves := [{ move0 with fate := some ⟨0, 0, [], 0, 0, 0⟩ }] } }

theorem witness_move : full.acc.moves.length < 1024 ∧ moving.chunkAwake 1 = true ∧ moving.findMove 1 = some move0 ∧ moving.extent 3 = some ext1 ∧ moving.extent 6 = some { ext1 with start := 48 } ∧ ext1.coherent = false ∧
    (match (moving.readAll 3 ext1 (granulesOf move0.chunk.1 move0.chunk.2.2) []).2 with | .ok => true | _ => false) = true ∧
    moving.firstShut { ext1 with start := 48 } (granulesOf move0.chunk.2.1 move0.chunk.2.2) = none ∧
    (moved.findMove 1).any (fun m => m.fate.isSome) = true ∧ moved.smc.waits = [] ∧ moved.par.reqs = [] := by decide +kernel

theorem witness_move_chunk :
    (let c := move0.chunk
     let s0 := { moving with qos := { moving.qos with acq := moving.qos.acq.filter fun x => x.kind ≠ AccKind.move 1 } }
     let part := fun (op : ReqOp) => move0.pseudo op { move0.req with fetched := [], txns := [] }
     let gs := granulesOf c.2.1 c.2.2
     !s0.dirHolds (part (.read ⟨0, 0, 0⟩)) ext1 (linesOf c.1 c.2.2) &&
      (match s0.readAll 3 ext1 (granulesOf c.1 c.2.2) [] (some 1) with
       | (v, .ok) =>
         let x := v.setMove { move0 with held := some (v.ecc.mem.read c.1 c.2.2) }
         !x.dirHolds (part (.write ⟨0, 0, 0⟩ [])) ext6 (linesOf c.2.1 c.2.2) && (x.firstShut ext6 gs).isNone &&
          !x.writeShort gs (x.writeNeeds 6 ext6 gs ⟨1, false, some 1, ext6.ownReads c.2.1 c.2.2⟩) move0.req.turn &&
          (match x.writeReads 6 ext6 gs (partialGranules c.2.1 c.2.2) [] (some 1) with
           | (w, .ok) => mapsB w gs c.2.1 c.2.2 | _ => false)
       | _ => false)) = true := by decide +kernel

theorem witness_hint_fence : asks full (.hint (ad 3 0 0) 1) (fun _ _ => true) = true ∧
    asks full (.hint (ad 3 0 0) 5) (fun _ _ => true) = true ∧ asks full (.hint (ad 3 0 0) 2) (fun _ _ => true) = true ∧
    asks full .fence (fun u r => !u.outstanding r.conn u.acc.nextKey) = true ∧
    asks moving .fence (fun u r => u.outstanding r.conn u.acc.nextKey) = true := by decide +kernel

def held0 : State := { full with acc := { full.acc with
  fences := [(2, { reqOf0 .fence with accepted := true })]
  prefetch := [⟨3, { reqOf0 (.hint (ad 3 0 0) 5) with accepted := true }, [], ⟨0, 0, [], 0, 0, 0⟩⟩]
  replay := [⟨1, 7, 77, some ⟨0, 0, [], 0, 0, 0⟩, some 500, false, false, 0⟩] } }

theorem witness_waiting_ends : (held0.acc.prefetch.find? (fun q => q.key = 3)).isSome = true ∧
    (held0.acc.fences.find? (fun f => f.2.conn = 5)).isSome = true ∧ held0.outstanding 5 0 = false ∧
    (held0.acc.replay.find? (fun e => e.tenant = 1 && e.holder = 7 && e.reqId = 77)).isSome = true := by decide +kernel

/-! ### Schedulers and commit points -/

def egr0 : EgItem := ⟨0, 0, none, 64, 0, none, none, .arpReply src0 0 0⟩
def offered : State := { moving with qos := { moving.qos with egr := [egr0] } }
def rdma0 : RdmaRead := ⟨4, reqOf0 (.read (ad 3 0 0)), 64, 64, 0, []⟩
def chunked : State := { full with
  acc := { full.acc with rdma := [rdma0] }
  qos := { full.qos with acq := [⟨4, 1, 64, 0, .rdma 4⟩] } }

theorem witness_schedulers : full.offering false = [] ∧ moving.strict = false ∧ moving.offerOf false 1 = none ∧
    (moving.offerOf true 1).isSome = true ∧ moving.accWeight 1 ≠ 0 ∧
    chooseTenant (moving.offering true) moving.accWeight (fun t => mgetD moving.qos.fAcc t 0) moving.qos.prioAcc = some 1 ∧
    (cyclesTo moving.acAllowed moving.acCycle).isSome = true := by decide +kernel

/-- Sub-port 0 of port 0 is up with a control packet, and a port and a queue without one. -/
def sending : State := { full with
  prt := { full.prt with subs := [(0, ⟨true, [], [], none, 0⟩)] }
  qos := { full.qos with egr := [egr0] } }
def silent : State := { sending with qos := full.qos }

theorem witness_egress : (sending.subOpen 0 0 && (sending.sub 0 0).up) = true ∧
    sending.qos.egr.find? (fun e => e.inQueue 0 0 none) = some egr0 ∧ mgetD sending.qos.ctlAt 0 0 ≤ sending.now ∧
    sending.fld (R.PRT_CFG_MACSEC.at 0) = 0 ∧ egr0.pkt.rated = none ∧ (full.subOpen 1 0 && (full.sub 1 0).up) = false ∧
    silent.qos.egr.find? (fun e => e.inQueue 0 0 none) = none ∧ (∀ t, t < 64 → silent.egEligible 0 0 t = none) := by
  decide +kernel

theorem witness_rdma_chunk : chunked.acc.rdma.find? (fun x => x.key = 4) = some rdma0 ∧
    (chunked.qos.acq.find? (fun y => y.kind = AccKind.rdma 4)).isSome = true ∧
    chunked.nappingOf (chunked.reqStack (reqOf0 (.read (ad 3 63 64)))) = [] := by decide +kernel

/-- A locked call waits for its commitment; in strict mode a call's window closes with this frame. -/
def waitingCall : State := { full with
  seq := { full.seq with calls := [{ call0 with committed := false, binds := [] }], plans := [(2, plan0)] } }
def strictly : State := { full with
  seq := { full.seq with calls := [call0], plans := [(2, plan0)], run := some run0 }
  ftm := { full.ftm with windows := [⟨1, 1, 0, 1, 0⟩], acting := (0xD100, 1) :: full.ftm.acting } }

theorem witness_commit :
    (let v := (waitingCall.toTime (waitingCall.frameStart + 1800)).testCalls
     !v.heldForFree && decide (v.fld R.PWR_STATUS_LEVEL ≤ v.frame % 8) && v.planeFree && v.frondsReady && !v.strict &&
       v.sharedChoice.isSome) = true ∧
    (let v := (full.toTime (full.frameStart + 1800)).testCalls
     !v.heldForFree && decide (v.fld R.PWR_STATUS_LEVEL ≤ v.frame % 8) && v.sharedChoice.isNone) = true ∧
    (let v := (strictly.toTime (strictly.frameStart + 1800)).testCalls
     !v.heldForFree && decide (v.fld R.PWR_STATUS_LEVEL ≤ v.frame % 8) && !v.planeFree) = true ∧
    full.closing = none ∧ full.strict = false := by decide +kernel

theorem witness_overrun : strictly.strict = true ∧ strictly.closing.isSome = true ∧
    strictly.rotaOwner (strictly.frame + 1) ≠ some 1 ∧ strictly.endsBy ⟨1, 1, 0, 1, 0⟩ call0 = false := by decide +kernel

/-! ### Plans and calls -/

/-- The smallest image that passes R108: one frond, no slot, the word END. -/
def image1 : Mem :=
  [(0, 0x43), (1, 0x52), (2, 0x5A), (3, 0x31), (4, 1), (6, 1), (8, 1), (0xC, 1), (0x17, 255), (0x1200, 3)]

def loading : Plan := ⟨1, 1, image1, [(0, 4752)], 0, 0⟩
def plan1 : Plan := ⟨2, 1, image1, [(0, 4752)], 4752, 0⟩
def withPlan (p : Plan) : State := { full with seq := { full.seq with plans := [(2, p)], gens := [(2, 1)] } }
def body1 : CallBody := { callBody0 with plan := BitVec.ofNat 32 (planHandle 1 1 2) }
def commit1 : Commit := ⟨2, reqOf0 (.planCommit 2 1 4752 0), 4752, 1, (crc32c (image1.read 0 4752)).toNat⟩
def committing : State :=
  { withPlan loading with seq := { (withPlan loading).seq with commits := [commit1] } }

theorem witness_plans : asks full (.planLoad 2 0 [1, 2]) (fun u r => u.ownsPlan r.tenant 2 && (u.plan 2).isNone &&
      (u.planCalls 2).isEmpty && decide (1 ≤ u.fld (R.SEQ_TCALL_PLAN_PAGES.at 0x10) - u.planPages 1)) = true ∧
    asks (withPlan loading) (.planLoad 2 2 [3]) (fun u _ => u.plan 2 = some loading) = true ∧
    asks (withPlan loading) (.planCommit 2 1 4752 0) (fun u r => u.ownsPlan r.tenant 2) = true ∧
    asks (withPlan plan1) (.planUnload 2) (fun u _ => (u.planCalls 2).isEmpty && u.plan 2 = some plan1) = true ∧
    asks waitingCall (.planUnload 2) (fun u _ => !(u.planCalls 2).isEmpty) = true ∧
    asks full (.call callBody0) (fun u _ => (u.plan 0).isNone) = true := by decide +kernel

theorem witness_commit_done : (committing.seq.commits.find? (fun c => c.index = 2)).isSome = true ∧
    1 % 65536 = (mgetD committing.seq.alive 1 0 + 1) % 65536 ∧ committing.plan 2 = some loading ∧
    commitFail loading 4752 true = none := by decide +kernel

theorem witness_call : asks (withPlan plan1) (.call body1) (fun u r =>
      let h := headerOf image1
      u.plan 2 = some plan1 && plan1.tenant = r.tenant && bitsOf body1.plan.toNat 0 10 = 2 &&
      body1.plan.toNat = planHandle (mgetD u.seq.gens 2 0) r.tenant 2 && h.slots = 0 && h.scalars = 0 &&
      (match u.checkSlots r body1 image1 [] with
       | (v, .ok bs) => bs.isEmpty && decide (h.fronds ≤ v.available) && decide (v.seq.calls.length < 4096) &&
          decide (v.callsOf 1 < v.fld (R.SEQ_TCALL_MAX_QUEUED.at 0x10)) && !v.bindsRetired []
       | _ => false)) = true := by decide +kernel

/-! ### Objects -/

/-- Objects 0 to 5, one of each type of Table 9.1; a wait on the semaphore is registered. -/
def waiter1 : SyncWaiter := ⟨1, 6, reqOf0 (.sync 6 { sync8 with obj := 1 }), q8 [1], q8 [], some 500⟩
def objects : State := { full with syn := { full.syn with objs := [(0, ⟨1, false, false, false, 0, q8 []⟩),
  (1, ⟨3, false, false, false, 0, q8 []⟩), (2, ⟨5, false, false, false, 0, q8 []⟩), (3, ⟨4, false, false, false, 0, q8 []⟩),
  (4, ⟨2, false, false, false, 0, q8 [0, 0, 2]⟩), (5, ⟨6, false, false, false, 0, q8 []⟩)] } }
def waits1 : State := { objects with syn := { objects.syn with waiters := [waiter1] } }

/-- SYNC operation `op` on object `n`. -/
def syncs (s : State) (op n : Nat) (wait : Bool) (f : State → Req → Bool) : Bool :=
  asks s (.sync (BitVec.ofNat 8 op) { sync8 with wait := wait, obj := BitVec.ofNat 16 n, timeout := 9 }) f

theorem witness_sync : (∀ x ∈ [(1, 0), (2, 0), (3, 0), (4, 0), (5, 4), (6, 1), (7, 1), (8, 3), (9, 3), (10, 2), (11, 2), (12, 5)],
      syncs objects x.1 x.2 false (fun u r => !u.taking (setOfObj x.2) && u.holds (setOfObj x.2) && u.ownsObj r.tenant x.2 &&
        !(u.obj x.2).faulted && !(u.obj x.2).badCrc && decide (sopType x.1 = 8 ∨ sopType x.1 = (u.obj x.2).typ ∨
          sopType x.1 = 7 ∧ (u.obj x.2).typ ≠ 0) && u.syn.waiters.isEmpty) = true) ∧
    syncs objects 6 1 true (fun u r => u.waiterRoom r.tenant && !u.standby (setOfObj 1) &&
      !((u.obj 1).apply 6 sync8.a false).2.met) = true := by decide +kernel

theorem witness_init : asks objects (.sync 16 { sync8 with a := [3, 1, 0, 0, 0, 0, 0, 0] }) (fun u r =>
      u.ownsObj r.tenant 0 && initOk [3, 1, 0, 0, 0, 0, 0, 0]) = true ∧
    asks objects (.sync 16 { sync8 with a := [0, 1, 0, 0, 0, 0, 0, 0] }) (fun _ _ => !initOk [0, 1, 0, 0, 0, 0, 0, 0]) = true ∧
    waits1.syn.waiters.find? (fun w => w.obj = 1 && w.req.holder = 7 && w.req.reqId = 77) = some waiter1 ∧
    waiter1.due = some 500 ∧ waits1.holds (setOfObj 1) = true := by decide +kernel

theorem witness_objects : (q8 []).length = 8 ∧ ((objects.obj 4).word 1).toNat < ((objects.obj 4).word 2).toNat ∧
    (objects.obj 2).typ = 5 ∧ (objects.obj 2).faulted = false ∧ (objects.obj 2).full = false := by decide +kernel

/-! ### Coherence -/

def ext4 : Extent := { ext1 with start := 32, coherent := true }

/-- Line 0 of extent 4 is owned by another member, holder 9; its transaction 5 snoops that owner. -/
def entry9 : DirEntry := ⟨16384, 4, 0, true, false, 1, 1, [9], []⟩
def snoop9 : Snoop := ⟨9, 0, 0, true, 0, false, false⟩
def txn5 : Txn := ⟨5, .rdS, 16384, 4, some (reqOf0 (.rdS (ad 4 0 0))), [snoop9], false, false, none, none, 0, false⟩
def shared : State := { full with dir := { full.dir with
  entries := [entry9], members := [(7, ⟨1, 5, 16, 0, 0, 0⟩), (9, ⟨1, 6, 16, 0, 0, 0⟩)] } }
def snooping : State := { shared with dir := { shared.dir with
  txns := [txn5], nextTxn := 6, waiters := [⟨16384, reqOf0 (.rdS (ad 4 0 0)), 0⟩] } }
def granted : State := { shared with dir := { shared.dir with
  txns := [{ txn5 with snoops := [], grant := some (⟨0, 0, [], 0, 0, 0⟩, 0, 1) }], nextTxn := 6 } }
/-- Holder 7 owns the line. -/
def owning : State := { full with dir := { full.dir with entries := [{ entry9 with ptrs := [7] }] } }

theorem witness_coherent : (∀ op ∈ [ReqOp.rdS (ad 4 0 0), .rdX (ad 4 0 0), .upg (ad 4 0 0)],
      asks full op (fun u r => !u.isRevoked r.holder && u.extent 4 = some ext4 && u.holds (setOfIndex 4) &&
        u.recallDir 4 = 0 && !u.blocked 16384 && !u.txnsFull r.tenant && u.dir.txns.isEmpty && (u.dentry 16384).isNone &&
        !(u.dirWays 1).isEmpty && u.dirWay 1 16384 = some (0, none)) = true) ∧
    (∀ op ∈ [ReqOp.rdS (ad 4 0 0), .rdX (ad 4 0 0), .upg (ad 4 0 0), .rdNa (ad 4 127 0)],
      asks shared op (fun u r => u.dentry 16384 = some entry9 && (u.named entry9).filter (· ≠ r.holder) = [9] &&
        !entry9.holds r.holder && !u.blocked 16384) = true) ∧
    asks full (.rdNa (ad 4 127 0)) (fun u _ => (u.dentry 16384).isNone &&
      (match (u.readRange 4 ext4 (32 * 65536) 128 []).2 with | .ok => true | _ => false)) = true ∧
    (∀ op ∈ [ReqOp.rdS (ad 4 0 0), .rdX (ad 4 0 0), .upg (ad 4 0 0), .rdNa (ad 4 127 0)],
      asks snooping op (fun u r => u.dir.txns.find? (fun t => t.line = 16384) = some txn5 && r.waitFrom = none &&
        decide ((u.dir.waiters.filter fun w => w.line = 16384).length < u.fld R.DIR_CFG_MAX_WAITERS) &&
        !u.tableFull 65536 u.dir.waiters.length (u.dir.waiters.filter fun w => w.req.tenant = r.tenant).length r.tenant) = true) := by
  decide +kernel

theorem witness_members : asks served (.cohJoin 16) (fun u r => (u.member r.holder).isNone &&
      !u.standby (if u.holds 0 then 0 else 1)) = true ∧
    asks full .cohLeave (fun u r => (u.member r.holder).any fun m => m.state = 0) = true ∧
    asks owning (.wb (ad 4 0 0) (List.replicate 128 1)) (fun u r => (u.wbFails r (ad 4 0 0)).isNone && !u.isRevoked r.holder &&
      (u.dentry 16384).any (fun x => x.owned && x.ptrs.contains r.holder) && u.dir.txns.isEmpty) = true ∧
    asks shared (.wb (ad 4 0 0) (List.replicate 128 1)) (fun u r => (u.wbFails r (ad 4 0 0)).isNone &&
      (u.dentry 16384).any (fun x => !x.ptrs.contains r.holder) && u.dir.victims.isEmpty && u.isMember r.holder) = true := by
  decide +kernel

/-- A reply on connection 6 of holder 9. -/
def pkt6 : Pkt := { pkt0 with conn := 6, len := 4 }
/-- A message of a transaction number alone. -/
def pkt4 : Pkt := { pkt0 with len := 4 }
def replying (s : State) : State := { s with prt := { s.prt with conns := [(5, conn0), (6, { conn0 with holder := 9 })] } }
def revoked : State := { shared with dir := { shared.dir with
  members := [(9, ⟨1, 6, 16, 1, 0, 0⟩)], revoked := [(9, 1, 0)] } }

theorem witness_replies : (granted.takeReply pkt4 4).2 = some conn0 ∧ (((granted.takeReply pkt4 4).1.txn 5).any fun t => t.grant.isSome) = true ∧
    ((replying snooping).takeReply pkt6 4).2.any (fun x => x.holder = 9) = true ∧
    ((replying snooping).takeReply { pkt6 with len := 132 } 132).2.any (fun x => x.holder = 9) = true ∧
    ((replying snooping).takeReply pkt6 4).1.txn 5 = some txn5 ∧
    txn5.snoops.find? (fun y => y.agent = 9 && y.sent) = some snoop9 ∧ snooping.extent 4 = some ext4 ∧
    (granted.txn 5).isSome = true ∧ snooping.txn 5 = some txn5 ∧ snoop9.tries < 2 ∧ (1 : Nat) < 3 ∧
    (snooping.dir.waiters.find? (fun w => w.line = 16384)).isSome = true := by decide +kernel

theorem witness_sweep : (revoked.member 9).any (fun m => m.state = 1) = true ∧ revoked.sweepTodo 9 = some entry9 ∧
    entry9.owned = true ∧ ({ revoked with dir := { revoked.dir with entries := [] } } : State).sweepTodo 9 = none ∧
    (9#64).toNat < 4096 ∧ shared.pageLocked 21 = false ∧ shared.clockStopped 21 = false ∧
    (shared.member 9).any (fun m => m.state = 0) = true ∧ revoked.dir.revoked = (9, 1, 0) :: [] := by decide +kernel

/-! ### Blocks -/

def stage1 : State := { full with pfx := { full.pfx with blocks := [(1, ⟨1, 7⟩)] } }
/-- Key 77 names block 0 in its version 1; holder 7 has pinned it. -/
def entry77 : PfxEntry := ⟨1, 77, 0, 1, 1⟩
def indexed : State := { full with pfx := { full.pfx with
  blocks := [(0, ⟨2, 0⟩), (1, ⟨1, 7⟩)], entries := [entry77], pins := [⟨7, 0, 500⟩] } }
/-- The arena has no FREE block: one entry is unpinned; every one is pinned in the second state. -/
def crowded : State := { full with pfx := { full.pfx with
  blocks := [(0, ⟨2, 0⟩), (1, ⟨1, 7⟩), (2, ⟨1, 7⟩), (3, ⟨1, 7⟩)], entries := [entry77] } }

theorem witness_blocks : asks full (.kvAlloc arena0) (fun u _ => u.arenaOf 5 = some 0 && u.arenaBlocks 0 = 4 &&
      (List.range (min (u.arenaBlocks 0) 2)).find? (fun b => (u.block b).st = 0) = some 0) = true ∧
    asks crowded (.kvAlloc arena0) (fun u _ => u.leastRecent (fun e => arenaOfBlock e.block = 0) = some entry77 && u.ownBlock 0) = true ∧
    asks { crowded with pfx := { crowded.pfx with pins := [⟨7, 0, 500⟩] } } (.kvAlloc arena0) (fun u _ =>
      (u.leastRecent (fun e => arenaOfBlock e.block = 0)).isNone) = true ∧
    asks full (.kvFree arena0 1) (fun u r => u.arenaOf 5 = some 0 && arenaOfBlock 1 = 0 && u.stagedBy 1 r.holder) = true := by
  decide +kernel

theorem witness_publish : asks full (.publish arena0 1 78) (fun u r => u.ownBlock 1 && u.stagedBy 1 r.holder &&
      decide (u.fld (R.PFX_TSETS_SET_COUNT.at 0x10) ≠ 0) && (u.findKey r.tenant 78).isNone && u.pfx.entries.isEmpty) = true ∧
    asks indexed (.publish arena0 1 77) (fun u r => u.findKey r.tenant 77 = some entry77 && u.stagedBy 1 r.holder) = true ∧
    asks indexed (.republish arena0 1 77 1) (fun u r => u.findKey r.tenant 77 = some entry77 && entry77.block ≠ 1) = true ∧
    asks indexed (.republish arena0 1 77 2) (fun u r => u.findKey r.tenant 77 = some entry77) = true ∧
    asks indexed (.unpublish 77 1) (fun u r => u.findKey r.tenant 77 = some entry77 && !u.taking (u.setOfBlock 0)) = true ∧
    asks indexed (.unpublish 79 1) (fun u r => (u.findKey r.tenant 79).isNone) = true ∧
    asks indexed (.lookup 79) (fun u r => (u.findKey r.tenant 79).isNone) = true ∧
    asks indexed (.lookup 77) (fun u r => (u.extent (u.arenaIndex 0)).any (fun x => covers (u.rightsOf r.holder 5 x) rRead) &&
      decide (u.pinsOf r.tenant < u.fld (R.PFX_TSETS_MAX_PINS.at 0x10))) = true ∧
    asks indexed (.unpin 0) (fun _ _ => true) = true ∧
    (indexed.pfx.pins.find? (fun x => x.holder = 7 && x.block = 0)).isSome = true := by decide +kernel

/-- The arena is CLOSED. -/
def shutArena : State := { indexed with xlt := { indexed.xlt with
  extents := [(3, ext1), (5, { ext1 with start := 64, len := 4, state := .closed })] } }

theorem witness_lookup_misses : asks (indexed.setFld (R.PFX_TSETS_SET_COUNT.at 0x10) 0) (.lookup 77) (fun u r =>
      u.findKey r.tenant 77 = some entry77 && decide (u.fld (R.PFX_TSETS_SET_COUNT.at 0x10) = 0)) = true ∧
    asks shutArena (.lookup 77) (fun u r => u.findKey r.tenant 77 = some entry77 &&
      (u.extent (u.arenaIndex (arenaOfBlock entry77.block))).any (fun x => x.state ≠ .opened)) = true := by decide +kernel

/-! ### Ring operators -/

def reduce0 : ReqOp := .ringReduce (ad 3 1 0) 3 false false false 1 (ad 3 0 0) (ad 6 0 8192)
def ring1 : RingOp := ⟨1, reqOf0 reduce0, [(1, 0, 0)], 0, [], 0, none, false⟩
def ring2 : RingOp := ⟨2, reqOf0 (.ringRoute (ad 3 0 0) (ad 6 0 4096)), [(1, 0, 0)], 0, [], 0, none, false⟩
def ringing : State := { full with pfx := { full.pfx with ring := [ring1, ring2] } }

theorem witness_ring : ringing.pfx.ring.find? (fun x => x.key = 1) = some ring1 ∧
    ringing.pfx.ring.find? (fun x => x.key = 2) = some ring2 ∧
    (match (full.readRange 3 ext1 0 32 []).2 with | .ok => true | _ => false) = true ∧
    (match (ringing.partsOfList ring1 4 0 ring1.members [[1, 2, 3, 4]] (ring1.work [] false)).2 with
     | .ok ps => (combineElems false (ps.headD []) (ps.drop 1)).length = 4 | _ => false) = true ∧
    (∀ eng, eng < 16 → (match full.tick.checkSpans eng (reqOf pkt0 conn0 reduce0 0 0) reduce0.spans 0 with
      | (_, .ok _) => true | _ => false) = true) ∧
    (∀ eng, eng < 16 → (match full.tick.checkSpans eng (reqOf pkt0 conn0 (.ringRoute (ad 3 0 0) (ad 6 0 4096)) 0 0)
      (ReqOp.spans (.ringRoute (ad 3 0 0) (ad 6 0 4096))) 0 with | (_, .ok _) => true | _ => false) = true) := by decide +kernel

theorem witness_reduce : ringing.findRing 1 = some ring1 ∧ ring1.ending = none ∧ ring1.busy = false ∧ ring1.chunks = [] ∧
    (let y := { ring1 with ending := some (Status.ok, 0, []) }
     let w := y.work [] false
     match (ringing.setRing y).partsOfList y 4 0 ring1.members [[1, 2, 3, 4]] w with
     | (v1, .ok ps) => (match v1.ringScales y w with
       | (v2, .ok sc) =>
         let all := combineElems false (ps.headD []) (ps.drop 1)
         let out := (finishElems (ReqOp.reduceArgs reduce0) (wordsOf (sc.length / 4) sc) 0 all).drop 0
         let z := v2.ringDest y 0 out
         decide (all.length = 4) && out ≠ [] && z.e.prot ≠ 3 && (v2.firstShut z.e z.gs).isNone &&
          !v2.writeShort z.gs (v2.writeNeeds z.i z.e z.gs ⟨1, false, none, z.e.ownReads (z.e.addr z.off) z.bs.length⟩).eraseDups false &&
          (match v2.ringReads y w [z] with | (v, .ok _) => mapsB v z.gs (z.e.addr z.off) z.bs.length | _ => false)
       | _ => false)
     | _ => false) = true := by decide +kernel

theorem witness_ring_ends :
    (match full.opDone.newKey.2.readRange 3 ext1 0 8 [] with
     | (v, .ok) => match (v.readRange 6 ext6 (48 * 65536 + 4096) 32 []).2 with | .ok => true | _ => false
     | _ => false) = true ∧ 0x0F < 0x10 ∧ Status.retryAfter ≤ 0x0F ∧
    ringing.findRing 2 = some ring2 ∧ ring2.ending = none ∧ ring2.busy = false ∧ ring2.chunks = [] ∧
    ring2.req.chunk = none ∧ ringing.acksOf 2 = 0 ∧ ringing.findRing 3 = none := by decide +kernel

/-! ### Stacks and data integrity -/

def withStacks (l : List Nat) (d : List Nat) : State := { up with smc := { up.smc with stackSts := l, demand := d } }
def draining : State := withStacks [2, 1, 1, 1, 1, 1, 1, 1] []
def napping : State := withStacks [3, 1, 1, 1, 1, 1, 1, 1] [0]

theorem witness_stacks : draining.smc.stackSts.length = 8 ∧ draining.stackSt 0 = 2 ∧ 0 ∉ draining.smc.demand ∧
    (∀ p ∈ pcsOf 0, (draining.pc p).wq = [] ∧ (draining.pc p).rq = [] ∧ ∀ w ∈ draining.smc.waits, w.at p = false) ∧
    0 ∈ (withStacks [2] [0]).smc.demand ∧ napping.stackSt 0 = 3 ∧ napping.deep = false ∧ 0 ∈ napping.smc.demand ∧
    (withStacks [4, 1, 1, 1, 1, 1, 1, 1] []).stackSt 0 = 4 ∧ State.reset.fld R.PWR_STATUS_PHASE < 2 ∧
    2 ≤ up.fld R.PWR_STATUS_PHASE ∧ up.lmc.ppr = none ∧ (State.reset.pc 9).state = 0 := by
  decide +kernel

/-- A later frame: it begins 21 µs after time 0, and pseudo-channels 3 and 5 retire at its boundary. -/
def boundary (s : State) : State :=
  { s with now := 10500, frameStart := 10500, smc := { s.smc with retireNow := [(3, 2)], retireDue := [5], napAt := [(0, 0)] } }

theorem witness_boundaries : mgetD (boundary draining).smc.napAt 0 0 < (boundary draining).frameStart ∧
    draining.frameStart ≤ mgetD draining.smc.napAt 0 0 ∧
    (boundary (withStacks [4, 1, 1, 1, 1, 1, 1, 1] [])).napExitDue 0 = true ∧ (withStacks [4] []).napExitDue 0 = false ∧
    (boundary up).smc.retireNow.find? (fun e => e.1 = 3) = some (3, 2) ∧
    (boundary up).smc.retireNow.find? (fun e => e.1 = 4) = none ∧ (boundary up).now = (boundary up).frameStart ∧
    ({ boundary up with now := 10501 } : State).now ≠ (boundary up).frameStart ∧
    (boundary up).pcRetired 5 = false ∧ (boundary up).faultRetiring 5 = false ∧ up.clockStopped 32 = false := by decide +kernel

def crc0 : CrcUnit := ⟨0, false, mgmtBase, 64, 0⟩
def computing : State := { up with crc := [(13, crc0)] }
/-- Unit 13 is free, its range in management memory. -/
def crcFree : State := up.setFld (R.CRC_SRC_SRC.at 0x340) mgmtBase |>.setFld (R.CRC_CTRL_LEN.at 0x340) 64
def rebuilding : State := { up with ecc := { up.ecc with rebuild := some 4 } }

theorem witness_integrity : rebuilding.ecc.rebuild = some 4 ∧ rebuilding.fld R.PWR_STATUS_LEVEL ≠ 8 ∧
    up.fld R.FTM_REBASE_PL_LAT ≠ 0 ∧ State.reset.fld R.FTM_REBASE_PL_LAT = 0 ∧ State.reset.ecc.remap = [] ∧
    mget computing.crc 13 = some crc0 := by decide +kernel

theorem witness_crc_go : (let v := crcFree.storeReg (.core 0) 0x19540 0
    v.fld (R.CRC_STAT_BUSY.at 0x340) = 0 && decide (mgmtBase ≤ v.fld (R.CRC_SRC_SRC.at 0x340)) &&
      decide (v.fld (R.CRC_SRC_SRC.at 0x340) + v.fld (R.CRC_CTRL_LEN.at 0x340) ≤ mgmtEnd)) = true ∧
    up.scrubs 0 = true ∧ State.reset.scrubs 0 = false := by decide +kernel

/-- A rebuild at its group `k`: STACK_PARITY extent 3 of `len` units keeps its parity from unit 16 on, and the
pseudo-channels are as given. -/
def rebuildingAt (k len : Nat) (pcs : NMap Pc) : State :=
  { up with
    xlt := { up.xlt with extents := [(3, { ext1 with start := 0, len := len, prot := 1, parity := some (16, 2) })] }
    smc := { up.smc with pcs := pcs }
    ecc := { up.ecc with units := [(0, true)], rebuild := some k } }
/-- The running SCRUB slot has left two positions. -/
def spare : Pc := { pc0 with idle := [1000, 1004], idleScrub := true }
def lostPcs (x : Pc) : NMap Pc := [(0, x), (64, { pc0 with state := 2 }), (128, x), (192, x), (256, x), (321, x), (385, x), (449, x)]
def pext (len : Nat) : Extent := { ext1 with start := 0, len := len, prot := 1, parity := some (16, 2) }

theorem witness_rebuild_rows : rebuildRow (rebuildingAt 0 14 (lostPcs spare)).parityExtents 0 = some (pext 14, 0) ∧
    (rebuildingAt 0 14 (lostPcs spare)).rebuildMember (pext 14) 0 0 = some 256 ∧
    (let s := rebuildingAt 0 14 (lostPcs spare)
     (s.rebuildPlaces (s.groupSources (pext 14) 256)).isSome) = true ∧
    ((rebuildingAt 0 14 (lostPcs pc0)).rebuildGroup (pext 14) 0 0).isNone = true ∧
    (rebuildingAt 1 14 (lostPcs spare)).rebuildLost (pext 14) 0 1 = [] ∧
    (rebuildingAt 0 14 (lostPcs spare)).parityTotal = 256 ∧ (rebuildingAt 295 2 []).parityTotal - 296 / 8 = 0 ∧
    rebuildRow (rebuildingAt 295 2 []).parityExtents (295 / 8) = some (pext 2, 36) ∧
    (rebuildingAt 295 2 []).rebuildLost (pext 2) 36 7 = [] := by decide +kernel

/-- The scrubber of pseudo-channel 0 reaches granule 0: unwritten, written with an idle position and without one, and awaited
by a planned write. -/
def scrubbing (written : Bool) (x : Pc) : State :=
  { up with smc := { up.smc with pcs := [(0, x)] }, ecc := { up.ecc with units := if written then [(0, true)] else [] } }

theorem witness_scrub :
    ((scrubbing false pc0).scrubs 0 && (scrubbing false pc0).scrubSkips 0) = true ∧
    ((scrubbing true spare).scrubs 0 && !(scrubbing true spare).scrubSkips 0 && ((scrubbing true spare).idleAt 0 0 0 false).isSome &&
      !(scrubbing true spare).onFallback 0 && !(scrubbing true spare).rekeyWants 0) = true ∧
    ((scrubbing true pc0).scrubs 0 && !(scrubbing true pc0).scrubSkips 0 && ((scrubbing true pc0).idleAt 0 0 0 false).isNone) = true ∧
    ((scrubbing true { pc0 with planned := [cmd0] }).scrubs 0 &&
      (((scrubbing true { pc0 with planned := [cmd0] }).pc 0).planned.any fun c => c.write && c.g = scrubGranule 0 0)) = true := by
  decide +kernel

/-! ### Ports -/

def addressed : State := served.setFld (R.PRT_IP4_VALID.at 0) 1 |>.setFld (R.PRT_IP4_IP4.at 0) 5

theorem witness_sub_ports : addressed.subOpen 0 0 = true ∧ addressed.ownIp4 src0 5 = true ∧ addressed.ownIp4 src0 9 = false ∧
    addressed.controlBusy src0 = false ∧
    served.subOpen 1 0 = false ∧ served.portOn 0 = true ∧ 0 < served.subCount 0 ∧
    (served.fld (R.PRT_STATUS_LINK_UP.at 0)).testBit 0 ≠ true ∧ served.deep = false := by decide +kernel

def connected : State := { full with prt := { full.prt with
  conns := [(5, { conn0 with msgs := [⟨4, 0, 0, .arpReply src0 0 0⟩] }), (6, { conn0 with holder := 8, session := some 9 })]
  tokens := [(0, (1, 0))], haddr := [(7, 2)] } }
def invalidating : State := { full with xlt := { full.xlt with invals := [⟨1, 0, 0, false, 1, reqOf0 (.invalidate 0 false 0)⟩] } }
def qp7 : Qp := ⟨5, 7, 1, 1, 0, 4791, 0, 0, 3, 0, 0, 14, 7, 7, false, false, 400000, none, 500,
  [(3, .send src0 2 (some (3, none)) 1 5 0 9 77 0 0 0 [] none false)], 0, 0, true, 0, src0⟩
def queued7 : State := { full with prt := { full.prt with qps := [(2, qp7)] } }
def admin : Pkt := { pktOf (.invalidate 0 false 0) with conn := 6, enc := true, pn := 1 }

theorem witness_connect : connected.inService = true ∧ (connected.tokensOf 0).1 ≠ 0 ∧ bitsOf (connected.hcfg 7) 0 1 = 1 ∧
    src0.ip = mgetD connected.prt.haddr 7 0 ∧ connected.fld R.LMC_STATUS_LC ≠ 4 ∧
    connected.openOf 7 < bitsOf (connected.hcfg 7) 9 15 ∧ connected.prt.conns.length < 16384 ∧
    (connected.conn 5).isSome = true ∧ (connected.takeReply pkt4 4).2.isSome = true ∧
    ((connected.conn 5).any fun x => (x.msgs.find? (fun m => m.seq = 4)).any fun m => m.tries < connected.fld R.PRT_IPT_CFG_DC_RETRIES) = true ∧
    mget connected.prt.tokens 0 = some (1, 0) := by decide +kernel

theorem witness_requests : asks full (.latencyTol 5) (fun _ _ => true) = true ∧
    asks full (.qpCreate qp0) (fun u r => QpOk qp0 && decide (u.openOf r.holder < bitsOf (u.hcfg r.holder) 9 15)) = true ∧
    asks queued7 (.qpDestroy 2) (fun u r => (u.qp 2).any fun q => q.holder = r.holder) = true ∧
    ranOk (full.runs admin (.invalidate 0 false 0)) (fun u _ => decide (u.xlt.invals.length < 8)) = true ∧
    (invalidating.xlt.invals.find? (fun x => x.key = 1)).isSome = true ∧
    asks full (.faultPop true) (fun _ _ => true) = true := by decide +kernel

theorem witness_undefined : (match full.takePkt pkt0 0 with
    | (u, some x) => !u.overCredit 5 (ReqOp.body (.undefined 3)).length && !u.deep && !x.setup && !u.bistOn &&
        u.fld (R.QOS_PS_t1_P_RATE.at (psOff 0 x.tenant)) = 0 && !(ReqOp.undefined 3).cached
    | _ => false) = true := by decide +kernel

/-- Packets of queue pair 2. -/
def qpkt0 : QPkt := ⟨{ src0 with dport := 4791 }, 2, 0, true, 0xFFFF, .named⟩

theorem witness_rdma :
    ranOk (queued7.rdmaRuns qpkt0 (64 + 64) (packetCount (queued7.mtuOf 2) 64) (.read ⟨h3, 63, 0⟩) 0 ⟨h3.toNat, 0, 64, 1, 0, 1⟩ true)
      (fun u r => !u.dirHolds r ext1 (linesOf 0 64)) = true ∧ firstChunk 0 64 = 64 ∧
    ranOk (queued7.rdmaRuns qpkt0 (64 + 8) (packetCount (queued7.mtuOf 2) 8) (.write ⟨h3, 0, 0⟩ b8) 8 ⟨h3.toNat, 0, 8, 1, 0, 2⟩ false)
      (fun u _ => (u.opDone.firstShut ext1 [0]).isNone) = true ∧ firstChunk 0 8 = 8 ∧
    ranOk (queued7.rdmaRuns qpkt0 64 1 (.fetchAdd ⟨h3, 1, 0⟩ b8) 0 ⟨h3.toNat, 0, 8, 1, 0, 4⟩ true) (fun _ _ => true) = true ∧
    ranOk (queued7.rdmaRuns qpkt0 64 1 (.cas ⟨h3, 1, 0⟩ b8 b8) 0 ⟨h3.toNat, 0, 8, 1, 0, 4⟩ true) (fun _ _ => true) = true ∧
    (let len := (ReqOp.fence.wire []).length
     match queued7.roceTakes qpkt0 (64 + sendLen pkt0 len) (fun x => queued7.overCredit x.conn len) with
     | some (t, x) => decide (32 + len ≤ 8192) && pkt0.ver = 1 && (pktOf .fence).len.toNat = len &&
        (match t.conn x.conn with | some c => c.encOk (pktOf .fence) | none => false)
     | none => false) = true := by decide +kernel

theorem witness_rdma_writes :
    ranOk (queued7.rdmaRuns qpkt0 (64 + 8) (packetCount (queued7.mtuOf 2) 8) (.write ⟨h3, 0, 0⟩ b8) 8 ⟨h3.toNat, 0, 8, 1, 0, 2⟩ false)
      (fun u r => !u.dirHolds r ext1 (linesOf 0 8) &&
        lands u 3 ext1 [0] (partialGranules 0 8) 0 8 (fun k => ⟨k, false, none, ext1.ownReads 0 8⟩)) = true ∧
    (∀ op ∈ [ReqOp.fetchAdd ⟨h3, 1, 0⟩ b8, .cas ⟨h3, 1, 0⟩ b8 b8, .cas ⟨h3, 1, 0⟩ (List.replicate 8 0) b8],
      ranOk (queued7.rdmaRuns qpkt0 64 1 op 0 ⟨h3.toNat, 0, 8, 1, 0, 4⟩ true) (fun u r => !u.dirHolds r ext1 (linesOf 0 8) &&
        lands u 3 ext1 [0] [0] 0 8 (fun k => ⟨k, true, none, [0]⟩) true) = true) := by decide +kernel

theorem witness_qp : queued7.qp 2 = some qp7 ∧ qp7.cutAt = none ∧ qp7.rate ≤ queued7.lineRate 0 ∧ qp7.error = false ∧
    qp7.unacked ≠ [] ∧ qp7.tried < qp7.retries ∧ qp7.rnrWait = true ∧ qp7.rnrTried < qp7.rnr := by decide +kernel

/-! ### Links and packets -/

def link0 : Link := State.reset.link 1
def link2 : Link := { link0 with st := 2, cred := [(0, 64), (8, 64)], replay := [⟨0, 0, true, true, [], 0⟩] }

/-- Port 1 is the ring port of direction 0, in the state given. -/
def linked (l : Link) : State :=
  { full with net := { full.net with links := [(1, l)], lsdb := [(0, 15), (1, 15)], usable := [(0, 15), (1, 15)], upAt := [(9, 400)] } }
    |>.setFld (R.PRT_CFG_ENABLE.at 0x1000) 1 |>.setFld (R.PRT_CFG_RING.at 0x1000) 1 |>.setFld R.RTE_PORTMAP_PORT 1
    |>.setFld R.RTE_DIM_NX 4

/-- A good cell of VC 8 with the expected SEQ. -/
def cell0 : Cell :=
  let c : Cell := ⟨8, 0, true, true, false, 0, 0, List.replicate 248 1, noFec⟩
  { c with crc := c.check }

/-- Cells that carry their own CRC are good. -/
theorem witness_good (c : Cell) (l : LinkCell) (hv : c.vc ≤ 8) (hc : c.fec.bad = false) (hl : l.fec.bad = false)
    (hw : l.word.toNat % 16 = 15) : ({ c with crc := c.check } : Cell).good = true ∧
    ({ l with crc := l.check } : LinkCell).good = true := by
  simp [Cell.good, LinkCell.good, Cell.check, LinkCell.check, LinkCell.payload, Cell.headBytes, hv, hc, hl, hw]

/-- A LINK cell with its CRC. -/
def checked (c : LinkCell) : LinkCell := { c with crc := c.check }
def linkCell0 : LinkCell := checked
  ⟨15, 0, false, List.replicate 9 0, List.replicate 9 0, 0, 0, 0, 0, 0, 0, 0, List.replicate 198 0, 0, noFec⟩

theorem witness_link_good : cell0.good = true ∧ linkCell0.good = true :=
  witness_good ⟨8, 0, true, true, false, 0, 0, List.replicate 248 1, noFec⟩
    ⟨15, 0, false, List.replicate 9 0, List.replicate 9 0, 0, 0, 0, 0, 0, 0, 0, List.replicate 198 0, 0, noFec⟩
    (by decide) rfl rfl (by decide)

theorem witness_cells : (linked link2).link 1 = link2 ∧ cell0.seq = link2.rxSeq ∧ cell0.vc = 8 ∧
    ({ cell0 with fec := { noFec with bad := true } } : Cell).good = false ∧ link2.nakAt = none ∧
    ({ link2 with nakAt := some 9 } : Link).nakAt.isSome = true ∧ linkCell0.nak = false ∧
    linkCell0.req = 0 ∧ link2.st = 2 ∧ link2.replay ≠ [] ∧ link2.req = 0 := by decide +kernel

theorem witness_replays : 0 + 1 < 2 * (linked link2).fld (R.LNK_CFG_REPLAY_MAX.at 0x1000) ∧
    2 * 4 = 2 * (linked link2).fld (R.LNK_CFG_REPLAY_MAX.at 0x1000) ∧ (linked { link2 with st := 3 }).link 1 = { link2 with st := 3 } := by
  decide +kernel

theorem witness_links : link2.ctl = [] ∧ ((linked { link2 with st := 3 }).link 1).ctl = [] ∧
    ((linked { link2 with st := 3, replay := [] }).link 1).replay = [] := by decide +kernel

theorem witness_training : (linked { link0 with st := 0 }).linkOn 1 = true ∧ ((linked { link0 with st := 4 }).link 1).st = 4 ∧
    (linked { link0 with st := 1 }).identityOk 1 { linkCell0 with domain := 9 } = false ∧
    (let s := linked { link0 with st := 1 }
     s.identityOk 1 { linkCell0 with
       domain := s.fld R.RTE_CFG_DOMAIN, device := s.neighbour s.devIndex 0, dir := oppDir 0 }) = true ∧
    ((linked link2).storeReg (.core 0) 0x32108 1).link 1 = link2 ∧
    ((linked { link2 with st := 3 }).storeReg (.core 0) 0x32108 1).link 1 = { link2 with st := 3 } := by decide +kernel

def hdr0 : RouteHdr := ⟨0, 2, 0, true, 0, 7, 0, 0, 4⟩
def netPkt0 : NetPkt := ⟨1, 0, 9, 0, { hdr0 with dst := 2, src := 0 }, [List.replicate 248 1], 0, false⟩
def routing : State := { linked link2 with net := { (linked link2).net with
  queue := [netPkt0], inbox := [(1, 0, hdr0, List.replicate 4 1)], reasm := [⟨3, 8, 0, [], none⟩], seqs := [(4, 9)] } }

theorem witness_packets : ((linked link2).chooseClass none 1).isSome = true ∧ (linked link2).chooseClass none 5 = none ∧
    (routing.net.queue.find? (fun p => p.out = 1 && p.vc = 0)) = some netPkt0 ∧
    (routing.link 1).st = 2 ∧ netPkt0.hdr.cells + 1 ≤ (routing.link 1).credit 0 ∧
    (routing.link 1).replay.length + (netPkt0.hdr.cells + 1) ≤ 2048 ∧
    (routing.net.inbox.find? (fun p => p.1 = 1 && p.2.2.1 = hdr0 && p.2.2.2 = List.replicate 4 1)).isSome = true ∧
    routing.net.reasm.find? (fun r => r.src = hdr0.src && r.msgId = hdr0.msgId) = none ∧ hdr0.last = true ∧
    (routing.net.reasm.find? (fun r => r.src = 3 && r.msgId = 8)).isSome = true ∧ mget routing.net.seqs 4 = some 9 ∧
    0 < (10 + 65536 - 9) % 65536 ∧ (10 + 65536 - 9) % 65536 < 32768 ∧ mget routing.net.upAt (4 * 2 + 1) = some 400 ∧
    mget routing.net.upAt 8 = none := by decide +kernel

/-! ### Pairs -/

/-- A paired device whose sets are as given. -/
def paired (a b : Nat) (f : Bool) : State :=
  { full with par := { full.par with formed := f, set0 := { resetSet with st := a, term := 4 }, set1 := { resetSet with st := b, term := 4 } } }
    |>.setFld R.PAR_CFG_PAIR_EN 1

def frag0 (al : Nat) (ok : Bool) : EpochFrag :=
  ⟨0, false, false, 4, 0, al, 0, 0, BitVec.ofNat 32 (recordCrc 0 false false 4 0 al [.grant 3 7 1] + if ok then 0 else 1), [.grant 3 7 1]⟩
def rec0 : EpochRec := ⟨3, 0, false, true, [], 0⟩
def holding : State := { paired 2 5 true with par := { (paired 2 5 true).par with set0 := { resetSet with st := 2, term := 4, unacked := [rec0] } } }
def late (s : State) : State := s.setFld R.FTM_FRAME_FRAME 20

theorem witness_pair_forms : (paired 0 0 false).paired = true ∧ (paired 0 0 false).par.formed = false ∧
    (let s := ((paired 0 0 false).setFld R.PAR_CFG_ALT_PATH 1).setWord 0xB200 1
     s.paired && s.pairPath && s.domId ≠ 0 && !s.par.formed) = true ∧ (paired 0 0 false).domId = 0 ∧
    (paired 0 0 true).paired = true ∧ ((paired 0 0 true).pset 0).st = 0 ∧ ((paired 0 0 true).pset 1).st = 0 := by decide +kernel

theorem witness_ranges_of_partner : (paired 1 5 true).rangeFree 0 4 = false ∧ (paired 1 5 true).rangeFree 200 4 = true ∧
    (paired 1 5 true).usedUnits + 4 ≤ poolUnits := by decide +kernel

def ranging : State := { full with xlt := { full.xlt with cmd := some ⟨1, 1, 2, 0, 0, true, none, 16, 2⟩ } }

theorem witness_records : (3#32).toNat < ((paired 5 5 true).pset 0).term ∧ ((paired 5 5 true).pset 0).st = 5 ∧
    (4#32).toNat = ((paired 5 5 true).pset 0).term ∧ (frag0 0 true).alive % 65536 = ((paired 5 5 true).pset 0).alive % 65536 ∧
    (frag0 1 true).alive % 65536 = (((paired 5 5 true).pset 0).alive + 1) % 65536 ∧ (frag0 1 true).entries = [.grant 3 7 1] ∧
    ((paired 5 5 true).pset 0).frags = [] ∧ holding.pwr.resetAt = none ∧ holding.parked = [] ∧
    (holding.pset 0).unacked.find? (fun r => r.alive % 65536 = 3) = some rec0 ∧ ranging.xlt.cmd.isSome = true := by
  decide +kernel

def mext : Extent := { ext1 with prot := 2 }
/-- The standby holds the copy of a mirrored extent of index 0. -/
def copying : State := { paired 5 5 true with xlt := { full.xlt with extents := [(0, mext)] } }
/-- Request 4 of the pair or of a peer is open. -/
def asked4 (k : PeerKind) (peer : Nat) : State := { paired 2 5 true with par := { (paired 2 5 true).par with
  reqs := [⟨4, peer, k, 0, 0, 0, .mirror 0 0 4 0 [] none⟩] } } |>.setFld R.PAR_RPG_RP_EN 1

theorem witness_mirror : ((paired 5 5 true).pset 0).term ≤ (4#32).toNat ∧ (copying.copyAt 0 64).isSome = true ∧
    (paired 5 5 true).copyAt 0 (64 * 2000000) = none ∧ ((asked4 (.mirror 9) partnerPeer).peerReq 4).isSome = true ∧
    (asked4 (.mirror 9) partnerPeer).peerReq 5 = none ∧
    (asked4 (.rpRead 9) 3).fld R.PAR_RPG_RP_EN = 1 ∧ full.extentAt 0xF00000000 = none := by decide +kernel

/-- A REVOKE's DONE is held back; its record is acknowledged, and it is not. -/
def trailing (w : Option Nat) : State := { full with xlt := { full.xlt with trail := [⟨5, 1, 3, 0, 0, false, w, 0, 3⟩] } }
def put0 : RingPut := ⟨3, 1024, List.replicate 64 7, false, false, none⟩

theorem witness_trail_and_peers : ((trailing none).xlt.trail.find? (fun c => c.waitRecord.isNone)).isSome = true ∧
    ((trailing (some 2)).xlt.trail.find? (fun c => c.waitRecord.isNone)).isNone = true ∧
    ((asked4 (.rpUpdate 9 put0) 3).peerReq 4).isSome = true ∧
    ({ asked4 (.mirror 9) partnerPeer with par := { (asked4 (.mirror 9) partnerPeer).par with unsent := [4] } } : State).par.unsent.contains 4 = true ∧
    (asked4 (.mirror 9) partnerPeer).par.unsent.contains 4 = false ∧ copying.ecc.sram = [] ∧ copying.ecc.errs = [] ∧
    mget copying.ecc.units 1 = none ∧ 0 + 64 ≤ poolEnd := by decide +kernel

theorem witness_leases : (late (paired 2 5 true)).paired = true ∧ ((late (paired 2 5 true)).pset 0).st = 2 ∧
    ((late (paired 2 5 true)).pset 0).renewal + 10 ≤ (late (paired 2 5 true)).frame ∧
    ((late (paired 5 2 true)).pset 0).st = 5 ∧ ((late (paired 5 2 true)).pset 0).renewal + 14 ≤ (late (paired 5 2 true)).frame ∧
    mwf (late (paired 5 2 true)).xlt.extents = true ∧ (late (paired 5 2 true)).extent 3 = some ext1 ∧
    (paired 6 2 true).taking 0 = true ∧ (paired 2 5 true).taking 0 = false ∧ ((late (paired 4 2 true)).pset 0).st = 4 := by
  decide +kernel

theorem witness_handover : (let v := (paired 2 5 true).storeReg (.core 0) 0x1A110 (0x8000000000000000 ||| 2)
     (v.pset (v.fld R.PAR_CTRL_SET)).st = 2 && v.paired && v.par.formed) = true ∧
    (let v := (paired 2 5 false).storeReg (.core 0) 0x1A110 0x8000000000000000
     (v.pset (v.fld R.PAR_CTRL_SET)).st = 2 && v.paired && !v.par.formed && decide (v.fld R.PAR_CTRL_FORCE ≠ 1)) = true ∧
    (paired 0 5 true).paired = true ∧ ((paired 0 5 true).pset 0).st ≠ 2 := by decide +kernel

/-! ### Keys, consents, sessions -/

/-- The management transports run, at SPDM step 3 on the management port; session 9 is the tenant's own, 10 has not finished. -/
def managed : State :=
  { full with sec := { full.sec with
    spdmNext := [(1, 3), (2, 3), (21, 3)]
    sessions := [(9, ⟨some 5, 0, 5, true, 0⟩), (10, ⟨none, 2, 0, false, 0⟩)]
    tenants := [(1, { emptyTenant with st := 2 })], debug := 1 } }
    |>.setFld R.LMC_STATUS_LC 3 |>.setWord 0xC130 5 |>.setFld (R.SEC_TCFG_MAX_CONSENTS.at 0x10) 4

theorem witness_spdm : 3 ≤ managed.spdmAt 2 ∧ 3 ≤ managed.spdmAt 1 ∧ State.reset.spdmAt 1 < 1 ∧ managed.sec.sessions.length < 1024 ∧
    (managed.session 10).any (fun x => !x.up && x.via = 2) = true ∧ managed.session 11 = none ∧
    (managed.session 9).any (fun x => x.up) = true ∧ asks managed (.spdm .getVersion) (fun _ _ => true) = true ∧
    asks managed (.spdm (.spdm 0x90)) (fun _ _ => true) = true := by decide +kernel

def identified : State := { managed with sec := { managed.sec with tenants := [(1, { emptyTenant with st := 1 })] } }
def key0 : KeyArg := ⟨true, true, false⟩
def badKey : KeyArg := ⟨false, false, false⟩
def consent0 : Consent := ⟨1, 2, 1, 3, h3, 4, true⟩
def verifying : State := { managed with sec := { managed.sec with verifying := [(4, reqOf0 .fence, consent0)] } }
def rotating : State := { managed with sec := { managed.sec with tenants := [(1, { emptyTenant with st := 2, switchAt := some (0, 3) })] } }
def sweeping : State := { managed with sec := { managed.sec with tenants := [(40, { emptyTenant with st := 2, sweep := some [] })] } }

theorem witness_rotation : rotating.sec.rotating = [] ∧ (rotating.tenant 1).switchAt = some (0, 3) ∧ 0 ≤ rotating.frame ∧
    (sweeping.tenant 40).sweep = some [] ∧ sweeping.fld R.PWR_STATUS_LEVEL ≠ 8 ∧
    sweeping.sweepNext 40 sweeping.sweepable = none ∧
    sweeping.sweepNext 40 (fun g => !sweeping.pcRetired (pcOf (g * 64))) = none ∧
    (verifying.sec.verifying.find? (fun v => v.1 = 4)).isSome = true ∧ KeyUsable key0 = true ∧ KeyUsable badKey = false := by
  decide +kernel

theorem witness_retire : ((full.storeReg (.core 0) 0xB410 (BitVec.ofNat 64 (2 ^ 62))).tenant 1).st = 2 ∧
    ((State.reset.storeReg (.core 0) 0xB410 (BitVec.ofNat 64 (2 ^ 62))).tenant 1).st ≠ 2 ∧
    (full.storeReg (.core 0) 0xB410 (BitVec.ofNat 64 (2 ^ 61))).fld (R.SEC_TCFG_AUTOKEY.at 0x10) = 0 ∧
    ((full.setFld (R.SEC_TCFG_AUTOKEY.at 0x10) 1).storeReg (.core 0) 0xB410 (BitVec.ofNat 64 (2 ^ 61 + 2 ^ 60))).fld
      (R.SEC_TCFG_AUTOKEY.at 0x10) ≤ 1 := by decide +kernel

theorem witness_tenant_commands : (managed.liveSession 9).any (fun x => managed.sessionTenant x = some 1) = true ∧
    (managed.consentOk 1 consent0) = true ∧ managed.consentOk 1 { consent0 with rights := 2 } = false ∧
    (∀ m ∈ [SpdmMsg.keySet 9 key0, .keyRotate 9 key0, .keyStatus 9, .consentRegister 9 consent0, .consentWithdraw 9 4],
      asks managed (.spdm m) (fun u _ => (u.liveSession 9).any fun x => u.sessionTenant x = some 1) = true) ∧
    (identified.tenant 1).st = 1 ∧ managed.mgmtUp = true := by decide +kernel

theorem witness_debug : managed.sec.debug = 1 ∧ State.reset.sec.debug ≠ 1 ∧
    ({ managed with sec := { managed.sec with debug := 2 } } : State).sec.debug = 2 ∧
    (managed.liveSession 9).isSome = true ∧ managed.liveSession 11 = none ∧
    asks managed (.sessionBind 9) (fun _ _ => true) = true := by decide +kernel

/-! ### Lumyan -/

/-- Core 0 runs, and source 512 is pending, enabled and deliverable to it. -/
def cored : State :=
  { managed with lmc := { managed.lmc with pend := [512, 513], kicked := [(0, 0)], holdoff := [(2, 40)] } }
    |>.setFld R.LMC_STATUS_CORE 1 |>.setFld (R.EVC_SRC_ENABLE.at 0x2000) 1 |>.setFld (R.EVC_SRC_PRIO.at 0x2000) 5
    |>.setFld R.EVC_GATE_CLOSED 0 |>.setFld R.EVC_CORE_MASK 0

theorem witness_events_to_cores : cored.coreSt 0 = 1 ∧ mgetD cored.lmc.mie 0 1 = 1 ∧ cored.coreFld R.EVC_CORE_MASK 0 ≠ 1 ∧
    cored.deliverable 0 512 = true ∧ cored.srcFld R.EVC_SRC_MODE 512 = 0 ∧ cored.srcFld R.EVC_SRC_CORE 512 = 0 ∧
    cored.evcPending 512 = true ∧ (cored.setFld R.LMC_STATUS_CORE 2).coreSt 0 = 2 ∧ 768 ≤ (800#64).toNat % 1024 := by
  decide +kernel

theorem witness_watchdog : mget cored.lmc.kicked 0 = some 0 ∧ mget State.reset.lmc.kicked 0 = none ∧
    cored.fld (R.LMC_WDT_STAGE.at 0) = 0 ∧ mget cored.lmc.holdoff 2 = some 40 ∧ mget cored.lmc.holdoff 3 = none := by decide +kernel

theorem witness_sensors : managed.powered = true ∧ State.reset.powered = false ∧ managed.pldmUp = true ∧
    State.reset.pldmUp = false ∧ (8 * managed.fld R.THM_CFG_CRIT_C : Int) ≤ 999 ∧ managed.pwr.on = true ∧
    mgmtBase ≤ mgmtBase + 8 ∧ mgmtBase + 8 < mgmtEnd ∧ managed.lc ≠ lcManufacture := by decide +kernel

/-- An ADMIN has connection 0, an OPERATOR 1, a READER 2. -/
def operated : State := { managed with lmc := { managed.lmc with
  slots := [(0, ⟨5, 2, true⟩)], tls := [(0, 2), (1, 1), (2, 0)] } }
def inLc (n : Nat) : State := operated.setFld R.LMC_STATUS_LC n

theorem witness_operators : operated.mgmtPort = true ∧ operated.freeTls = some 3 ∧
    (operated.lmc.slots.find? fun e => e.2.enabled && e.2.digest = 5).isSome = true ∧ mget operated.lmc.tls 0 = some 2 ∧
    mget operated.lmc.tls 2 = some 0 ∧ mget operated.lmc.tls 3 = none ∧ State.reset.mgmtPort = false ∧ operated.dir.ready = [] ∧
    operated.paired = false ∧ offsetOk 0xFFFFF8 = true ∧ findReg 0xFFFFF8 = none ∧
    (∀ n ∈ [0, 1, 2, 3, 4, 5, 6], (inLc n).lc = n) ∧ operated.setHeld = false := by decide +kernel

/-- An image of one byte that passes every check at SVN 0. -/
def image2 : ImageArg := ⟨true, true, true, 0, 0x80000000, 0x80000000, crc64 [7], [7], true⟩
def recovering : State := { managed with lmc := { managed.lmc with inRecovery := true } }
def staged : State := { managed with lmc := { managed.lmc with images := [(1, ⟨1, 0x80000000, 0x80000000, []⟩)] } }
  |>.setFld R.LMC_FW_B_STATE slotPending
def trial : State := { managed with lmc := { managed.lmc with trialAt := some 0, former := 0 } }

theorem witness_images : image2.magicOk = true ∧ ImageArg.fits image2 = true ∧ image2.keyOk = true ∧ image2.sigOk = true ∧ image2.hashOk = true ∧
    image2.crc64 = crc64 image2.body ∧ managed.fld R.LMC_FW_FUSE_SVN ≤ image2.svn % 256 ∧ managed.lmc.trialAt = none ∧
    managed.slotSt 0 ≠ slotPending ∧ managed.slotSt 1 ≠ slotPending ∧ recovering.powered = true ∧
    recovering.lmc.inRecovery = true ∧ staged.slotSt 1 = slotPending ∧ trial.lmc.trialAt = some 0 ∧ trial.lmc.former < 2 := by
  decide +kernel

/-- The firmware command words of operation `op`, and of BIST and repair. -/
def fwWord (op : Nat) : Word64 := BitVec.ofNat 64 (op + 2 ^ 63)
def committed : State := staged.setFld R.LMC_FW_A_STATE slotActive |>.setFld R.LMC_FW_ACTIVE 0

theorem witness_firmware :
    (let v := staged.storeReg (.core 0) 0x3138 (fwWord 1)
     v.fld R.LMC_FW_CMD_OP = 1 && v.slotSt 1 = slotPending && decide (v.slotSt 0 ≠ slotPending) &&
      (mget v.lmc.images 1).isSome && v.lmc.trialAt.isNone && !v.paired) = true ∧
    (trial.storeReg (.core 0) 0x3138 (fwWord 2)).fld R.LMC_FW_CMD_OP = 2 ∧
    (let v := committed.storeReg (.core 0) 0x3138 (fwWord 3)
     v.fld R.LMC_FW_CMD_OP = 3 && v.slotSt (v.fld R.LMC_FW_ACTIVE) = slotActive) = true := by decide +kernel

def testing : State := { managed with lmc := { managed.lmc with fails := [7], ppr := some 4 } } |>.setFld R.BST_STATUS_STATE 1
def quiet : State := State.reset.setFld R.LMC_STATUS_LC lcRma

theorem witness_bist : testing.fld R.BST_STATUS_STATE = 1 ∧ managed.fld R.BST_STATUS_STATE ≠ 1 ∧ testing.lmc.fails = 7 :: [] ∧
    testing.lmc.ppr = some 4 ∧
    (let v := quiet.storeReg (.core 0) 0xA100 (BitVec.ofNat 64 (2 ^ 63))
     v.fld R.BST_STATUS_STATE = 0 && v.lc = lcRma && v.bistIdle) = true ∧
    (let v := (quiet.setFld R.LMC_STATUS_LC lcHold).storeReg (.core 0) 0xA118 (BitVec.ofNat 64 (2 ^ 63))
     v.lc = lcHold && v.lmc.ppr.isNone) = true := by decide +kernel

/-! ### Power -/

/-- Power has begun, with the rails below `r` up. -/
def rising (r : Nat) : State :=
  { State.reset with pwr := { resetPwr with on := true } } |>.setFld R.PWR_RAILS_PGOOD (2 ^ r - 1)
def withPwr (p : Pwr) : State := { up with pwr := p }

theorem witness_rails : State.reset.pwr.on = false ∧ State.reset.pwr.latched = false ∧ State.reset.pwr.inputBad = false ∧
    State.reset.pwr.attempts = 0 ∧ State.reset.pwr.sysclk = true ∧
    (∀ r, r < 8 → (rising r).pwr.on = true ∧ (rising r).fld R.PWR_RAILS_PGOOD = 2 ^ r - 1 ∧ (rising r).pwr.sysclk = true) ∧
    (withPwr { resetPwr with attempts := 1 }).pwr.attempts ≠ 0 ∧ (withPwr { resetPwr with inputBad := true }).pwr.inputBad = true ∧
    (withPwr { resetPwr with sysclk := false }).pwr.sysclk = false := by decide +kernel

def drawing (n l : Nat) : State := { up with thm := { up.thm with pin := [n, n, n] } } |>.setFld R.PWR_STATUS_LEVEL l

theorem witness_cap : up.powered = true ∧ (drawing 60000 2).thm.critical = false ∧
    (drawing 60000 2).fld R.PWR_CFG_CAP_W * 10 * 3 < (drawing 60000 2).thm.pin.sum ∧
    (drawing 1 2).thm.pin.sum < ((drawing 1 2).fld R.PWR_CFG_CAP_W - (drawing 1 2).fld R.PWR_CFG_CAP_HYST_W) * 10 * 3 ∧
    (drawing 60000 7).fld R.PWR_STATUS_LEVEL = 7 ∧ (drawing 1 8).fld R.PWR_STATUS_LEVEL = 8 := by decide +kernel

def deep0 : State := (withStacks [3, 3, 3, 3, 3, 3, 3, 3] []).setFld R.PWR_STATUS_DEEP 1
def leaving : State := { up.setFld R.PWR_STATUS_DEEP 1 with pwr := { up.pwr with deepExit := some 900 } }

theorem witness_deep : deep0.deep = true ∧ deep0.pwr.deepExit = none ∧ leaving.pwr.deepExit = some 900 ∧ leaving.regWait = [] ∧
    (∀ n, n < 8 → leaving.stackSt n ≠ 3 ∧ leaving.stackSt n ≠ 4) ∧ up.deep = false := by decide +kernel

/-- All eight stacks are trained, before and behind SERVICE. -/
def trained : State := { up with pwr := { up.pwr with timer := false, step8 := none } } |>.setFld R.PWR_STATUS_PHASE 2

theorem witness_service : (((up.setFld R.PWR_STATUS_PHASE 3).setFld R.PWR_BOOT_STACKS_OK 255).storeReg (.core 0) 0x2110 1).canServe = true ∧
    (State.reset.storeReg (.core 0) 0x2110 1).canServe = false ∧
    (up.storeReg (.core 0) 0x2110 (BitVec.ofNat 64 (2 ^ 63 + 8 * 0xA5C3))).fld R.PWR_CTRL_KEY = 0xA5C3 ∧
    (up.storeReg (.core 0) 0x2110 (BitVec.ofNat 64 (2 ^ 63))).fld R.PWR_CTRL_KEY ≠ 0xA5C3 ∧ up.paired = false ∧
    ({ up with pwr := { up.pwr with resetAt := some (1, 500) } } : State).pwr.resetAt = some (1, 500) := by decide +kernel

theorem witness_stacks_ok : (let v := trained.storeReg (.core 0) 0x2118 255
     let u := (List.range 8).foldl (fun s n => s.stackUp n) v
     v.fld R.PWR_STATUS_PHASE = 2 && u.pwr.step8.isNone && u.stacksDone) = true := by decide +kernel

def alone : State := { up with pwr := { up.pwr with step8 := some 0 } }
  |>.setFld R.PAR_CFG_PAIR_EN 1 |>.setFld R.PWR_STATUS_PHASE 3

theorem witness_pair_wait : alone.pwr.step8 = some 0 ∧ alone.paired = true ∧ alone.par.hello = none ∧ alone.inService = false := by
  decide +kernel

theorem witness_canonical : Mem.wf State.reset.ecc.mem = true ∧ Mem.wf State.reset.seq.slab = true ∧
    Mem.wf State.reset.lmc.mem = true ∧ mwf State.reset.regs = true ∧ mwf State.reset.held = true := by decide +kernel

/-! ### Further clauses -/

/-- Every unit of the planned write's granule is FULL; a scrub slot finds no correcting write; a queue's stack is not napping. -/
theorem witness_slots_more : cmd0.skip = 0 ∧ ext1.prot ≠ 1 ∧ ext1.prot ≠ 4 ∧
    mget ({ planned with ecc := { planned.ecc with units := [(0, true)] } } : State).ecc.units (cmd0.g / 1024) = some true ∧
    (up.pc 0).wq = [] ∧ pcOf (wr0.g * 64) = 0 ∧ waiting.stackNapping (stackOfPc 0) = false ∧
    run0.ops.find? (fun o => o.result.isNone) = none ∧
    (syncing.runCall.map fun x => x.1.ops.find? fun o => o.result.isNone) = some (some op0) := by decide +kernel

/-- A MOVE's chunk that the scheduler has dispatched, and one that it has not; a stopped RDMA READ. -/
theorem witness_dispatch_more : move0.issued = true ∧ move0.fate = none ∧ move0.held = none ∧ moving.ecc.sram = [] ∧
    ({ moving with acc := { moving.acc with moves := [{ move0 with issued := false }] } } : State).findMove 1 =
      some { move0 with issued := false } ∧ sending.mayGo egr0 = true ∧
    ({ sending with prt := { sending.prt with subs := [(0, ⟨true, [(0, 100000)], [], none, 0⟩)] } } : State).mayGo egr0 = false ∧
    mget chunked.acc.stops 4 = none ∧
    mget ({ chunked with acc := { chunked.acc with stops := [(4, Status.membershipLost)] } } : State).acc.stops 4 =
      some Status.membershipLost ∧ ringing.ecc.sram = [] ∧ full.ecc.errs = [] ∧ full.ecc.sram = [] := by decide +kernel

/-- A snoop whose answer says that a WB comes, and one whose WB has come. -/
theorem witness_snoops_more : snoop9.needWb = false ∧ ({ snoop9 with needWb := true } : Snoop).needWb = true ∧
    snoop9.gotWb = false ∧ ({ snoop9 with gotWb := true } : Snoop).gotWb = true ∧
    (2 : Nat) ≤ ({ snoop9 with tries := 2 } : Snoop).tries ∧ txn5.line * 128 + 128 ≤ poolEnd := by decide +kernel

/-- A MACsec tag that an installed SA accepts, and one that none does. -/
def tag0 : SecTag := ⟨7, 0, 5, true⟩
def secured : State :=
  { served with prt := { served.prt with rxSas := [⟨0, 7, 0, 1⟩] } } |>.setFld (R.PRT_CFG_MACSEC.at 0) 1

theorem witness_frames_in : served.subOpen 0 0 = true ∧ (served.frameIn src0).2 = true ∧
    (served.frameIn { src0 with dmac := 9 }).2 = false ∧ served.frameMine src0 = true ∧
    served.frameMine { src0 with dmac := 9 } = false ∧ served.fld (R.PRT_CFG_MACSEC.at 0) ≠ 1 ∧
    secured.fld (R.PRT_CFG_MACSEC.at 0) = 1 ∧ secured.secOk { src0 with sec := some tag0 } = true ∧
    secured.secOk { src0 with sec := some { tag0 with icvOk := false } } = false ∧
    secured.frameMine { src0 with sec := some tag0 } = true ∧ (secured.frameIn { src0 with sec := some tag0 }).2 = true ∧
    sending.controlBusy src0 = true ∧ served.ownIp4 src0 5 = true ∧ served.ownIp4 src0 9 = false ∧ served.prt.rxSas = [] ∧
    (served.udpIn src0 served.iptPort).2 = true ∧ src0.dport.toNat = served.iptPort ∧ src0.dport.toNat ≠ 4791 ∧
    (connected.udpIn src0 connected.iptPort).2 = true ∧ connected.connsInUse.length < 16384 ∧
    (served.iptIn pkt0 0).2 = true ∧ (served.iptIn pkt0 1).2 = false := by decide +kernel

theorem witness_packets_in : (full.iptIn pkt0 0).2 = true ∧ full.conn pkt0.conn.toNat = some conn0 ∧ conn0.encOk pkt0 = true ∧
    conn0.encOk { pkt0 with enc := true } = false ∧ ({ conn0 with session := none } : Conn).session = none ∧
    ({ full with prt := { full.prt with conns := [] } } : State).conn 5 = none ∧ pkt0.e2e = false := by decide +kernel

/-- A SEND on queue pair 2 while its connection is open, and after it has closed. -/
theorem witness_sends : ∀ cs ∈ [[(5, conn0)], []],
    (let s : State := { queued7 with prt := { queued7.prt with conns := cs } }
     let len := (ReqOp.fence.wire []).length
     match s.roceTakes qpkt0 (64 + sendLen pkt0 len) (fun x => s.overCredit x.conn len) with
     | some (t, x) => (t.conn x.conn).isSome = !cs.isEmpty | none => false) = true := by decide +kernel

theorem witness_queue_pairs_more : queued7.subOpen qp7.port qp7.sub = true ∧
    (queued7.setFld (R.PRT_MAC_MAC.at 0) 0).subOpen qp7.port qp7.sub = false := by decide +kernel

/-- FEC's reports, and what they make of the link. -/
def fecBad : CellFec := ⟨true, 0, 1, 2 ^ 40⟩

theorem witness_fec : ((linked link2).fecIn 1 noFec).pcsFails 1 = false ∧ ((linked link2).fecIn 1 fecBad).pcsFails 1 = true ∧
    ({ cell0 with fec := fecBad } : Cell).good = false := by decide +kernel

/-- A head cell on VC 0 for a device that the ring reaches, and no packet under way on that VC. -/
theorem witness_next_hop : (linked link2).passing 1 0 = none ∧
    (let h := routeHdr (List.replicate 248 1)
     decide (h.dst ≠ (linked link2).devIndex)) = true ∧ (linked link2).devIndex = 0 ∧
    ((linked link2).nextHop 0 1 1 (((linked link2).dirOf 1).map fun d => (oppDir d, 0))).isSome = true := by decide +kernel

/-- LINK cells that request a retrain and a reset. -/
theorem witness_requests_in : (checked { linkCell0 with req := 1 }).req = 1 ∧ (checked { linkCell0 with req := 2 }).req = 2 ∧
    (linked { link2 with st := 3, req := 1 }).linkOn 1 = true ∧ (linked { link0 with st := 1, req := 2 }).linkOn 1 = true ∧
    ((linked link2).setFld (R.PRT_CFG_ENABLE.at 0x1000) 0).linkOn 1 = false ∧
    (linkCell0.station.toNat = 0) ∧ (∀ k : BitVec 48, k = 0xFFFFFFFFFFFF ∨ k.toNat < (0xFFFFFFFFFFFF#48).toNat) := by
  refine ⟨rfl, rfl, by decide +kernel, by decide +kernel, by decide +kernel, by decide, fun k => ?_⟩
  rcases Nat.lt_or_ge k.toNat (0xFFFFFFFFFFFF#48).toNat with h | h
  · exact .inr h
  · exact .inl (BitVec.eq_of_toNat_eq (Nat.le_antisymm (Nat.le_of_lt_succ k.isLt) h))

/-- Cells to be sent: control cells with credit and none, a packet in progress, and one whose head may go. -/
theorem witness_cell_times : ({ link2 with ctl := [[1]] } : Link).credit 8 ≠ 0 ∧ link2.ctl = [] ∧ link2.replay.length < 2048 ∧
    (routing.nextOut 1 0) = some netPkt0 ∧ (linked link2).nextOut 1 0 = none ∧ netPkt0.cells ≠ [] ∧
    netPkt0.started = false ∧ netPkt0.cells.length + netPkt0.left ≤ (routing.link 1).credit 0 ∧ netPkt0 ∈ routing.net.queue ∧
    (({ routing with net := { routing.net with queue := [{ netPkt0 with started := true }] } } : State).nextOut 1 0).isSome = true ∧
    (linked { link2 with st := 3 }).now ≤ link2.since + 12 * 500 ∧
    ({ linked { link2 with st := 3 } with now := 12 * 500 + 1 } : State).now > link2.since + 12 * 500 ∧
    ({ link2 with ackTold := 5 } : Link).ackTold ≠ link2.rxSeq ∧ ((linked { link2 with st := 3 }).link 1).st ≠ 2 := by
  decide +kernel

theorem witness_pairs_more :
    ({ full with xlt := { full.xlt with cmd := some ⟨1, 1, 2, BitVec.ofNat 64 (8 * 2 ^ 24), 0, true, none, 16, 2⟩ } } : State).rangeOffered 16 4 = true ∧ (paired 1 5 true).rangeOffered 200 4 = false ∧
    (paired 2 5 true).par.unsent = [] ∧ (paired 2 5 true).fld R.PWR_STATUS_LEVEL ≠ 8 ∧ State.reset.settled ∧
    (paired 2 5 true).rangeOffered 0 4 = false := by
  refine ⟨by decide +kernel, by decide +kernel, by decide +kernel, by decide +kernel, ?_, by decide +kernel⟩
  exact ⟨rfl, rfl, fun t (h : t ∈ []) => (nomatch h), fun e (h : e ∈ []) => (nomatch h)⟩

/-- Of the group's members the lost one alone is written. -/
def rebuildingOne : State :=
  { rebuildingAt 0 14 (lostPcs spare) with ecc := { (rebuildingAt 0 14 (lostPcs spare)).ecc with
    units := [(0, false)], vcache := [(0, 1 <<< 256)] } }

theorem witness_scrub_more : up.rebuildWants 0 = false ∧ up.rebuildWants 64 = false ∧
    rebuildingOne.rebuildWants (pcOf (16384 * 64)) = true ∧ (pext 14).parityOf 0 ≠ none ∧
    rebuildingOne.rebuildMember (pext 14) 0 0 = some 256 ∧
    ((rebuildingOne.rebuildPlaces (rebuildingOne.groupSources (pext 14) 256)).any fun u => (u.groupWord (pext 14) 256).2.isSome) = true := by decide +kernel

/-- A record's fragment with its CRC, and one with another. The CRC rests on free values, so no kernel evaluates it. -/
theorem witness_record_crc : (frag0 1 true).crc.toNat = recordCrc 0 false false 4 0 1 [.grant 3 7 1] ∧
    (frag0 1 false).crc.toNat ≠ recordCrc 0 false false 4 0 1 [.grant 3 7 1] := by
  have h : recordCrc 0 false false 4 0 1 [.grant 3 7 1] < 2 ^ 32 := BitVec.isLt _
  simp only [frag0, BitVec.toNat_ofNat]
  constructor <;> split <;> first | omega | simp_all

/-! ### Ill-formed commands -/

/-- Every ill-formed command of a list is refused. -/
def refused (l : List Instr) : Bool := l.all fun i => !i.wf

def srcBad : Src := { src0 with port := 8 }
def pktBad : Pkt := { pkt0 with src := srcBad }
def hdrW : RouteHdr := ⟨0, 0, 0, true, 0, 0, 0, 0, 1⟩
def cellW : Cell := ⟨0, 0, true, true, false, 0, 0, List.replicate 248 0, noFec⟩
def syncW : SyncArgs := ⟨false, 0, 0, List.replicate 8 0⟩

theorem test_wf_accepts : ([.frameBoundary, .accessSlot 511 127, .rd 3 mover0, .mma 7 unit0, .vAdd 0 vec0, .read pkt0 ⟨h3, 63, 0⟩,
    .call pkt0 callBody0, .cAdd pkt0 syncW, .cellReceive 8 cellW, .packetArrive 0 hdrW [], .linkCellReceive 8 linkCell0,
    .registerWrite .inband 0x22100 0] : List Instr).all Instr.wf = true := by decide +kernel

theorem test_wf_frame : refused [.accessSlot 512 0, .plannedSlot 0 128, .guardSlot 512 0, .refreshSlot 0 128, .scrubSlot 512 0,
    .calSlot 512 0 0, .calSlot 0 128 0, .calSlot 0 0 256, .stackTempRead 8 [], .dirPartitionEvict 32] = true := by decide +kernel

theorem test_wf_plane : refused [.slabReadDataReturn 512, .rd 4 mover0, .wr 0 { mover0 with slot := 16 },
    .gather 0 { mover0 with areg := 16 }, .scatter 0 { mover0 with len := 8 }, .crd 0 { mover0 with dkind := 6 },
    .s2f 0 { mover0 with dsel := 64 }, .f2s 0 { mover0 with dbase := 16 }, .setareg 0 { mover0 with doff := 2 ^ 29 },
    .rd 0 { mover0 with tag := 128 }, .rd 0 { mover0 with rows := 64 }, .mma 8 unit0, .mread 0 { unit0 with ubase := 16 },
    .bload 0 { unit0 with uoff := 2 ^ 21 }, .merge 0 { unit0 with uarg := 2 ^ 11 }, .vAdd 8 vec0,
    .vSub 0 { vec0 with vbase := 16 }, .vMul 0 { vec0 with voff := 2 ^ 21 }, .vFma 0 { vec0 with rm := 5 },
    .vMin 0 { vec0 with vfmt := 16 }, .vMax 0 { vec0 with varg := 512 }, .frondFault 65, .frdRetire (.core 4) 0,
    .planCommitComplete 1024] = true := by decide +kernel

theorem test_wf_calls : refused [.call pktBad callBody0, .call pkt0 { callBody0 with nslots := 1 },
    .call pkt0 { callBody0 with nscalars := 1 },
    .call pkt0 { callBody0 with nslots := 17, slots := List.replicate 17 ⟨0, 0, 0, 0, 0, 0⟩ },
    .call pkt0 { callBody0 with nscalars := 17, scalars := List.replicate 17 0 },
    .call pkt0 { callBody0 with nslots := 1, slots := [⟨64, 0, 0, 0, 0, 0⟩] }] = true := by decide +kernel

theorem test_wf_requests : refused [.read pktBad ⟨h3, 0, 0⟩, .read { pkt0 with src := { src0 with sub := 4 } } ⟨h3, 0, 0⟩,
    .cAdd pkt0 { syncW with a := [] }, .cAdd pktBad syncW, .rspDirty pkt0 0 [], .rspDirty pktBad 0 (List.replicate 128 0),
    .replayEntryExpire 64 0 0, .replayEntryExpire 0 4096 0, .syncWaitTimeout 65536 0 0, .syncWaitTimeout 0 4096 0,
    .snoopRetry 0 4096, .pinExpire 4097 0, .ringOpComplete 0 16 0 [], .rdmaRead ⟨srcBad, 0, 0, true, 0xFFFF, .named⟩ 0 0 0, .send ⟨srcBad, 0, 0, true, 0xFFFF, .named⟩ pkt0 true .fence,
    .send ⟨src0, 0, 0, true, 0xFFFF, .named⟩ pktBad true .fence, .keyStatus ⟨pktBad, 0, false⟩, .getVersion (.ipt pktBad)] = true := by decide +kernel

theorem test_wf_stacks : refused [.writeQueueAdmit 512, .bankIdlePrecharge 512 0, .bankIdlePrecharge 0 64, .pcRetire 512 0,
    .pcRetire 0 8, .smcRetire (.core 4) 0 0, .smcRetire .inband 8 0, .crcGo (.core 4) 0 0, .crcGo .inband 16 0,
    .crcComputeDone 16] = true := by decide +kernel

theorem test_wf_ports : refused [.egressDispatch 8 0, .egressDispatch 0 4, .pfcFrame 8 0 0 (List.replicate 8 0),
    .pfcFrame 0 4 0 (List.replicate 8 0), .pfcFrame 0 0 0 [], .admitTokenRefill 8, .cellReceive 9 cellW,
    .cellReceive 0 { cellW with vc := 16 }, .cellReceive 0 { cellW with seq := 2 ^ 12 },
    .cellReceive 0 { cellW with ret := 2 ^ 13 }, .cellReceive 0 { cellW with payload := [] },
    .linkCellReceive 9 linkCell0, .linkCellReceive 0 { linkCell0 with ack := 4096 }, .linkCellReceive 0 { linkCell0 with freed := [] },
    .linkCellReceive 0 { linkCell0 with reserved := [] }, .linkCellReceive 0 { linkCell0 with domain := 65536 }, .nakRepeat 9,
    .lnkCtrlReset (.core 4) 0, .lnkCtrlReset .inband 9, .linkStateNotice 9 0 0 0, .linkStateNotice 0 256 0 0,
    .linkStateNotice 0 0 0 16, .linkUpHoldExpire 256 0, .linkUpHoldExpire 0 5, .packetInject none 256 [],
    .packetForward 9 0, .packetForward 0 9, .packetArrive 9 hdrW [], .packetArrive 0 { hdrW with dst := 256 } [],
    .packetArrive 0 { hdrW with src := 256 } [], .packetArrive 0 { hdrW with cls := 4 } [],
    .packetArrive 0 { hdrW with cells := 17 } [], .packetArrive 0 { hdrW with msgId := 2 ^ 32 } [],
    .packetArrive 0 { hdrW with index := 16 } [], .packetArrive 0 { hdrW with count := 16 } [],
    .packetArrive 0 { hdrW with bytes := 0 } [], .packetArrive 0 { hdrW with bytes := 4201 } [],
    .reasmTimeout 256 0] = true := by decide +kernel

theorem test_wf_pairs : refused [.pairRange 0 2 0 0 0 0, .pairRange 0 0 0 (2 ^ 18) 0 0, .leaseFence 2, .mirror 2 0 0 0 [] none,
    .mirror 0 3 0 0 [] none, .rpRead 257 0 false, .revokeComplete (2 ^ 18)] = true := by decide +kernel

theorem test_wf_management : refused [.rekeySweep 64, .secRotate (.core 4) 0 0, .secRotate .inband 64 0, .wdtKick (.core 4) 0,
    .wdtKick .inband 4, .wdtExpire 4, .evcHoldoffExpire 16, .memUe 4 0, .operatorSlotChange 0 16 0 0 true,
    .operatorSlotChange 0 0 0 3 true, .railTimeout 8, .fullReset 16, .apply (.core 4) 0, .apply .inband 1024] = true := by
  decide +kernel

/-! ### What the spec works out -/

/-- What holds of a next state. -/
def nextHas (o : Out) (f : State → Bool) : Bool := match o with | .next t => f t | _ => false

/-- Table 19.6: a held write of `SMC_CFG` of stack 2 with reserved bit 40 set, then the APPLY of page 34. -/
theorem test_held_write : nextHas (exec (.registerWrite (.core 0) 0x22100 0x0000010300F2A060) State.reset) (fun t =>
    t.heldWord 0x22100 = 0x0000000300F2A060 && t.word 0x22100 = State.reset.word 0x22100 &&
    t.fld (R.PG_CLAMP_INFO_FIELD.at 0x22000) = 2088 && t.fld (R.PG_CLAMP_INFO_KIND.at 0x22000) = 4 &&
    t.word 0x22040 = 0x0000010300F2A060 && t.word 0x22048 = 0x0000000300F2A060 &&
    nextHas (exec (.apply (.core 0) 34) t) (fun v =>
      v.word 0x22100 = 0x0000000300E0A060 && v.fld (R.PG_CLAMP_INFO_FIELD.at 0x22000) = 2064 &&
      v.fld (R.PG_CLAMP_INFO_KIND.at 0x22000) = 5 && v.fld (R.PG_CLAMP_INFO_COUNT.at 0x22000) = 2 &&
      v.word 0x22040 = 0x0000000300F2A060 && v.word 0x22048 = 0x0000000300E0A060)) = true := by decide +kernel

/-- Chapter 10's address example. -/
theorem test_address_map : pcOf 0x1234502A80 = 304 ∧ bankOf 0x1234502A80 = 10 ∧ rowOf 0x1234502A80 = 2330 ∧
    colOf 0x1234502A80 = 2 := by decide +kernel

/-- Chapter 11's STACK_PARITY example. -/
theorem test_parity_group : parityUnits (7 * 16384) = 16384 ∧ stripeRow 0x100000000 0x100023040 = 449 ∧
    stackOf 0x100023040 = 2 ∧ groupOf 0x100000000 0x100023040 = (64, 0) ∧
    (groupMembers 0x100000000 14680064 64 0).map stackOf = [1, 2, 3, 4, 5, 6, 7] ∧ (groupMembers 0x100000000 14680064 64 0)[1]? =
    some 0x100023040 := by decide +kernel

/-- Chapter 2's bulk move: its row 6 is the first that reaches past the extent, and a stride of 12 KiB fits. -/
theorem test_rows : rowsFail 0x100000 0xE8000 0x2000 8 0x4000 = some 0x100000 ∧ rowsFail 0x100000 0xE8000 0x2000 8 0x3000 = none := by
  decide +kernel

/-- Table 6.3: the sums, targets and shadows of four ACCUM_RC elements. -/
theorem test_accum_rc : ([(0x3F80, 0), (0x3F80, 0x3B00), (0x3F80, 0x3B80)].map fun p =>
    let r := accumRcElem 2 2 0 0 p.1 p.2 0x3B00; (r.1, r.2.1)) = [(0x3F80, 0x3B00), (0x3F80, 0x3B80), (0x3F81, 0xBB00)] ∧
    (accumRcElem 2 2 0 0 0x3F81 0xBB00 0x3B00).1 = 0x3F81 ∧ (accumRcElem 2 2 0 0 0x3F81 0xBB00 0x3B00).2.1 = 0 := by decide +kernel

/-- Chapter 4's MX block: 5.3 and 0.01 (as FP32 codes) become E4M3 codes 0x7B and 0x32 under scale 0x79. -/
theorem test_mx_block : (let r := mxBlock 3 8 0 [0, 0] [fp32.decode 0x40A9999A, fp32.decode 0x3C23D70A]; (r.1, r.2.1)) =
    (0x79, [0x7B, 0x32]) := by decide +kernel

/-- Chapter 4's MMA of that block: 1.5 + 699 × 2^−9 is 1,467 × 2^−9, in FP32 0x4037_6000. -/
theorem test_mma : (matAcc 4 4 32 (fp32.decode 0x3FC00000) [0x7B, 0x32] [0x40, 0xD0] [0x79] [0x7C]).val = 0x40376000 := by decide +kernel

/-- Table 11.6: the check values over "123456789". -/
theorem test_crc : [0, 1, 2, 3].map (fun a => crcAlg a [49, 50, 51, 52, 53, 54, 55, 56, 57]) =
    [0xE3069283, 0xCBF43926, 0x6C40DF5F0B497347, 0x29B1] := by decide +kernel

/-- A 16 × 16 torus. -/
def torus : State := (State.reset.setFld R.RTE_DIM_NX 16).setFld R.RTE_DIM_NY 16

/-- Chapter 13's packet from device 227 to device 44: its hops and VCs in classes 0 and 1. -/
theorem test_route : torus.nextHop 227 44 0 none = some (0, 0) ∧ torus.nextHop 236 44 0 (some (0, 0)) = some (2, 0) ∧
    torus.nextHop 252 44 0 (some (2, 0)) = some (2, 1) ∧ torus.nextHop 12 44 0 (some (2, 1)) = some (2, 1) ∧
    torus.nextHop 227 44 1 none = some (2, 2) ∧ torus.nextHop 243 44 1 (some (2, 2)) = some (2, 3) ∧
    torus.nextHop 35 44 1 (some (2, 3)) = some (0, 2) ∧ (torus.pathOf 44 0 none 40 227).length = 13 ∧
    (torus.pathOf 44 2 none 40 227).length = 19 := by decide +kernel

/-- The table's rows have no bits, so no word spells a command, and an empty queue leaves the block as it is. -/
theorem test_no_words : decodeTableWord 0 0 = none ∧ State.reset.withFetchWord 8 255 = State.reset ∧
    step State.reset = .next State.reset := ⟨rfl, rfl, rfl⟩


end Sys2Proof.Tests
end

/-! ## Proofs: what an answer changes and what it leaves (O32)

An answer goes into an egress queue. Whatever way it takes, the fault queues, the register words and the stacks' memory
stay as they are: `SameFaultSide` says so once, and each operation on the way keeps it. -/

namespace Sys2Proof.Machine

/-! ### Egress items and MESSAGEs -/

section
variable (s : State) (port sub : Nat) (t reqBytes bound : Option Nat) (n : Nat) (pkt : OutPkt)

theorem egPush_egr : (s.egPush port sub t reqBytes bound n pkt).qos.egr =
    s.qos.egr ++ [⟨port, sub, t, egressCost n, s.now, reqBytes, bound, pkt⟩] := by
  cases t with
  | none => rfl
  | some t => unfold State.egPush; dsimp only; split <;> rfl

/-- Pushing an egress item changes the queues' part of the state alone. -/
theorem egPush_frame : s.egPush port sub t reqBytes bound n pkt =
    { s with qos := (s.egPush port sub t reqBytes bound n pkt).qos } := by
  cases t with
  | none => rfl
  | some t => unfold State.egPush; dsimp only; split <;> rfl

theorem egPush_sends : (s.egPush port sub t reqBytes bound n pkt).sends pkt :=
  ⟨_, by rw [egPush_egr]; exact List.mem_append_right _ List.mem_cons_self, rfl⟩

end

/-- A MESSAGE that is kept takes the connection's next number, waits there for its MSG_ACK, and stands in an egress queue. -/
theorem message_kept {s : State} {c : Nat} {x : Conn} (h : s.conn c = some x) (opcode status : Nat) (reqId : BitVec 48)
    (aux : Word64) (body : List Byte) (e2e : Bool) (bound : Option Nat) :
    ∃ m : Msg, m.tries = 0 ∧ (s.message c opcode status reqId aux body e2e true bound).sends m.pkt ∧
      (s.message c opcode status reqId aux body e2e true bound).conn c =
        some { x with txSeq := x.txSeq + 1, msgs := x.msgs ++ [m] } := by
  unfold State.message
  simp only [h, if_true]
  refine ⟨⟨BitVec.ofNat 32 x.txSeq, s.now, 0, .ipt 2 opcode status c (BitVec.ofNat 32 x.txSeq) reqId 0 0 aux body
    (if e2e then some (crc32c body) else none) x.session.isSome x.src⟩, rfl, egPush_sends .., ?_⟩
  rw [egPush_frame]
  simp [State.conn, State.setConn, mget_mset]

/-! ### What an answer leaves as it is -/

/-- `t` has the fault queues, the register words and the stored bytes of `s`. -/
structure SameFaultSide (s t : State) : Prop where
  xlt : t.xlt = s.xlt
  regs : t.regs = s.regs
  ecc : t.ecc = s.ecc

namespace SameFaultSide

theorem refl (s : State) : SameFaultSide s s := ⟨rfl, rfl, rfl⟩

theorem trans {s t u : State} (h : SameFaultSide s t) (k : SameFaultSide t u) : SameFaultSide s u :=
  ⟨k.xlt.trans h.xlt, k.regs.trans h.regs, k.ecc.trans h.ecc⟩

/-- A fold whose every step keeps the fault side keeps it. -/
theorem foldl {α : Type} (f : State → α → State) (h : ∀ s a, SameFaultSide s (f s a)) (l : List α) (s : State) :
    SameFaultSide s (l.foldl f s) := by
  induction l generalizing s with
  | nil => exact refl s
  | cons a l ih => exact (h s a).trans (ih _)

theorem word {s t : State} (h : SameFaultSide s t) (off : Nat) : t.word off = s.word off := by
  unfold State.word; rw [h.regs]

theorem fq {s t : State} (h : SameFaultSide s t) (n : Nat) : t.fq n = s.fq n := by
  unfold State.fq; rw [h.xlt]

theorem egPush (s : State) (port sub : Nat) (t rb b : Option Nat) (n : Nat) (p : OutPkt) :
    SameFaultSide s (s.egPush port sub t rb b n p) := by
  rw [egPush_frame]; exact ⟨rfl, rfl, rfl⟩

theorem egTake (s : State) (e : EgItem) : SameFaultSide s (s.egTake e) := by
  unfold State.egTake
  dsimp only
  split
  · split <;> exact ⟨rfl, rfl, rfl⟩
  · exact ⟨rfl, rfl, rfl⟩

theorem acqPush (s : State) (x : AccItem) : SameFaultSide s (s.acqPush x) := by
  unfold State.acqPush
  dsimp only
  split <;> exact ⟨rfl, rfl, rfl⟩

theorem acqTake (s : State) (x : AccItem) : SameFaultSide s (s.acqTake x) := by
  unfold State.acqTake
  dsimp only
  split
  all_goals
    split
    · exact ⟨rfl, rfl, rfl⟩
    · split <;> exact ⟨rfl, rfl, rfl⟩

theorem message (s : State) (c opcode status : Nat) (reqId : BitVec 48) (aux : Word64) (body : List Byte)
    (e2e keep : Bool) (bound : Option Nat) :
    SameFaultSide s (s.message c opcode status reqId aux body e2e keep bound) := by
  unfold State.message
  split
  · exact refl s
  · exact (⟨rfl, rfl, rfl⟩ : SameFaultSide s (s.setConn c _)).trans (egPush ..)

theorem qpFlush (s : State) (qpn : Nat) : SameFaultSide s (s.qpFlush qpn) :=
  (foldl _ acqTake _ s).trans ⟨rfl, rfl, rfl⟩

theorem qpUp (s : State) (qpn : Nat) (f : Qp → Qp) : SameFaultSide s (s.qpUp qpn f) := ⟨rfl, rfl, rfl⟩

theorem qpError (s : State) (qpn : Nat) : SameFaultSide s (s.qpError qpn) :=
  ((qpUp ..).trans (qpFlush _ qpn)).trans (foldl _ egTake _ _)

theorem readPackets (s : State) (r : Req) (qpn psn mtu n : Nat) (first last : Bool) (bs : List Byte) :
    SameFaultSide s (s.readPackets r qpn psn mtu n first last bs) :=
  foldl _ (fun s _ => egPush s ..) _ s

theorem roceRead (s : State) (r : Req) (qpn psn : Nat) (bs : List Byte) : SameFaultSide s (s.roceRead r qpn psn bs) := by
  unfold State.roceRead
  dsimp only
  split
  · exact readPackets ..
  next x _ =>
    have hacc (f : Acc6) : SameFaultSide s { s with acc := f } := ⟨rfl, rfl, rfl⟩
    split
    · exact (hacc _).trans (readPackets ..)
    · exact ((hacc _).trans (readPackets ..)).trans (acqPush ..)

theorem roceOutcome (s : State) (r : Req) (qpn psn : Nat) (a : Ans) :
    SameFaultSide s (s.roceOutcome r qpn psn a) := by
  unfold State.roceOutcome
  dsimp only
  split
  · split
    · exact roceRead ..
    all_goals exact egPush ..
  split
  · exact ((egPush ..).trans (qpFlush ..)).trans (qpUp ..)
  split
  · exact (egPush ..).trans (qpError ..)
  split
  · exact refl s
  · exact (egPush ..).trans (qpError ..)

theorem sendBack (s : State) (r : Req) (qpn typ code status : Nat) (rb b : Option Nat) (aux : Word64) (body : List Byte) :
    SameFaultSide s (s.sendBack r qpn typ code status rb b aux body) := by
  unfold State.sendBack
  split
  · split
    · exact refl s
    · refine SameFaultSide.trans ?_ (egPush ..)
      split <;> exact ⟨rfl, rfl, rfl⟩
  · exact refl s

/-- Sending an answer, by whichever way its request came, keeps the fault side. -/
theorem sendAnswer (s : State) (r : Req) (a : Ans) : SameFaultSide s (s.sendAnswer r a) := by
  unfold State.sendAnswer
  split
  case h_1 => exact ⟨rfl, rfl, rfl⟩
  case h_2 => exact roceOutcome ..
  case h_3 => split <;> exact sendBack ..
  case h_4 =>
    split
    · exact refl s
    · split
      · exact message ..
      · exact egPush ..

end SameFaultSide

/-! ### Steps before the answer is sent -/

/-- The state in which a request's answer is sent: the operator's failure counted, the fault entry placed, and the replay
record written. -/
def State.beforeAnswer (s : State) (r : Req) (a : Ans) : State :=
  let s := s.ringFailed r a
  let s := if Status.faults a.status then s.reqFault r a else s
  if r.op.cached then s.replayDone r a else s

theorem respond_request {r : Req} (h : r.chunk = none) (s : State) (a : Ans) :
    s.respond r a = (s.beforeAnswer r a).sendAnswer r a := by
  unfold State.respond; rw [h]; rfl

/-- A counter stands in a register word. -/
theorem count_frame (s : State) (f : Fd) (n : Nat) : ∃ w, s.count f n = { s with regs := w } := ⟨_, rfl⟩

/-- An event stands in a register word. -/
theorem raise_frame (s : State) (page bit : Nat) : ∃ w, s.raise page bit = { s with regs := w } := ⟨_, rfl⟩

/-- A failed ring operator is counted in registers and nowhere else. -/
theorem ringFailed_frame (s : State) (r : Req) (a : Ans) : ∃ w, s.ringFailed r a = { s with regs := w } := by
  obtain ⟨w, hw⟩ := count_frame s R.PFX_COUNTS_RING_FAIL 1
  obtain ⟨v, hv⟩ := raise_frame { s with regs := w } 22 10
  unfold State.ringFailed
  rw [hw, hv]
  split
  case h_3 => exact ⟨_, rfl⟩
  all_goals
    split
    · exact ⟨_, rfl⟩
    · exact ⟨v, rfl⟩

/-- The replay record stands in the access plane and nowhere else. -/
theorem replayDone_frame (s : State) (r : Req) (a : Ans) : ∃ x, s.replayDone r a = { s with acc := x } := by
  unfold State.replayDone
  dsimp only
  split <;> exact ⟨_, rfl⟩

/-- The replay record, where the operation has one, leaves everything outside the access plane. -/
theorem replay_frame (s : State) (r : Req) (a : Ans) :
    ∃ x, (if r.op.cached then s.replayDone r a else s) = { s with acc := x } := by
  split
  · exact replayDone_frame ..
  · exact ⟨_, rfl⟩

/-- Before an answer that is no fault, registers and the access plane alone may change. -/
theorem beforeAnswer_frame {a : Ans} (h : Status.faults a.status = false) (s : State) (r : Req) :
    ∃ w x, s.beforeAnswer r a = { s with regs := w, acc := x } := by
  obtain ⟨w, hw⟩ := ringFailed_frame s r a
  obtain ⟨x, hx⟩ := replay_frame (s.ringFailed r a) r a
  refine ⟨w, x, ?_⟩
  unfold State.beforeAnswer
  simp only [h, Bool.false_eq_true, if_false]
  rw [hx, hw]

/-! ### Fault entries -/

theorem FaultQ.push_entries {q : FaultQ} (h : q.entries.length < 1024) (e : FaultEntry) :
    (q.push e).entries = q.entries ++ [e] := by
  simp [FaultQ.push, h]

/-- A raised event stands in its page's `PG_EVT_STATUS`. -/
theorem raise_event (s : State) (page bit : Nat) (h : bit < 64) :
    ((s.raise page bit).word (page * 0x1000 + 0x20)).getLsbD bit = true := by
  simp only [State.raise, State.word, State.setWord, mgetD_msetD, if_true, BitVec.getLsbD_or, BitVec.getLsbD_ofNat,
    Nat.testBit_two_pow_self, h, decide_true, Bool.and_self, Bool.or_true]

/-- The state in which a tenant's fault entry has its copy placed: the tenant's queue holds the entry, and the NOTIFY of a
queue that fills has been sent. -/
theorem tenantFault_eq (s : State) (e : FaultEntry) :
    ∃ u : State, SameFaultSide { s with xlt := { s.xlt with fq := mset s.xlt.fq e.tenant ((s.fq e.tenant).push e) } } u ∧
      s.tenantFault e = u.mgmtFault { e with handle := 0, offset := 0 } := by
  refine ⟨_, ?_, rfl⟩
  dsimp only
  split
  · split
    · exact SameFaultSide.refl _
    · exact SameFaultSide.message ..
  · exact SameFaultSide.refl _

theorem tenantFault_fq (s : State) (e : FaultEntry) : (s.tenantFault e).fq e.tenant = (s.fq e.tenant).push e := by
  obtain ⟨u, hu, h⟩ := tenantFault_eq s e
  calc (s.tenantFault e).fq e.tenant = u.fq e.tenant := by rw [h]; rfl
    _ = _ := hu.fq _
    _ = (s.fq e.tenant).push e := by simp [State.fq, mgetD, mget_mset]

theorem tenantFault_mfq (s : State) (e : FaultEntry) :
    (s.tenantFault e).xlt.mfq = s.xlt.mfq.push { e with handle := 0, offset := 0 } := by
  obtain ⟨u, hu, h⟩ := tenantFault_eq s e
  rw [h]
  simp [State.mgmtFault, hu.xlt]

theorem tenantFault_ecc (s : State) (e : FaultEntry) : (s.tenantFault e).ecc = s.ecc := by
  obtain ⟨u, hu, h⟩ := tenantFault_eq s e
  rw [h]
  exact hu.ecc

/-- A tenant's fault raises the event of the management queue. -/
theorem tenantFault_event (s : State) (e : FaultEntry) : ((s.tenantFault e).word 0x13020).getLsbD 10 = true :=
  raise_event _ 19 10 (by decide)

/-- The fault entry of a request that completes with a fault. -/
def State.reqEntry (s : State) (r : Req) (a : Ans) : FaultEntry :=
  ⟨(s.now - s.frameStart) % frameCycles, s.frame, a.status, r.op.code, r.holder, r.tenant, false, a.handle,
    a.detail % 2 ^ 32, a.off % 2 ^ 40⟩

theorem reqFault_eq (s : State) (r : Req) (a : Ans) : s.reqFault r a = s.tenantFault (s.reqEntry r a) := rfl

theorem reqFault_fq (s : State) (r : Req) (a : Ans) :
    (s.reqFault r a).fq r.tenant = (s.fq r.tenant).push (s.reqEntry r a) := tenantFault_fq s (s.reqEntry r a)

/-- Before an answer that is a fault, its entry is placed; the rest of the fault side is that of the state the entry is
placed in. -/
theorem beforeAnswer_fault {a : Ans} (h : Status.faults a.status = true) (s : State) (r : Req) :
    SameFaultSide ((s.ringFailed r a).reqFault r a) (s.beforeAnswer r a) := by
  unfold State.beforeAnswer
  simp only [h, if_true]
  obtain ⟨x, hx⟩ := replay_frame ((s.ringFailed r a).reqFault r a) r a
  rw [hx]
  exact ⟨rfl, rfl, rfl⟩

/-! ### The three ways of an answer -/

/-- R262: an IPT request without ACCEPT is answered by one RESPONSE at the end of the egress queue. -/
theorem respond_response {s : State} {r : Req} {a : Ans} {x : Conn} (hv : r.via = .ipt) (hc : r.chunk = none)
    (ha : r.accepted = false) (hx : s.conn r.conn = some x) (hf : Status.faults a.status = false) :
    ∃ it : EgItem, (s.respond r a).qos.egr = s.qos.egr ++ [it] ∧ it.pkt = r.answer a ∧ it.tenant = some r.tenant ∧
      it.port = r.src.port ∧ it.sub = r.src.sub ∧ it.reqBytes = some r.bodyLen ∧
      (s.respond r a).xlt = s.xlt ∧ (s.respond r a).prt = s.prt ∧ (s.respond r a).ecc = s.ecc := by
  obtain ⟨w, acc, hu⟩ := beforeAnswer_frame hf s r
  have hux : (s.beforeAnswer r a).conn r.conn = some x := by rw [hu]; exact hx
  have hs : s.respond r a = (s.beforeAnswer r a).egPush r.src.port r.src.sub (some r.tenant) (some r.bodyLen) r.boundFrom
      a.body.length (r.answer a) := by
    rw [respond_request hc]
    simp [State.sendAnswer, hv, hux, ha, Req.answer]
  refine ⟨⟨r.src.port, r.src.sub, some r.tenant, egressCost a.body.length, s.now, some r.bodyLen, r.boundFrom, r.answer a⟩,
    ?_, rfl, rfl, rfl, rfl, rfl, ?_⟩
  · rw [hs, egPush_egr, hu]
  · rw [hs, egPush_frame, hu]
    exact ⟨rfl, rfl, rfl⟩

/-- R267: an IPT request that has had ACCEPT is answered by one MESSAGE, which its connection keeps. -/
theorem respond_message {s : State} {r : Req} {a : Ans} {x : Conn} (hv : r.via = .ipt) (hc : r.chunk = none)
    (ha : r.accepted = true) (hx : s.conn r.conn = some x) (hf : Status.faults a.status = false) :
    ∃ (y : Conn) (m : Msg), (s.respond r a).conn r.conn = some y ∧ y.msgs = x.msgs ++ [m] ∧ m.tries = 0 ∧
      y.txSeq = x.txSeq + 1 ∧ (s.respond r a).sends m.pkt ∧ (s.respond r a).ecc = s.ecc := by
  obtain ⟨w, acc, hu⟩ := beforeAnswer_frame hf s r
  have hux : (s.beforeAnswer r a).conn r.conn = some x := by rw [hu]; exact hx
  have hs : s.respond r a = (s.beforeAnswer r a).message r.conn r.op.msgCode a.status r.reqId (BitVec.ofNat 64 a.aux)
      (r.op.msgBody a.body) r.e2e true r.boundFrom := by
    rw [respond_request hc]
    simp [State.sendAnswer, hv, hux, ha]
  obtain ⟨m, htries, hsends, hconn⟩ := message_kept hux r.op.msgCode a.status r.reqId (BitVec.ofNat 64 a.aux)
    (r.op.msgBody a.body) r.e2e r.boundFrom
  rw [← hs] at hsends hconn
  have hecc : (s.respond r a).ecc = (s.beforeAnswer r a).ecc := by rw [hs]; exact (SameFaultSide.message ..).ecc
  exact ⟨_, m, hconn, rfl, htries, rfl, hsends, hecc.trans (by rw [hu])⟩

/-- R38: an answer that is a fault places the request's entry in its tenant's queue and the copy in the management queue. -/
theorem respond_fault {s : State} {r : Req} {a : Ans} (hc : r.chunk = none) (hf : Status.faults a.status = true)
    (hlen : (s.fq r.tenant).entries.length < 1024) :
    ∃ e : FaultEntry, ((s.respond r a).fq r.tenant).entries = (s.fq r.tenant).entries ++ [e] ∧ e.status = a.status ∧
      e.opcode = r.op.code ∧ e.holder = r.holder ∧ e.handle = a.handle ∧ e.offset = a.off % 2 ^ 40 ∧
      (s.xlt.mfq.entries.length < 1024 →
        (s.respond r a).xlt.mfq.entries = s.xlt.mfq.entries ++ [{ e with handle := 0, offset := 0 }]) ∧
      ((s.respond r a).word 0x13020).getLsbD 10 = true ∧ (s.respond r a).ecc = s.ecc := by
  obtain ⟨w, hw⟩ := ringFailed_frame s r a
  have hfq : (s.ringFailed r a).fq r.tenant = s.fq r.tenant := by rw [hw]; rfl
  have hmfq : (s.ringFailed r a).xlt.mfq = s.xlt.mfq := by rw [hw]
  have hecc : (s.ringFailed r a).ecc = s.ecc := by rw [hw]
  have hs : SameFaultSide ((s.ringFailed r a).reqFault r a) (s.respond r a) := by
    rw [respond_request hc]
    exact (beforeAnswer_fault hf s r).trans (.sendAnswer ..)
  refine ⟨(s.ringFailed r a).reqEntry r a, ?_, rfl, rfl, rfl, rfl, rfl, fun hm => ?_, ?_, ?_⟩
  · rw [hs.fq, reqFault_fq, hfq, FaultQ.push_entries hlen]
  · rw [hs.xlt, reqFault_eq, tenantFault_mfq, hmfq, FaultQ.push_entries hm]
  · rw [hs.word, reqFault_eq, tenantFault_event]
  · rw [hs.ecc, reqFault_eq, tenantFault_ecc, hecc]

/-- Settles O32: the RESPONSE, the kept MESSAGE and the fault entry are what `State.respond` comes to in its three cases. -/
theorem answersAreSentOnce : Obligations.AnswersAreSentOnce :=
  ⟨fun _ _ _ _ hv hc ha hx hf => respond_response hv hc ha hx hf,
    fun _ _ _ _ hv hc ha hx hf => respond_message hv hc ha hx hf,
    fun _ _ _ hc hf hlen => respond_fault hc hf hlen⟩

/-! ## Proofs: every command is answered with a next state (O2)

Most rows answer `.next` of one expression. These are the others: rows whose answer branches, each way to a next state, or takes
a pair apart. -/

/-- A choice between two outcomes that are next states is a next state. -/
theorem next_of_ite {p : Prop} [Decidable p] {a b : Out} (ha : ∃ t, a = .next t) (hb : ∃ t, b = .next t) :
    ∃ t, (if p then a else b) = .next t := by
  split
  · exact ha
  · exact hb

theorem execPeerSessionRetry_next (pair : Bool) (peer : Nat) (ok : Bool) (s : State) :
    ∃ t, execPeerSessionRetry pair peer ok s = .next t :=
  next_of_ite ⟨_, rfl⟩ (next_of_ite ⟨_, rfl⟩ (next_of_ite ⟨_, rfl⟩ ⟨_, rfl⟩))

theorem execHeldNotifyDiscard_next (holder : Nat) (s : State) : ∃ t, execHeldNotifyDiscard holder s = .next t := by
  unfold execHeldNotifyDiscard
  split <;> exact ⟨_, rfl⟩

theorem execReplayHoldExpire_next (set : Nat) (s : State) : ∃ t, execReplayHoldExpire set s = .next t := by
  unfold execReplayHoldExpire
  dsimp only
  split <;> exact ⟨_, rfl⟩

theorem execResyncTimeout_next (set : Nat) (s : State) : ∃ t, execResyncTimeout set s = .next t :=
  next_of_ite ⟨_, rfl⟩ ⟨_, rfl⟩

theorem execTrainingStart_next (n : Nat) (s : State) : ∃ t, execTrainingStart n s = .next t :=
  next_of_ite ⟨_, rfl⟩ ⟨_, rfl⟩

theorem execTrainingTimeout_next (n : Nat) (s : State) : ∃ t, execTrainingTimeout n s = .next t :=
  next_of_ite ⟨_, rfl⟩ ⟨_, rfl⟩

theorem execFastRetrainComplete_next (n : Nat) (s : State) : ∃ t, execFastRetrainComplete n s = .next t :=
  next_of_ite ⟨_, rfl⟩ (next_of_ite ⟨_, rfl⟩ ⟨_, rfl⟩)

theorem execNakRepeat_next (n : Nat) (s : State) : ∃ t, execNakRepeat n s = .next t := by
  unfold execNakRepeat
  dsimp only
  split
  · exact ⟨_, rfl⟩
  · exact next_of_ite ⟨_, rfl⟩ ⟨_, rfl⟩

theorem execReplayTimeout_next (n : Nat) (s : State) : ∃ t, execReplayTimeout n s = .next t :=
  next_of_ite ⟨_, rfl⟩ ⟨_, rfl⟩

theorem execLinkCellPeriodic_next (n : Nat) (s : State) : ∃ t, execLinkCellPeriodic n s = .next t :=
  next_of_ite ⟨_, rfl⟩ ⟨_, rfl⟩

theorem execReasmTimeout_next (src msgId : Nat) (s : State) : ∃ t, execReasmTimeout src msgId s = .next t := by
  unfold execReasmTimeout
  split <;> exact ⟨_, rfl⟩

theorem execEvcClaim_next (src : RegSrc) (c : Nat) (s : State) : ∃ t, execEvcClaim src c s = .next t := by
  unfold execEvcClaim
  split
  exact ⟨_, rfl⟩

/-- Settles O2, row by row: the rows with a lemma above by it, every other one by its definition. -/
theorem everyCommandAnswersANextState : Obligations.EveryCommandAnswersANextState := by
  intro c s
  cases c
  case peerSessionRetry => exact execPeerSessionRetry_next ..
  case heldNotifyDiscard => exact execHeldNotifyDiscard_next ..
  case replayHoldExpire => exact execReplayHoldExpire_next ..
  case resyncTimeout => exact execResyncTimeout_next ..
  case trainingStart => exact execTrainingStart_next ..
  case trainingTimeout => exact execTrainingTimeout_next ..
  case fastRetrainComplete => exact execFastRetrainComplete_next ..
  case nakRepeat => exact execNakRepeat_next ..
  case replayTimeout => exact execReplayTimeout_next ..
  case linkCellPeriodic => exact execLinkCellPeriodic_next ..
  case evcClaim src c => exact execEvcClaim_next src c s
  case reasmTimeout => exact execReasmTimeout_next ..
  all_goals exact ⟨_, rfl⟩

end Sys2Proof.Machine

/-! ## Proofs: bits of a number and fields of a register word

What a field reads after a field or a word has been put: the new value, or what it was. -/

namespace Sys2Proof.Machine

theorem testBit_bitsOf (v l w i : Nat) : (bitsOf v l w).testBit i = (decide (i < w) && v.testBit (l + i)) := by
  simp [bitsOf, Nat.testBit_mod_two_pow, Nat.testBit_shiftRight]

/-- The bits that `setBitsOf` puts are those of the new value; every other bit stays. -/
theorem testBit_setBitsOf (v l w x i : Nat) :
    (setBitsOf v l w x).testBit i = if l ≤ i ∧ i < l + w then x.testBit (i - l) else v.testBit i := by
  have hv : v = 2 ^ l * (2 ^ w * (v >>> l / 2 ^ w) + bitsOf v l w) + v % 2 ^ l := by
    rw [bitsOf, Nat.div_add_mod, Nat.shiftRight_eq_div_pow, Nat.div_add_mod]
  have hs : setBitsOf v l w x = 2 ^ l * (2 ^ w * (v >>> l / 2 ^ w) + x % 2 ^ w) + v % 2 ^ l := by
    unfold setBitsOf
    conv => lhs; enter [1, 1]; rw [hv]
    rw [Nat.mul_add, Nat.mul_add, Nat.mul_comm (bitsOf v l w), Nat.mul_comm (x % 2 ^ w)]
    omega
  have hl : v % 2 ^ l < 2 ^ l := Nat.mod_lt _ (Nat.two_pow_pos l)
  have hx : x % 2 ^ w < 2 ^ w := Nat.mod_lt _ (Nat.two_pow_pos w)
  rw [hs, Nat.testBit_two_pow_mul_add _ hl, Nat.testBit_two_pow_mul_add _ hx]
  by_cases h1 : i < l
  · simp [h1, Nat.testBit_mod_two_pow, Nat.not_le.2 h1]
  by_cases h2 : i - l < w
  · have : i < l + w := by omega
    simp [h1, h2, Nat.testBit_mod_two_pow, Nat.le_of_not_lt h1, this]
  · have h3 : ¬ i < l + w := by omega
    have h4 : l + (w + (i - l - w)) = i := by omega
    simp [h1, h2, h3, Nat.testBit_shiftRight, ← Nat.shiftRight_eq_div_pow, h4]

/-- A replaced field reads as the low bits of its new value. -/
theorem bitsOf_setBitsOf_same (v l w x : Nat) : bitsOf (setBitsOf v l w x) l w = x % 2 ^ w := by
  refine Nat.eq_of_testBit_eq fun i => ?_
  rw [testBit_bitsOf, testBit_setBitsOf, Nat.testBit_mod_two_pow]
  by_cases h : i < w <;> simp [h]

/-- A field that does not overlap the replaced one keeps its value. -/
theorem bitsOf_setBitsOf_other (v x : Nat) {l w l' w' : Nat} (h : l + w ≤ l' ∨ l' + w' ≤ l) :
    bitsOf (setBitsOf v l w x) l' w' = bitsOf v l' w' := by
  refine Nat.eq_of_testBit_eq fun i => ?_
  rw [testBit_bitsOf, testBit_bitsOf, testBit_setBitsOf]
  by_cases hi : i < w'
  · rw [if_neg (by omega)]
  · simp [hi]

/-- A field that lies within a word does not see the bits above it. -/
theorem bitsOf_toNat_ofNat (n : Nat) {l w : Nat} (h : l + w ≤ 64) :
    bitsOf (BitVec.ofNat 64 n).toNat l w = bitsOf n l w := by
  refine Nat.eq_of_testBit_eq fun i => ?_
  rw [testBit_bitsOf, testBit_bitsOf, BitVec.toNat_ofNat, Nat.testBit_mod_two_pow]
  by_cases hi : i < w
  · simp [show l + i < 64 by omega]
  · simp [hi]

theorem bitsOf_lt (v l w : Nat) : bitsOf v l w < 2 ^ w := Nat.mod_lt _ (Nat.two_pow_pos w)

section
variable (s : State)

theorem word_setWord (off off' : Nat) (w : Word64) :
    (s.setWord off w).word off' = if off' = off then w else s.word off' := by
  unfold State.word State.setWord
  by_cases h : off' = off
  · subst h; simp [mgetD_msetD]
  · simp only [if_neg h]
    unfold mgetD msetD
    split
    · rw [mget_mdel, if_neg h]
    · rw [mget_mset, if_neg h]

/-- A field of another register is as it was. -/
theorem fld_setWord_other {off : Nat} (w : Word64) {f : Fd} (h : f.off ≠ off) : (s.setWord off w).fld f = s.fld f := by
  unfold State.fld; rw [word_setWord, if_neg h]

theorem fld_setFld_same (f : Fd) (v : Nat) (h : f.lsb + f.w ≤ 64) : (s.setFld f v).fld f = v % 2 ^ f.w := by
  unfold State.fld State.setFld
  rw [word_setWord, if_pos rfl, bitsOf_toNat_ofNat _ h, bitsOf_setBitsOf_same]

/-- A field beside the one that is put, in its register or in another, is as it was. -/
theorem fld_setFld_other {f g : Fd} (v : Nat) (hg : g.lsb + g.w ≤ 64)
    (h : g.off ≠ f.off ∨ f.lsb + f.w ≤ g.lsb ∨ g.lsb + g.w ≤ f.lsb) : (s.setFld f v).fld g = s.fld g := by
  by_cases ho : g.off = f.off
  · have hd := h.resolve_left fun hne => hne ho
    unfold State.fld State.setFld
    rw [word_setWord, if_pos ho, bitsOf_toNat_ofNat _ hg, bitsOf_setBitsOf_other _ _ hd, ho]
  · exact fld_setWord_other s _ ho

/-- A raised event changes `PG_EVT_STATUS` of its page alone. -/
theorem fld_raise_other (page bit : Nat) {f : Fd} (h : f.off ≠ page * 0x1000 + 0x20) :
    (s.raise page bit).fld f = s.fld f := fld_setWord_other s _ h

theorem fld_count_other {f g : Fd} (n : Nat) (h : g.off ≠ f.off) : (s.count f n).fld g = s.fld g :=
  fld_setWord_other s _ h

end

end Sys2Proof.Machine

/-! ## Proofs: a write of a template's slot register (O27)

The sixteen 4-bit fields of a slot register cover its word, so a write stores in each the code that it keeps, and every other
code is one clamp record. -/

namespace Sys2Proof.Machine

/-! ### Clamp records -/

section
variable (s : State)

/-- One record more in the clamp log, where TOTAL saturates (R417). -/
theorem clogPush_total (page field kind source : Nat) (written stored : Word64) :
    (clogPush s page field kind source written stored).fld R.GLB_CLOG_STATUS_TOTAL =
      min (s.fld R.GLB_CLOG_STATUS_TOTAL + 1) 0xFFFFFFFF := by
  have hmin : min (s.fld R.GLB_CLOG_STATUS_TOTAL + 1) 0xFFFFFFFF % 2 ^ 32 =
      min (s.fld R.GLB_CLOG_STATUS_TOTAL + 1) 0xFFFFFFFF := Nat.mod_eq_of_lt (by omega)
  unfold clogPush
  dsimp only
  split
  · rw [fld_raise_other _ _ _ (by decide), fld_setFld_other _ _ (by decide) (by decide),
      fld_setFld_same _ _ _ (by decide)]
    exact hmin
  · rw [fld_setFld_same _ _ _ (by decide)]
    exact hmin

theorem recordClamp_total {page : Nat} (hp : (pageInfo page).isSome) (field kind source : Nat) (written stored : Word64) :
    (recordClamp s page field kind source written stored).fld R.GLB_CLOG_STATUS_TOTAL =
      min (s.fld R.GLB_CLOG_STATUS_TOTAL + 1) 0xFFFFFFFF := by
  have hn : (pageInfo page).isNone = false := by simpa using hp
  have ho (o : Nat) (h1 : 0x20 ≤ o) (h2 : o ≤ 0x48) : R.GLB_CLOG_STATUS_TOTAL.off ≠ page * 0x1000 + o := by
    show (0x118 : Nat) ≠ _; omega
  have hi : R.GLB_CLOG_STATUS_TOTAL.off ≠ 0x38 + page * 0x1000 := by rw [Nat.add_comm]; exact ho _ (by decide) (by decide)
  unfold recordClamp
  simp only [hn, Bool.false_eq_true, if_false]
  rw [fld_raise_other _ _ _ (ho _ (by decide) (by decide)), fld_setWord_other _ _ (ho _ (by decide) (by decide)),
    fld_setWord_other _ _ (ho _ (by decide) (by decide)), fld_count_other _ _ hi,
    fld_setFld_other _ _ (by decide) (.inl hi), fld_setFld_other _ _ (by decide) (.inl hi), clogPush_total]

/-- A clamp raises CLAMP of its page. -/
theorem recordClamp_event {page : Nat} (hp : (pageInfo page).isSome) (field kind source : Nat) (written stored : Word64) :
    ((recordClamp s page field kind source written stored).word (page * 0x1000 + 0x20)).getLsbD 0 = true := by
  have hn : (pageInfo page).isNone = false := by simpa using hp
  unfold recordClamp
  simp only [hn, Bool.false_eq_true, if_false]
  exact raise_event _ page 0 (by decide)

theorem clogPush_held (page field kind source : Nat) (written stored : Word64) :
    (clogPush s page field kind source written stored).held = s.held := by
  unfold clogPush
  dsimp only
  split
  · rw [raise_held, setFld_held, setFld_held, setFld_held, setWord_held, setWord_held, setWord_held, setWord_held]
  · rw [setFld_held, setFld_held, setWord_held, setWord_held, setWord_held, setWord_held]

/-- A clamp record stands in register words. -/
theorem recordClamp_held (page field kind source : Nat) (written stored : Word64) :
    (recordClamp s page field kind source written stored).held = s.held := by
  unfold recordClamp
  dsimp only
  split
  · rw [clogPush_held]
  · rw [raise_held, setWord_held, setWord_held, count_held, setFld_held, setFld_held, clogPush_held]

end
section
variable (page source : Nat) (written stored : Word64)

/-- The records of a list of clamps, made in order (R411). -/
def State.clampsAt (s : State) (cs : List (Nat × Nat)) : State :=
  cs.foldl (fun s c => recordClamp s page c.1 c.2 source written stored) s

theorem clampsAt_held (cs : List (Nat × Nat)) (s : State) :
    (s.clampsAt page source written stored cs).held = s.held := by
  induction cs generalizing s with
  | nil => rfl
  | cons c cs ih => exact (ih _).trans (recordClamp_held ..)

theorem clampsAt_total {page : Nat} (hp : (pageInfo page).isSome) (cs : List (Nat × Nat)) (s : State) :
    (s.clampsAt page source written stored cs).fld R.GLB_CLOG_STATUS_TOTAL =
      min (s.fld R.GLB_CLOG_STATUS_TOTAL + cs.length) 0xFFFFFFFF := by
  induction cs generalizing s with
  | nil =>
    have := bitsOf_lt (s.word R.GLB_CLOG_STATUS_TOTAL.off).toNat 7 32
    exact (Nat.min_eq_left (Nat.le_of_lt_succ this)).symm
  | cons c cs ih =>
    refine (ih (recordClamp s page c.1 c.2 source written stored)).trans ?_
    rw [recordClamp_total s hp, List.length_cons]
    omega

theorem clampsAt_event {page : Nat} (hp : (pageInfo page).isSome) {cs : List (Nat × Nat)} (h : cs ≠ []) (s : State) :
    ((s.clampsAt page source written stored cs).word (page * 0x1000 + 0x20)).getLsbD 0 = true := by
  rw [← List.dropLast_concat_getLast h, State.clampsAt, List.foldl_append]
  exact recordClamp_event _ hp ..

end

/-- Where the register is no argument of an extent command, a write's clamps are recorded and nothing else. -/
theorem recordClamps_eq (s : State) {off : Nat} (h : ∀ b, isXltArg off b = false) (source : Nat) (written stored : Word64)
    (cs : List (Nat × Nat)) :
    s.recordClamps off source written stored cs = s.clampsAt (pageOf off) source written stored cs := by
  simp [State.recordClamps, State.clampsAt, h]

/-! ### The slot registers of the templates (Table 3.9) -/

/-- Field `i` of the slot register at `off`. -/
def slotField (off i : Nat) : Fd := ⟨off, 4 * i, 4, .rw, 0, 0, 5, some 0⟩

/-- The register of sixteen slots at `off`. -/
def slotReg (off : Nat) : Rg := ⟨off, 16, 0x80, 8, 8, false, (List.range 16).map (slotField off)⟩

theorem coverMask_slotReg (off : Nat) : coverMask (slotReg off).fields = 2 ^ 64 - 1 := by
  simp only [coverMask, slotReg, List.foldl_map, slotField]
  decide

theorem reservedRuns_slotReg (off : Nat) : reservedRuns (slotReg off).fields = [] := by
  rw [reservedRuns, coverMask_slotReg]
  decide

/-- A part above every part of a list goes behind them. -/
theorem insertPart_last {p : Part} {l : List Part} (h : ∀ q ∈ l, ¬ p.lsb < q.lsb) : insertPart p l = l ++ [p] := by
  induction l with
  | nil => rfl
  | cons q t ih =>
    rw [insertPart, if_neg (h q List.mem_cons_self), ih fun q hq => h q (List.mem_cons_of_mem _ hq)]
    rfl

/-- The slots of a register stand in it in ascending order. -/
theorem insertPart_slots (off n : Nat) :
    ((List.range n).map fun i => Part.field (slotField off i)).foldl (fun l p => insertPart p l) [] =
      (List.range n).map fun i => Part.field (slotField off i) := by
  induction n with
  | zero => rfl
  | succ n ih =>
    rw [List.range_succ, List.map_append, List.foldl_append, ih]
    refine insertPart_last fun q hq => ?_
    obtain ⟨i, hi, rfl⟩ := List.mem_map.1 hq
    have := List.mem_range.1 hi
    simp only [Part.lsb, slotField]
    omega

theorem partsOf_slotReg (off : Nat) : partsOf (slotReg off) = (List.range 16).map fun i => .field (slotField off i) := by
  rw [partsOf, reservedRuns_slotReg, List.map_nil, List.append_nil, slotReg, List.map_map]
  exact insertPart_slots off 16

/-- A register that is no array holds its own offset alone. -/
theorem covers_single {off o : Nat} (dir : Bool) (fs : List Fd) :
    Rg.covers ⟨off, 1, 0, 1, 0, dir, fs⟩ o = decide (o = off % 0x1000) := by
  simp only [Rg.covers, List.range_one, List.any_cons, List.any_nil, Bool.or_false, decide_eq_decide]
  omega

theorem covers_slots {k j : Nat} (hk : k < 16) (hj : j < 8) (fs : List Fd) :
    Rg.covers ⟨0xD200, 16, 0x80, 8, 8, false, fs⟩ (0x200 + 0x80 * k + 8 * j) = true := by
  simp only [Rg.covers, List.any_eq_true, List.mem_range, decide_eq_true_eq]
  exact ⟨k, hk, by omega⟩

/-- Slot register `j` of template `k` and its place in the window (Table 3.9). -/
theorem findReg_slotReg {k j : Nat} (hk : k < 16) (hj : j < 8) :
    findReg (0xD200 + 0x80 * k + 8 * j) = some (slotReg (0xD200 + 0x80 * k + 8 * j)) := by
  have hp : (0xD200 + 0x80 * k + 8 * j) / 0x1000 = 13 := by omega
  have ho : (0xD200 + 0x80 * k + 8 * j) % 0x1000 = 0x200 + 0x80 * k + 8 * j := by omega
  have hcrc : crcDedicated (0xD200 + 0x80 * k + 8 * j) = false := decide_eq_false (by omega)
  have hfind : (blockRegs 13).find? (fun r => r.covers (0x200 + 0x80 * k + 8 * j)) =
      some ⟨0xD200, 16, 0x80, 8, 8, false, Fd.rep R.FTM_TPL_S_SLOT 16 4⟩ := by
    have hlow (off : Nat) (h : off % 0x1000 < 0x200) (dir : Bool) (fs : List Fd) :
        Rg.covers ⟨off, 1, 0, 1, 0, dir, fs⟩ (0x200 + 0x80 * k + 8 * j) = false := by
      rw [covers_single]; exact decide_eq_false (by omega)
    simp [blockRegs, regsFTM0, hlow, covers_slots hk hj]
  unfold findReg
  simp only [hp, ho, hcrc, show pageInfo 13 = some (['F', 'T', 'M'], 0, 13) from rfl,
    show ¬ (0x200 + 0x80 * k + 8 * j < 0x100) by omega, if_false, hfind, Bool.false_eq_true, false_and]
  rfl

/-! ### A write of a slot register (R43) -/

/-- The code that slot field `i` keeps of a written word: 0 for one that Table 3.2 does not have. -/
def keptCode (w i : Nat) : Nat := if bitsOf w (4 * i) 4 ≤ 5 then bitsOf w (4 * i) 4 else 0

/-- The slots below `n` whose written code Table 3.2 does not have. -/
def badSlots (w n : Nat) : List Nat := (List.range n).filter fun i => 6 ≤ bitsOf w (4 * i) 4

/-- A word whose slots below `n` hold the codes that they keep of a written one. -/
def keptWord (cur w n : Nat) : Nat := (List.range n).foldl (fun v i => setBitsOf v (4 * i) 4 (keptCode w i)) cur

theorem keptCode_lt (w i : Nat) : keptCode w i < 2 ^ 4 := by
  unfold keptCode; split <;> omega

theorem bitsOf_keptWord (cur w : Nat) {n i : Nat} (h : i < n) : bitsOf (keptWord cur w n) (4 * i) 4 = keptCode w i := by
  induction n with
  | zero => omega
  | succ n ih =>
    have hstep : keptWord cur w (n + 1) = setBitsOf (keptWord cur w n) (4 * n) 4 (keptCode w n) := by
      simp [keptWord, List.range_succ]
    rw [hstep]
    by_cases hi : i = n
    · rw [hi, bitsOf_setBitsOf_same, Nat.mod_eq_of_lt (keptCode_lt w n)]
    · rw [bitsOf_setBitsOf_other _ _ (by omega), ih (by omega)]

section
variable {off : Nat} (hpage : pageOf off = 13) (hoff : 0x200 ≤ off % 0x1000)
include hpage

/-- No rule of its chapter decides what a slot field stores. -/
theorem writeRule_slotField (s : State) (i v w : Nat) : s.writeRule (slotField off i) v w = none := by
  have h : off / 0x1000 = 13 := hpage
  have h1 : off ≠ 0x13100 := by omega
  have h2 : off ≠ 0x12110 := by omega
  have h3 : off ≠ 0x2118 := by omega
  have h4 : off ≠ 0x30120 := by omega
  have h5 : off ≠ 0x30100 := by omega
  simp [State.writeRule, slotField, hpage, h1, h2, h3, h4, h5]

/-- A slot field stores the code that it keeps; one that Table 3.2 does not have is a clamp to the enumeration's safe value. -/
theorem clampField_slotField (s : State) (i w : Nat) :
    s.clampField (slotField off i) (bitsOf w (4 * i) 4) w =
      (keptCode w i, if 6 ≤ bitsOf w (4 * i) 4 then kEnum else 0) := by
  unfold State.clampField
  rw [writeRule_slotField hpage]
  simp only [slotField, keptCode, Nat.not_lt_zero, or_false]
  by_cases h : 6 ≤ bitsOf w (4 * i) 4
  · rw [if_pos (by omega), if_neg (by omega), if_pos h]
  · rw [if_neg (by omega), if_pos (by omega), if_neg h]

include hoff

/-- What a write of a slot register stores, and its clamps. -/
theorem writeParts_slots (s : State) (cur w n : Nat) :
    s.writeParts off cur w ((List.range n).map fun i => .field (slotField off i)) =
      (keptWord cur w n, (badSlots w n).map fun i => (off % 0x1000 / 8 * 64 + 4 * i, kEnum)) := by
  have hevt : off % 0x1000 ≠ 0x028 := by omega
  unfold State.writeParts
  induction n with
  | zero => rfl
  | succ n ih =>
    rw [List.range_succ, List.map_append, List.foldl_append, ih]
    have hclamp := clampField_slotField hpage s n w
    simp only [List.map_cons, List.map_nil, List.foldl_cons, List.foldl_nil, slotField] at hclamp ⊢
    simp only [hevt, if_true, if_false, hclamp]
    by_cases h : 6 ≤ bitsOf w (4 * n) 4 <;> simp [keptWord, badSlots, List.range_succ, h, kEnum]

end
section
variable {k j : Nat} (hk : k < 16) (hj : j < 8) (src : RegSrc) (w : Word64) {s : State} (hlock : s.pageLocked 13 = false)

/-- The state in which a slot register's held copy has the written word. -/
def State.slotsHeld (s : State) (off : Nat) (w : Word64) : State :=
  { s with held := mset s.held off (BitVec.ofNat 64 (keptWord (s.heldWord off).toNat w.toNat 16)) }

/-- The clamps of a written word of the slot register at `off`. -/
def slotClamps (off : Nat) (w : Word64) : List (Nat × Nat) :=
  (badSlots w.toNat 16).map fun i => (off % 0x1000 / 8 * 64 + 4 * i, kEnum)

include hk hj in
theorem slotReg_notXltArg (b : Nat) : isXltArg (0xD200 + 0x80 * k + 8 * j) b = false := by
  have h1 : 0xD200 + 0x80 * k + 8 * j ≠ 0x13110 := by omega
  have h2 : 0xD200 + 0x80 * k + 8 * j ≠ 0x13118 := by omega
  have h3 : 0xD200 + 0x80 * k + 8 * j ≠ 0x13120 := by omega
  simp only [isXltArg, h1, h2, h3, decide_false, Bool.false_and, Bool.or_false]

include hk hj hlock in
/-- On an unlocked page the held copy takes the kept codes, and each other code is recorded. -/
theorem storeReg_slots : s.storeReg src (0xD200 + 0x80 * k + 8 * j) w =
    (s.slotsHeld (0xD200 + 0x80 * k + 8 * j) w).clampsAt 13 (srcCode src) w
      (BitVec.ofNat 64 (keptWord (s.heldWord (0xD200 + 0x80 * k + 8 * j)).toNat w.toNat 16))
      (slotClamps (0xD200 + 0x80 * k + 8 * j) w) := by
  have hfind := findReg_slotReg hk hj
  have hxlt := slotReg_notXltArg hk hj
  have hpage : pageOf (0xD200 + 0x80 * k + 8 * j) = 13 := by unfold pageOf; omega
  have hoff : 0x200 ≤ (0xD200 + 0x80 * k + 8 * j) % 0x1000 := by omega
  generalize 0xD200 + 0x80 * k + 8 * j = off at *
  have hrw : (slotReg off).fields.any (fun f => f.acc = .rw) = true :=
    List.any_eq_true.2 ⟨slotField off 0, List.mem_map.2 ⟨0, by decide, rfl⟩, rfl⟩
  have hnone : (slotReg off).fields.filter (fun f => f.acc = .w1c) = [] :=
    List.filter_eq_nil_iff.2 (by simp [slotReg, slotField])
  have hw1c : s.clearW1c (slotReg off) off w = s := by simp [State.clearW1c, hnone]
  have hparts := writeParts_slots hpage hoff s (s.heldWord off).toNat w.toNat 16
  unfold State.storeReg
  simp only [hfind, hrw, hw1c, hpage, hlock, Bool.and_false, Bool.false_and, Bool.false_eq_true, if_false,
    show (slotReg off).direct = false from rfl, partsOf_slotReg, hparts, Bool.not_true]
  rw [recordClamps_eq _ hxlt, hpage]
  rfl

include hk hj in
/-- A write of a slot register has no action of its own and never waits for a clock. -/
theorem busWrite_slots (s : State) : s.busWrite src (0xD200 + 0x80 * k + 8 * j) w =
    s.storeReg src (0xD200 + 0x80 * k + 8 * j) w := by
  have hok : offsetOk (0xD200 + 0x80 * k + 8 * j) = true := by
    simp only [offsetOk, Bool.and_eq_true, decide_eq_true_eq]
    omega
  have hpage : pageOf (0xD200 + 0x80 * k + 8 * j) = 13 := by unfold pageOf; omega
  have hoff : 0x200 ≤ (0xD200 + 0x80 * k + 8 * j) % 0x1000 := by omega
  have hlo : 0xD200 ≤ 0xD200 + 0x80 * k + 8 * j := by omega
  have hhi : 0xD200 + 0x80 * k + 8 * j < 0xE000 := by omega
  generalize 0xD200 + 0x80 * k + 8 * j = off at *
  have hwait : s.mustWait off = false := by simp [State.mustWait, State.clockStopped, hpage]
  unfold State.busWrite State.regWrite
  rw [if_pos hok, hwait, if_neg Bool.false_ne_true]
  unfold State.writeNow
  simp only [hpage, show off % 0x1000 ≠ 0x010 by omega, show off % 0x1000 ≠ 0x030 by omega,
    show off % 0x1000 ≠ 0x050 by omega, show ¬ off < 0xD000 by omega, and_false, if_false]
  unfold State.writeHigh
  simp only [hpage, show off ≠ 0x12110 by omega, show off ≠ 0x13110 by omega, show off ≠ 0x13140 by omega,
    show off ≠ 0x13148 by omega, show off ≠ 0x15128 by omega, show off ≠ 0x16118 by omega, show off ≠ 0x18158 by omega,
    show off ≠ 0x1A110 by omega, show off ≠ 0x30120 by omega, show (13 : Nat) ≠ 25 by decide, show ¬ 32 ≤ 13 by decide,
    show ¬ 49 ≤ 13 by decide, false_and, if_false]

end

/-- Settles O27: the held copy takes the kept codes, and each other code is one clamp of the write. -/
theorem templateSlotCodesAreClamped : Obligations.TemplateSlotCodesAreClamped := by
  intro src k j w s hk hj hlock bad
  have ht : s.busWrite src (0xD200 + 0x80 * k + 8 * j) w = _ :=
    (busWrite_slots hk hj src w s).trans (storeReg_slots hk hj src w hlock)
  have hlen : (slotClamps (0xD200 + 0x80 * k + 8 * j) w).length = bad := by simp [slotClamps, badSlots, bad]
  refine ⟨s.busWrite src (0xD200 + 0x80 * k + 8 * j) w, rfl, ?_⟩
  rw [ht]
  refine ⟨fun i hi => ?_, fun hb => ?_, fun hb => ⟨?_, ?_⟩⟩
  · have hat : ((R.FTM_TPL_S_SLOT.at (0x80 * k + 8 * j)).up (4 * i)) =
        ⟨0xD200 + (0x80 * k + 8 * j), 0 + 4 * i, 4, .rw, 0, 0, 5, some 0⟩ := rfl
    rw [hat, ← Nat.add_assoc, Nat.zero_add]
    unfold State.heldFld State.heldWord
    rw [clampsAt_held]
    simp only [State.slotsHeld, mgetD, mget_mset, if_true, Option.getD_some]
    rw [bitsOf_toNat_ofNat _ (by omega), bitsOf_keptWord _ _ hi, keptCode]
  · rw [List.eq_nil_of_length_eq_zero (hlen.trans hb)]
    rfl
  · exact clampsAt_event _ _ _ (by decide) (fun h => hb (by rw [← hlen, h]; rfl)) _
  · rw [clampsAt_total _ _ _ (by decide), hlen]
    rfl

end Sys2Proof.Machine

/-! ## Proofs: a GUARD slot (O13)

`Drained` says once what the drain may change; each of its eight positions takes one write at most. -/

namespace Sys2Proof.Machine

theorem pc_setPc_same (s : State) (p : Nat) (x : Pc) : (s.setPc p x).pc p = x := by
  simp [State.pc, State.setPc, mgetD, mget_mset]

theorem pc_setPc_other (s : State) {p q : Nat} (h : q ≠ p) (x : Pc) : (s.setPc p x).pc q = s.pc q := by
  simp [State.pc, State.setPc, mgetD, mget_mset, h]

/-- A column command changes its pseudo-channel's banks, the row counts and the time of the stack's last access. -/
theorem column_eq (s : State) (p g mc : Nat) (write keep : Bool) : ∃ w v x,
    s.column p g mc write keep = ({ s with regs := w, pwr := v } : State).setPc p x ∧ x.wq = (s.pc p).wq := by
  refine ⟨_, _, _, rfl, ?_⟩
  simp only [Pc.closeBank, apply_ite Pc.wq, ite_self]

/-- `t` has drained at most `n` writes of pseudo-channel `p` from `s`, none of another's, and left the stored bytes and the
translation as they are. -/
structure Drained (p n : Nat) (s t : State) : Prop where
  few : (s.pc p).wq.length ≤ (t.pc p).wq.length + n
  mem : ∀ e ∈ (t.pc p).wq, e ∈ (s.pc p).wq
  other : ∀ q, q ≠ p → t.pc q = s.pc q
  ecc : t.ecc = s.ecc
  xlt : t.xlt = s.xlt

namespace Drained
variable {p : Nat}

theorem refl (s : State) : Drained p 0 s s := ⟨Nat.le_refl _, fun _ h => h, fun _ _ => rfl, rfl, rfl⟩

theorem trans {n m : Nat} {s t u : State} (h : Drained p n s t) (k : Drained p m t u) : Drained p (n + m) s u where
  few := by have := h.few; have := k.few; omega
  mem e he := h.mem e (k.mem e he)
  other q hq := (k.other q hq).trans (h.other q hq)
  ecc := k.ecc.trans h.ecc
  xlt := k.xlt.trans h.xlt

/-- A step that gives the pseudo-channel a queue with the same writes drains none. -/
theorem of_setPc (s : State) {x : Pc} (h : x.wq = (s.pc p).wq) : Drained p 0 s (s.setPc p x) where
  few := by rw [pc_setPc_same, h]; exact Nat.le_refl _
  mem e he := by rwa [pc_setPc_same, h] at he
  other q hq := pc_setPc_other s hq x
  ecc := rfl
  xlt := rfl

theorem le {n m : Nat} {s t : State} (h : Drained p n s t) (hnm : n ≤ m) : Drained p m s t :=
  { h with few := Nat.le_trans h.few (by omega) }

theorem count (s : State) (f : Fd) (n : Nat) : Drained p 0 s (s.count f n) := { refl s with }

theorem toTime (s : State) (t : Nat) : Drained p 0 s (s.toTime t) := { refl s with }

/-- The write that leaves the queue is one. -/
theorem popWrite (s : State) (e : WqEntry) : Drained p 1 s (s.popWrite p e) := by
  have hwq : ((s.popWrite p e).pc p).wq = (s.pc p).wq.erase e := by rw [State.popWrite, pc_setPc_same]; rfl
  refine ⟨?_, fun x hx => ?_, fun q hq => pc_setPc_other s hq _, rfl, rfl⟩
  · rw [hwq, List.length_erase]
    split <;> omega
  · rw [hwq] at hx
    exact List.mem_of_mem_erase hx

/-- A column command leaves every queue as it is. -/
theorem column (s : State) (g mc : Nat) (write keep : Bool) : Drained p 0 s (s.column p g mc write keep) := by
  obtain ⟨w, v, x, heq, hwq⟩ := column_eq s p g mc write keep
  rw [heq]
  exact ⟨(of_setPc s hwq).few, (of_setPc s hwq).mem, (of_setPc s hwq).other, rfl, rfl⟩

theorem issueWrite (s : State) (e : WqEntry) (mc : Nat) : Drained p 1 s (s.issueWrite p e mc) :=
  (popWrite s e).trans (column ..)

/-- Positions that drain one write each drain together no more than there are. -/
theorem foldl {α β : Type} (f : State × β → α → State × β) (h : ∀ a x, Drained p 1 a.1 (f a x).1) (l : List α)
    (a : State × β) : Drained p l.length a.1 (l.foldl f a).1 := by
  induction l generalizing a with
  | nil => exact refl _
  | cons x l ih => rw [List.length_cons, Nat.add_comm]; exact (h a x).trans (ih _)

end Drained

theorem length_posTenants (s : State) (base n : Nat) : (s.posTenants base n).length = n := by
  unfold State.posTenants
  split
  · simp
  · simp

theorem length_numbered {α : Type} (l : List α) : (numbered l).length = l.length := by simp [numbered]

/-- One position of a GUARD slot: the write that issues there, if any, and the granules drained so far. -/
def guardPosition (p mc : Nat) (acc : State × List Nat) (k : Nat × Option Nat) : State × List Nat :=
  let m := mc + 4 * k.1
  let x := acc.1.pc p
  match firstWrite (fun e => forTenant k.2 e.tenant && x.colReady e.g m)
      (guardOrder { x with wq := x.wq.filter (acc.1.accessMay p) }) [] with
  | some e => (acc.1.issueWrite p e m, e.g :: acc.2)
  | none => acc

/-- The drain of a GUARD slot, position by position. -/
def State.guardDrain (s : State) (p slot : Nat) : State × List Nat :=
  (numbered (s.posTenants (s.posBase p slot) 8)).foldl (guardPosition p (s.slotMc slot)) (s, [])

/-- The drain waits that the drained granules make good are counted for the running call's tenant. -/
def State.countDrainWaits (s : State) (p : Nat) (done : List Nat) : State :=
  let left := (s.pc p).wq
  let waits := ((s.pc p).planned.filter fun c => !c.write && done.contains c.g && !(left.any fun e => e.g = c.g)).length
  match s.runCall with
  | some (_, c) => if waits = 0 then s else s.count (R.FTM_TS_WAITS_DRAIN_WAITS.at (0x20 * c.tenant)) waits
  | none => s

/-- The state in which a GUARD slot has drained its writes and counted its drain waits. -/
def State.guardDrained (s : State) (p slot : Nat) : State :=
  let a := (s.slotTime slot).guardDrain p slot
  a.1.countDrainWaits p a.2

/-- After its drain a GUARD slot precharges every bank. -/
theorem guardSlot_eq {s : State} {p slot : Nat} (hrun : s.slotRuns p slot = true) (huse : s.slotUse p slot = .guard) :
    s.guardSlot p slot =
      (s.guardDrained p slot).setPc p { (s.guardDrained p slot).pc p with openRows := [], idleAt := [] } := by
  unfold State.guardSlot
  rw [if_neg (by simp [hrun, huse])]
  rfl

theorem guardPosition_drained (p mc : Nat) (acc : State × List Nat) (k : Nat × Option Nat) :
    Drained p 1 acc.1 (guardPosition p mc acc k).1 := by
  unfold guardPosition
  dsimp only
  split
  · exact Drained.issueWrite ..
  · exact (Drained.refl _).le (by decide)

theorem guardDrain_drained (s : State) (p slot : Nat) : Drained p 8 s (s.guardDrain p slot).1 := by
  have h := Drained.foldl _ (guardPosition_drained p (s.slotMc slot)) (numbered (s.posTenants (s.posBase p slot) 8)) (s, [])
  rwa [length_numbered, length_posTenants] at h

theorem countDrainWaits_drained (s : State) (p : Nat) (done : List Nat) : Drained p 0 s (s.countDrainWaits p done) := by
  unfold State.countDrainWaits
  dsimp only
  split
  · split
    · exact Drained.refl _
    · exact Drained.count ..
  · exact Drained.refl _

theorem guardDrained_drained (s : State) (p slot : Nat) : Drained p 8 s (s.guardDrained p slot) :=
  (Drained.toTime s _).trans (n := 0) ((guardDrain_drained _ p slot).trans (m := 0) (countDrainWaits_drained ..))

/-- Settles O13: the eight positions of the drain take at most one write each, and the precharge closes every row. -/
theorem guardSlotDrainsAndPrecharges : Obligations.GuardSlotDrainsAndPrecharges := by
  intro p slot s hrun huse
  have hd := guardDrained_drained s p slot
  refine ⟨s.guardSlot p slot, rfl, ?_⟩
  rw [guardSlot_eq hrun huse, pc_setPc_same]
  exact ⟨rfl, rfl, hd.few, hd.mem, fun q hq => (pc_setPc_other _ hq _).trans (hd.other q hq), hd.ecc, hd.xlt⟩

end Sys2Proof.Machine

/-! ## Proofs: commit points and strict overruns (O38) -/

namespace Sys2Proof.Machine

/-- Equal states are the same outcome. -/
theorem next_eq {s t : State} (h : s = t) : (.next s : Out) = .next t := h ▸ rfl

/-- The state in which a commit point's tests have been made. -/
def State.atCommit (s : State) : State := (s.toTime (s.frameStart + 1800)).testCalls

section
variable {s : State}

theorem commitPoint_stopped (h : s.pwr.timer = false) : s.commitPoint = s := by simp [State.commitPoint, h]

/-- The choice of a commit point (R58, R59). -/
def State.commitChoice (s : State) : Option (CallRec × Option Nat) := if s.strict then s.strictChoice else s.sharedChoice

variable (ht : s.pwr.timer = true) (hheld : s.atCommit.heldForFree = false)
  (hlevel : s.atCommit.fld R.PWR_STATUS_LEVEL ≤ s.atCommit.frame % 8)
include ht hheld hlevel

/-- Where nothing awaits a free boundary and the frame is not skipped, a commit point comes to its choice while the plane is
free and the fronds are ready. -/
theorem commitPoint_runs : s.commitPoint =
    if s.atCommit.planeFree = false ∨ s.atCommit.frondsReady = false then s.atCommit
    else match s.atCommit.commitChoice with
      | some (c, tag) => s.atCommit.commitCall c tag
      | none => s.atCommit := by
  have hskip : ¬ s.atCommit.frame % 8 < s.atCommit.fld R.PWR_STATUS_LEVEL := Nat.not_lt.2 hlevel
  unfold State.atCommit at *
  unfold State.commitPoint
  simp only [ht, hheld, hskip, Bool.not_true, Bool.false_eq_true, if_false, false_or, Bool.not_eq_true'] <;> rfl

theorem commitPoint_busy (h : s.atCommit.planeFree = false ∨ s.atCommit.frondsReady = false) :
    s.commitPoint = s.atCommit := by
  rw [commitPoint_runs ht hheld hlevel, if_pos h]

variable (hplane : s.atCommit.planeFree = true) (hfronds : s.atCommit.frondsReady = true)
include hplane hfronds

theorem commitPoint_commits {c : CallRec} {tag : Option Nat} (h : s.atCommit.commitChoice = some (c, tag)) :
    s.commitPoint = s.atCommit.commitCall c tag := by
  rw [commitPoint_runs ht hheld hlevel, if_neg (by simp [hplane, hfronds]), h]

theorem commitPoint_none (h : s.atCommit.commitChoice = none) : s.commitPoint = s.atCommit := by
  rw [commitPoint_runs ht hheld hlevel, if_neg (by simp [hplane, hfronds]), h]

end

section
variable (s : State) (c : CallRec) (tag : Option Nat)

/-- A commitment adds the call's window, from the next boundary (R57). -/
theorem commitCall_windows : (s.commitCall c tag).ftm.windows =
    s.ftm.windows ++ [⟨c.key, c.tenant, s.frame + 1, s.framesFor c, 0⟩] := rfl

theorem commitCall_regs : (s.commitCall c tag).regs = s.regs := rfl

theorem commitCall_ecc : (s.commitCall c tag).ecc = s.ecc := rfl

/-- A commitment marks its own call. -/
theorem commitCall_own {x : CallRec} (hx : x ∈ (s.commitCall c tag).seq.calls) (hk : x.key = c.key) : x.committed = true := by
  obtain ⟨y, -, rfl⟩ := List.mem_map.1 hx
  by_cases h : y.key = c.key
  · simp [h]
  · simp [h] at hk

/-- A commitment leaves every other call. -/
theorem commitCall_other {x : CallRec} (hx : x ∈ s.seq.calls) (hk : x.key ≠ c.key) : x ∈ (s.commitCall c tag).seq.calls :=
  List.mem_map.2 ⟨x, hx, by simp [hk]⟩

/-- In shared mode the rotating priority moves past the tenant of the committed call (R59). -/
theorem commitCall_prio (h : s.strict = false) : (s.commitCall c tag).ftm.prio = (c.tenant + 1) % 64 :=
  if_neg (fun hs => Bool.false_ne_true (h.symm.trans hs))

end

theorem strictOverrun_idle {s : State} (h : s.closing = none ∨ s.strict = false) : s.strictOverrun = s := by
  unfold State.strictOverrun
  split
  · rfl
  next hc =>
    rcases h with h | h
    · rw [hc] at h; cases h
    · simp [h]

theorem strictOverrun_forces {s : State} {w : Window} {c : CallRec} (hc : s.closing = some (w, c)) (hs : s.strict = true)
    (ho : s.rotaOwner (s.frame + 1) ≠ some w.tenant) (he : s.endsBy w c = false) :
    s.strictOverrun = (s.toTime (s.frameStart + frameCycles)).forcedEnd w := by
  unfold State.strictOverrun
  rw [hc]
  exact if_pos ⟨hs, ho, by simp [he]⟩

/-- Settles O38: a commit point that comes to its choice commits the chosen call and nothing else, and a strict overrun ends a
call where its window closes. -/
theorem commitPointsOpenWindows : Obligations.CommitPointsOpenWindows := by
  refine ⟨fun s h => next_eq (commitPoint_stopped h), ?_, ?_, fun s h => next_eq (strictOverrun_idle h),
    fun s w c hc hs ho he => ⟨_, rfl, next_eq (strictOverrun_forces hc hs ho he)⟩⟩
  · intro s ht v hheld hlevel hplane hfronds
    refine ⟨fun c tag hchoice => ?_, fun hchoice => next_eq (commitPoint_none ht hheld hlevel hplane hfronds hchoice)⟩
    exact ⟨v.commitCall c tag, next_eq (commitPoint_commits ht hheld hlevel hplane hfronds hchoice),
      commitCall_windows v c tag, fun _ => commitCall_own v c tag, fun _ => commitCall_other v c tag,
      commitCall_regs v c tag, commitCall_ecc v c tag, commitCall_prio v c tag⟩
  · intro s ht v hheld hlevel hbusy
    exact next_eq (commitPoint_busy ht hheld hlevel hbusy)

end Sys2Proof.Machine

/-! ## Proofs: what awaits a frame boundary (O10) -/

namespace Sys2Proof.Machine

/-- At a boundary every fault retirement that awaited one has found it (R221). -/
theorem boundaryDue_retiring (s : State) (free : Bool) : (s.boundaryDue free).smc.retiring = [] := by
  unfold State.boundaryDue
  dsimp only
  split
  · rfl
  · split <;> rfl

theorem newFrame_retiring (s : State) : s.newFrame.smc.retiring = [] := boundaryDue_retiring ..

/-- A device with no committed window, where an integrity fault (cause 4) has asked for the retirement of pseudo-channel 0. -/
def retiringState : State := { State.reset with smc := { State.reset.smc with retiring := [(0, 4)] } }

/-- Refutes O10: with no committed window the stack memory controllers' state need not stay, as a boundary moves the fault
retirements that await it from `retiring` to `retireNow` (R221). -/
theorem not_frameBoundaryBeginsAFrame : ¬ Obligations.FrameBoundaryBeginsAFrame := by
  rintro ⟨-, -, h⟩
  obtain ⟨-, -, -, -, -, -, -, -, -, hsmc, -⟩ := h retiringState rfl
  have hnone := newFrame_retiring retiringState
  rw [hsmc] at hnone
  exact List.cons_ne_nil _ _ hnone

end Sys2Proof.Machine

/-! ## Proofs: a re-base and the map of pseudo-channels (O15) -/

namespace Sys2Proof.Machine

/-- A pseudo-channel in service with a read latency. -/
def servingPc (lat : Nat) : Pc := { resetPc with state := 1, rdLat := lat }

/-- `PL_LAT` is 40, latency 46 of pseudo-channel 0 awaits the boundary, and the map of pseudo-channels lists 0 twice: a read
finds the first entry, whose latency is 40, and the second entry has 100. -/
def shadowedState : State :=
  { State.reset with
    smc := { State.reset.smc with pcs := [(0, servingPc 40), (0, servingPc 100)] }
    ftm := { State.reset.ftm with calDue := [(0, 46)] } }
    |>.setFld R.FTM_REBASE_PL_LAT 40

/-- No pseudo-channel that is read beside 0 has a latency. -/
theorem shadowedState_rdLat {q : Nat} (h : q ≠ 0) : (shadowedState.pc q).rdLat = 0 := by
  simp [State.pc, shadowedState, mgetD, mget, Ne.symm h, resetPc]

/-- The largest latency plus 2 is that of the second entry. -/
theorem shadowedState_calApply : shadowedState.calApply.fld R.FTM_REBASE_PL_LAT = 102 := by decide

/-- Refutes O15: its fourth clause bounds the read latency of every other pseudo-channel as `State.pc` reads it, the first entry
of its number, while `State.latNeeded` takes the largest of all entries. Where the map lists a number twice, `PL_LAT` rises
beyond the new latency plus 2. A map in canonical form lists no number twice. -/
theorem not_boundaryEffectsOfTheFtm : ¬ Obligations.BoundaryEffectsOfTheFtm := by
  rintro ⟨-, -, -, h, -⟩
  have hq : ∀ q, q ≠ 0 → (shadowedState.pc q).rdLat ≤ 46 := fun q hne => by rw [shadowedState_rdLat hne]; decide
  obtain ⟨t, ht, -, -, -, hlat, -⟩ := h 0 46 shadowedState rfl rfl rfl (by decide) (by decide) (by decide) rfl hq
  have hnext : (.next shadowedState.calApply : Out) = .next t := ht
  injection hnext with heq
  rw [← heq, shadowedState_calApply] at hlat
  exact absurd hlat (by decide)

end Sys2Proof.Machine
